-- ==== Sys2Proof/Word.lean ====
section
/-!
DEFINITION. Word types of the VZ9 and their plainest arithmetic (R3, R108).
-/
namespace Sys2Proof

/-- One byte. -/
abbrev Byte := BitVec 8
/-- A code word, a lane's vector register, or a mask of 32 lanes. -/
abbrev W32 := BitVec 32
/-- A group register. -/
abbrev W64 := BitVec 64
/-- A set of lanes, bit l for lane l. -/
abbrev Mask := BitVec 32

end Sys2Proof
end

