-- ==== Sys2Proof/Config.lean ====
section
/-!
DEFINITION. What an implementation fixes, and the free values: constants without a body, about which nothing can be
proved (DESIGN CHOICE, log 2, 6, 15, 17, 67).
-/
namespace Sys2Proof.Config

/-- Log 15: the latency in cc of a variable-latency result, a store, an engine acknowledgement or an engine transfer
(R57: no number is given). The step applies it to the counter `State.free`. -/
opaque latency : Nat → Nat

/-- Log 2: a byte the manual leaves undefined (R110), applied to `State.free` and a position. -/
opaque freeByte : Nat → BitVec 8

/-- Log 2: which of several things the manual leaves to the device, applied to `State.free`. -/
opaque choose : Nat → Nat

/-- Log 6: the seal key that the root of trust draws for a context at CREATING (R346), as 256 bits. -/
opaque sealKey : Nat → BitVec 256

/-- Log 6: the SHA-256 hash of the HSS public key that the fuses hold (R381). -/
opaque keyHash : BitVec 256

/-- Log 6: the measurement of the root of trust's ROM and of the fuse block at reset (Table PLT-6). -/
opaque romDigest : BitVec 256
opaque fuseDigest : Nat → BitVec 256

/-- Log 6: the ECDSA P-384 signature of an attestation report under the device identity key (R384): 96 bytes, of which
byte i is the value at i. The second argument is the free counter, for the signature's random number. -/
opaque attestSig : List (BitVec 8) → Nat → Nat → BitVec 8

/-- Log 6: byte i of the x-coordinate of the point that ECDH gives for the device identity key and a public key of 97 bytes
(R384). -/
opaque sharedX : List (BitVec 8) → Nat → BitVec 8

/-- Log 67: a tenant's HBM traffic of the last 100 µs in GB/s and its power of the last 1 ms in W (R348), by the tenant and chip
time: what the package measures is not stated. -/
opaque traffic : Nat → Nat → Nat
opaque power : Nat → Nat → Nat

/-- Log 17: the second key that XTS-AES-256 uses beside the 256-bit key of a slot (R340): IEEE 1619 takes two keys of 256
bits, a slot is loaded with one, and the spec does not say where the other comes from. -/
opaque tweakKey : BitVec 256 → BitVec 256

end Sys2Proof.Config
end

