-- ==== Sys2Proof/Machine/Aes.lean ====
section
/-!
DEFINITION. AES-256 (FIPS 197), the XTS mode of IEEE 1619 on one 64-byte data unit (R340), and the AES key wrap of RFC 3394
(R384).
-/
namespace Sys2Proof.Machine

/-- Twice a byte as a polynomial over GF(2) modulo x⁸+x⁴+x³+x+1. -/
def gfTwice (b : Byte) : Byte := (b <<< 1) ^^^ (if b.msb then 0x1B else 0)
/-- The product of two such bytes, by the bits of the first from the top. -/
def gfMul (a b : Byte) : Byte :=
  (List.range 8).foldl (fun r i => gfTwice r ^^^ (if a.getLsbD (7 - i) then b else 0)) 0
/-- The inverse of a byte, 0 for 0: its 254th power. -/
def gfInv (b : Byte) : Byte := (List.range 7).foldl (fun r _ => let q := gfMul r b; gfMul q q) 1

/-- The substitution of a byte, and its inverse. -/
def aesSubAt (b : Byte) : Byte := ([1, 2, 3, 4].foldl (fun r k => r ^^^ (gfInv b).rotateLeft k) (gfInv b)) ^^^ 0x63
def aesUnsubAt (b : Byte) : Byte := gfInv ([1, 3, 6].foldl (fun r k => r ^^^ b.rotateLeft k) 0x05)
def aesSubTable : List Byte := (List.range 256).map fun i => aesSubAt (BitVec.ofNat 8 i)
def aesUnsubTable : List Byte := (List.range 256).map fun i => aesUnsubAt (BitVec.ofNat 8 i)
def aesSub (b : Byte) : Byte := aesSubTable.getD b.toNat 0
def aesUnsub (b : Byte) : Byte := aesUnsubTable.getD b.toNat 0

/-- The exclusive or of two strings of one length. -/
def xorBytes (a b : List Byte) : List Byte := List.zipWith (· ^^^ ·) a b

/-- The key schedule: word i from the words before it, newest first, each of 4 bytes. -/
def aesNextWord (i : Nat) (ws : List (List Byte)) : List Byte :=
  let last := ws.headD []
  let t := if i % 8 = 0 then
      xorBytes ((last.drop 1 ++ last.take 1).map aesSub) [(List.range (i / 8 - 1)).foldl (fun r _ => gfTwice r) 1, 0, 0, 0]
    else if i % 8 = 4 then last.map aesSub else last
  xorBytes (ws.getD 7 []) t
/-- The 15 round keys of a 32-byte key. -/
def aesKeys (key : List Byte) : List (List Byte) :=
  let first := (List.range 8).map fun i => (key.drop (4 * i)).take 4
  let all := ((List.range 52).foldl (fun ws i => aesNextWord (i + 8) ws :: ws) first.reverse).reverse
  (List.range 15).map fun r => ((all.drop (4 * r)).take 4).flatten

/-- Move row r of the state left by r columns, or back. -/
def aesShift (s : List Byte) : List Byte := (List.range 16).map fun i => s.getD ((i + 4 * (i % 4)) % 16) 0
def aesUnshift (s : List Byte) : List Byte := (List.range 16).map fun i => s.getD ((i + 12 * (i % 4)) % 16) 0
/-- Each column times the circulant matrix of a first row. -/
def aesMix (row : List Byte) (s : List Byte) : List Byte :=
  (List.range 16).map fun i => (List.range 4).foldl
    (fun r j => r ^^^ gfMul (row.getD ((j + 4 - i % 4) % 4) 0) (s.getD (i / 4 * 4 + j) 0)) 0

/-- One 16-byte block under a 32-byte key. -/
def aesEncrypt (key block : List Byte) : List Byte :=
  let ks := aesKeys key
  let s := (List.range 13).foldl
    (fun s r => xorBytes (aesMix [2, 3, 1, 1] (aesShift (s.map aesSub))) (ks.getD (r + 1) [])) (xorBytes block (ks.headD []))
  xorBytes (aesShift (s.map aesSub)) (ks.getD 14 [])
def aesDecrypt (key block : List Byte) : List Byte :=
  let ks := aesKeys key
  let s := (List.range 13).foldl
    (fun s r => aesMix [14, 11, 13, 9] (xorBytes ((aesUnshift s).map aesUnsub) (ks.getD (13 - r) [])))
    (xorBytes block (ks.getD 14 []))
  xorBytes ((aesUnshift s).map aesUnsub) (ks.headD [])

/-- A tweak times x modulo x¹²⁸+x⁷+x²+x+1, as a number whose byte 0 is its low byte. -/
def xtsNext (t : BitVec 128) : BitVec 128 := (t <<< 1) ^^^ (if t.msb then 0x87 else 0)
def bytes128 (t : BitVec 128) : List Byte := (List.range 16).map fun i => t.extractLsb' (8 * i) 8
def num128 (bs : List Byte) : BitVec 128 := bs.foldr (fun b t => (t <<< 8) ||| b.zeroExtend 128) 0
/-- The 64 bytes of a data unit, its four blocks masked by the tweak's powers and passed through a block cipher. -/
def xtsUnit (cipher : List Byte → List Byte) (tweak : BitVec 128) (bs : List Byte) : List Byte :=
  ((List.range 4).map fun j =>
    let m := bytes128 ((List.range j).foldl (fun t _ => xtsNext t) tweak)
    xorBytes m (cipher (xorBytes m ((bs.drop (16 * j)).take 16)))).flatten
/-- The first tweak of data unit n under the tweak key. -/
def xtsTweak (key : List Byte) (n : Nat) : BitVec 128 := num128 (aesEncrypt key (bytes128 (BitVec.ofNat 128 n)))

/-- The bytes of a slot's key in order. -/
def keyBytes (k : BitVec 256) : List Byte := (List.range 32).map fun i => k.extractLsb' (8 * (31 - i)) 8
/-- What the controller stores for the 64 bytes of data unit n under a slot's key, and what it reads of stored bytes (R340); the
second key of the mode is log 17. -/
def xtsStore (k : BitVec 256) (n : Nat) (bs : List Byte) : List Byte :=
  xtsUnit (aesEncrypt (keyBytes k)) (xtsTweak (keyBytes (Config.tweakKey k)) n) bs
def xtsLoad (k : BitVec 256) (n : Nat) (bs : List Byte) : List Byte :=
  xtsUnit (aesDecrypt (keyBytes k)) (xtsTweak (keyBytes (Config.tweakKey k)) n) bs

/-- One step of the unwrapping of RFC 3394, t counting down: the integrity register and the data registers. -/
def unwrapStep (key : List Byte) (n : Nat) (x : List Byte × List (List Byte)) (t : Nat) : List Byte × List (List Byte) :=
  let i := (t - 1) % n
  let m := xorBytes x.1 ((List.replicate 7 0) ++ [BitVec.ofNat 8 t])
  let b := aesDecrypt key (m ++ x.2.getD i [])
  (b.take 8, x.2.set i (b.drop 8))
/-- The 32 bytes wrapped in 40 under a 32-byte key; none where the integrity check fails. -/
def aesUnwrap (key wrap : List Byte) : Option (List Byte) :=
  let regs := (List.range 4).map fun i => (wrap.drop (8 + 8 * i)).take 8
  let r := ((List.range 24).map (24 - ·)).foldl (unwrapStep key 4) (wrap.take 8, regs)
  if r.1 = List.replicate 8 0xA6 then some r.2.flatten else none

end Sys2Proof.Machine
end

