-- ==== Sys2Proof/Machine/Num.lean ====
section
/-!
DEFINITION. Numbers (R59 to R81): the value of every code of every format, exact sums and products, and the one narrowing
`Round` with its flags. A finite nonzero value is a dyadic, m times 2 to the e. A quotient, a root or a transcendental
value is carried to more bits than any rounding of it needs, its lowest bit set when it is not exact (UNVERIFIED, log 20).
-/
namespace Sys2Proof.Num

/-- Flags of Table NUM-3. -/
def NX : Nat := 1
def UF : Nat := 2
def OF : Nat := 4
def DZ : Nat := 8
def NV : Nat := 16

/-- A value: NaN (signaling or quiet), an infinity, a signed zero, or m times 2^e with m not 0. -/
inductive FV
  | nan (sig : Bool)
  | inf (neg : Bool)
  | zero (neg : Bool)
  | fin (m : Int) (e : Int)
  deriving DecidableEq, Repr

/-- An IEEE format or bfloat16 (Table NUM-2): width, precision, exponent bits. -/
structure FFmt where
  w : Nat
  p : Nat
  eb : Nat
  deriving DecidableEq, Repr

def f16 : FFmt := { w := 16, p := 11, eb := 5 }
def bf16 : FFmt := { w := 16, p := 8, eb := 8 }
def f32 : FFmt := { w := 32, p := 24, eb := 8 }
def f64 : FFmt := { w := 64, p := 53, eb := 11 }

/-- The exponent bias; the minimum normal exponent is 1 - bias. -/
def FFmt.bias (F : FFmt) : Int := 2 ^ (F.eb - 1) - 1
/-- The canonical quiet NaN (R63). -/
def FFmt.nan (F : FFmt) : Nat := (2 ^ F.eb - 1) * 2 ^ (F.p - 1) + 2 ^ (F.p - 2)
/-- The code of infinity without its sign. -/
def FFmt.infCode (F : FFmt) : Nat := (2 ^ F.eb - 1) * 2 ^ (F.p - 1)
def FFmt.signBit (F : FFmt) (neg : Bool) : Nat := if neg then 2 ^ (F.w - 1) else 0

/-- A signed finite value, or a signed zero. -/
def ofMag (neg : Bool) (m : Nat) (e : Int) : FV :=
  if m = 0 then .zero neg else .fin (if neg then -(m : Int) else m) e

/-- `DecodeF` (R81). -/
def decodeF (F : FFmt) (bits : Nat) : FV :=
  let t := bits % 2 ^ (F.p - 1)
  let x := (bits / 2 ^ (F.p - 1)) % 2 ^ F.eb
  let s := (bits / 2 ^ (F.w - 1)) % 2 == 1
  if x = 2 ^ F.eb - 1 then
    if t = 0 then .inf s else .nan (t / 2 ^ (F.p - 2) == 0)
  else if x = 0 then ofMag s t (1 - F.bias - (F.p - 1))
  else ofMag s (2 ^ (F.p - 1) + t) (x - F.bias - (F.p - 1))

/-- The sign bit of an encoding. -/
def signOf (F : FFmt) (bits : Nat) : Bool := (bits / 2 ^ (F.w - 1)) % 2 == 1

/-! ## Round (R69 to R71) -/

/-- What `Round` needs of a format: precision, minimum normal exponent, largest finite magnitude, infinities. -/
structure RFmt where
  p : Nat
  emin : Int
  maxM : Nat
  maxE : Int
  hasInf : Bool
  deriving DecidableEq, Repr

def FFmt.r (F : FFmt) : RFmt :=
  { p := F.p, emin := 1 - F.bias, maxM := 2 ^ F.p - 1, maxE := F.bias - (F.p - 1), hasInf := true }

/-- The rounding decision: hi instead of lo, for remainder `rem` of `den`, in units of the spacing. -/
def goesUp (rm : Nat) (neg : Bool) (r lo rem den : Nat) : Bool :=
  if rem = 0 then false else
  match rm with
  | 0 => 2 * rem > den || (2 * rem == den && lo % 2 == 1)
  | 1 => false
  | 2 => neg
  | 3 => !neg
  | 4 => 2 * rem ≥ den
  | 5 => rem * 2 ^ 16 / den + r % 2 ^ 16 ≥ 2 ^ 16
  | _ => lo % 2 == 0

/-- A rounded magnitude: n times 2^q, whether it was inexact, tiny before rounding, above the largest finite value. -/
structure Rounded where
  n : Nat
  q : Int
  inexact : Bool
  tiny : Bool
  ovf : Bool
  deriving DecidableEq, Repr

/-- x times 2^a against y times 2^b: whether the first is greater. -/
def magGt (x : Nat) (a : Int) (y : Nat) (b : Int) : Bool :=
  if a ≥ b then x * 2 ^ (a - b).toNat > y else x > y * 2 ^ (b - a).toNat

/-- Narrow the magnitude m times 2^e, m not 0 (R69). -/
def roundMag (F : RFmt) (rm : Nat) (neg : Bool) (r m : Nat) (e : Int) : Rounded :=
  let l : Int := Nat.log2 m + e
  let q : Int := max l F.emin - F.p + 1
  let tiny := l < F.emin
  if q ≤ e then
    let n := m * 2 ^ (e - q).toNat
    { n := n, q := q, inexact := false, tiny := tiny, ovf := magGt n q F.maxM F.maxE }
  else
    let den := 2 ^ (q - e).toNat
    let lo := m / den
    let rem := m % den
    let n := if goesUp rm neg r lo rem den then lo + 1 else lo
    { n := n, q := q, inexact := rem != 0, tiny := tiny, ovf := magGt n q F.maxM F.maxE }

/-- Whether an overflow gives the infinity and not the largest finite value (R70). -/
def overInf (F : RFmt) (rm : Nat) (neg sat : Bool) : Bool :=
  F.hasInf && !sat && (match rm with | 0 | 4 | 5 => true | 3 => !neg | 2 => neg | _ => false)

/-- Flags of a rounding that did not overflow (R71). -/
def roundFlags (x : Rounded) : Nat := if x.inexact then (if x.tiny then UF + NX else NX) else 0

/-- The code of magnitude n times 2^q in F, for a rounded magnitude. -/
def FFmt.code (F : FFmt) (n : Nat) (q : Int) : Nat :=
  let (n, q) := if n = 2 ^ F.p then (2 ^ (F.p - 1), q + 1) else (n, q)
  if n < 2 ^ (F.p - 1) then n
  else (q + (F.p - 1) + F.bias).toNat * 2 ^ (F.p - 1) + (n - 2 ^ (F.p - 1))

/-- `EncodeF` (R81) with SAT: the code and its flags. A NaN gives the canonical NaN and no flag. -/
def encodeF (F : FFmt) (rm : Nat) (sat : Bool) (r : Nat) : FV → Nat × Nat
  | .nan _ => (F.nan, 0)
  | .inf neg => (F.signBit neg + F.infCode, 0)
  | .zero neg => (F.signBit neg, 0)
  | .fin m e =>
    let neg := decide (m < 0)
    let x := roundMag F.r rm neg r m.natAbs e
    if x.ovf then
      (F.signBit neg + (if overInf F.r rm neg sat then F.infCode else F.infCode - 1), OF + NX)
    else (F.signBit neg + F.code x.n x.q, roundFlags x)

/-! ## binary8 (R59 to R62, R74) -/

/-- A binary8 format code (R61). -/
structure B8 where
  p : Nat
  nat : Bool
  inf : Bool
  deriving DecidableEq, Repr

def B8.ofCode (fc : Nat) : B8 := { p := fc % 8, nat := (fc / 16) % 2 == 1, inf := (fc / 8) % 2 == 1 }
def B8.w (f : B8) : Nat := if f.nat then 9 - f.p else 8 - f.p
def B8.bias (f : B8) : Int := 2 ^ (f.w - 1)

/-- The value of a code that is not special (R59). -/
def B8.value (f : B8) (neg : Bool) (c : Nat) : FV :=
  let x := (c / 2 ^ (f.p - 1)) % 2 ^ f.w
  let t := c % 2 ^ (f.p - 1)
  if x = 0 then (if t = 0 then .zero false else ofMag neg t (1 - f.bias - (f.p - 1)))
  else ofMag neg (2 ^ (f.p - 1) + t) (x - f.bias - (f.p - 1))

/-- `Decode8` (R81). -/
def decode8 (f : B8) (c : Nat) : FV :=
  let neg := !f.nat && c / 128 % 2 == 1
  if (f.nat && c == 0xFF) || (!f.nat && c == 0x80) then .nan false
  else if f.inf && ((f.nat && c == 0xFE) || (!f.nat && c % 128 == 0x7F)) then .inf neg
  else f.value neg c

/-- The code of the largest finite magnitude (R60). -/
def B8.maxCode (f : B8) : Nat := match f.nat, f.inf with
  | false, false => 0x7F | false, true => 0x7E | true, false => 0xFE | true, true => 0xFD
def B8.nanCode (f : B8) : Nat := if f.nat then 0xFF else 0x80
def B8.infCode (f : B8) : Nat := if f.nat then 0xFE else 0x7F
def B8.r (f : B8) : RFmt :=
  match f.value false f.maxCode with
  | .fin m e => { p := f.p, emin := 1 - f.bias, maxM := m.natAbs, maxE := e, hasInf := f.inf }
  | _ => { p := f.p, emin := 1 - f.bias, maxM := 0, maxE := 0, hasInf := f.inf }

/-- The code of a rounded magnitude. -/
def B8.code (f : B8) (n : Nat) (q : Int) : Nat :=
  let (n, q) := if n = 2 ^ f.p then (2 ^ (f.p - 1), q + 1) else (n, q)
  if n < 2 ^ (f.p - 1) then n
  else (q + (f.p - 1) + f.bias).toNat * 2 ^ (f.p - 1) + (n - 2 ^ (f.p - 1))

/-- `Encode8` (R74): the code and its flags. -/
def encode8 (f : B8) (rm : Nat) (sat : Bool) (r : Nat) : FV → Nat × Nat
  | .nan sig => (f.nanCode, if sig then NV else 0)
  | .zero _ => (0, 0)
  | .inf neg =>
    if f.nat && neg then (if sat then (0, NX) else (0xFF, NV))
    else if f.inf then ((if neg then 0x80 else 0) + f.infCode, 0)
    else ((if neg then 0x80 else 0) + f.maxCode, NV)
  | .fin m e =>
    let neg := decide (m < 0)
    if f.nat && neg then
      let x := roundMag f.r rm false r m.natAbs e
      let tinyFlags := if x.tiny then UF + NX else NX
      if sat then (0, tinyFlags) else if x.n != 0 then (0xFF, NV) else (0, tinyFlags)
    else
      let x := roundMag f.r rm neg r m.natAbs e
      let s := if neg then 0x80 else 0
      if x.ovf then (s + (if overInf f.r rm neg sat then f.infCode else f.maxCode), OF + NX)
      else if x.n = 0 then (0, roundFlags x)
      else (s + f.code x.n x.q, roundFlags x)

/-! ## Exact products and sums (R79) -/

/-- The exact product; an invalid product is a NaN that counts as signaling, so that the sum it enters raises NV. -/
def mulFV : FV → FV → FV
  | .nan a, .nan b => .nan (a || b)
  | .nan a, _ => .nan a
  | _, .nan b => .nan b
  | .inf a, .inf b => .inf (a != b)
  | .inf _, .zero _ => .nan true
  | .zero _, .inf _ => .nan true
  | .inf a, .fin m _ => .inf (a != decide (m < 0))
  | .fin m _, .inf b => .inf (decide (m < 0) != b)
  | .zero a, .zero b => .zero (a != b)
  | .zero a, .fin m _ => .zero (a != decide (m < 0))
  | .fin m _, .zero b => .zero (decide (m < 0) != b)
  | .fin m e, .fin n g => .fin (m * n) (e + g)

def negFV : FV → FV
  | .nan s => .nan s
  | .inf a => .inf (!a)
  | .zero a => .zero (!a)
  | .fin m e => .fin (-m) e

def FV.isNan : FV → Bool | .nan _ => true | _ => false
def FV.isSig : FV → Bool | .nan s => s | _ => false
def FV.isInf (neg : Bool) : FV → Bool | .inf a => a == neg | _ => false
def FV.isNegZero : FV → Bool | .zero true => true | _ => false
def FV.isZero : FV → Bool | .zero _ => true | _ => false
/-- The exact product of several factors: 0 × Inf among them is invalid whatever else is a NaN, and a signaling factor too (R79). -/
def prodFV (xs : List FV) : FV :=
  if xs.any FV.isSig || (xs.any FV.isZero && xs.any fun x => x.isInf false || x.isInf true) then .nan true
  else if xs.any FV.isNan then .nan false
  else xs.foldl mulFV (.fin 1 0)

/-- Add two dyadics. -/
def addD (a b : Int × Int) : Int × Int :=
  if a.2 ≤ b.2 then (a.1 + b.1 * 2 ^ (b.2 - a.2).toNat, a.2) else (a.1 * 2 ^ (a.2 - b.2).toNat + b.1, b.2)

/-- The exact sum of the finite terms. -/
def sumD : List FV → Int × Int
  | [] => (0, 0)
  | .fin m e :: ts => match sumD ts with
    | (0, _) => (m, e)
    | t => addD (m, e) t
  | _ :: ts => sumD ts

/-- `SumExact` with the zero, infinity and NaN rules of R79, and whether it raises NV. Under RDN (+0) + (+0) is -0, as R79 says of
every sum; R135 and R149 name IEEE 754-2019, which gives +0 there (DEDUCED, log 55). -/
def sumExact (rm : Nat) (ts : List FV) : FV × Bool :=
  let nv := ts.any FV.isSig || (ts.any (FV.isInf false) && ts.any (FV.isInf true))
  if ts.any FV.isNan || (ts.any (FV.isInf false) && ts.any (FV.isInf true)) then (.nan false, nv)
  else if ts.any (FV.isInf false) then (.inf false, nv)
  else if ts.any (FV.isInf true) then (.inf true, nv)
  else match sumD ts with
    | (0, _) => (.zero (ts.all FV.isNegZero || rm == 2), nv)
    | (m, e) => (.fin m e, nv)

def nvIf (b : Bool) : Nat := if b then NV else 0
/-- OR of flag sets. -/
def orFlags (a b : Nat) : Nat := a ||| b

/-- Narrow a sum: its code and flags. -/
def encodeSum (F : FFmt) (rm : Nat) (sat : Bool) (r : Nat) (ts : List FV) : Nat × Nat :=
  let (v, nv) := sumExact rm ts
  let (c, fl) := encodeF F rm sat r v
  (c, orFlags fl (nvIf nv))

/-- Order of two values that are not NaN: -1, 0, 1; zeros are equal. -/
def cmpFV : FV → FV → Int
  | .inf a, .inf b => if a == b then 0 else if a then -1 else 1
  | .inf a, _ => if a then -1 else 1
  | _, .inf b => if b then 1 else -1
  | .zero _, .zero _ => 0
  | .zero _, .fin m _ => if m < 0 then 1 else -1
  | .fin m _, .zero _ => if m < 0 then -1 else 1
  | .fin m e, .fin n g =>
    let d := (addD (m, e) (-n, g)).1
    if d < 0 then -1 else if d = 0 then 0 else 1
  | _, _ => 0

/-! ## Integers (R76) -/

/-- Round a dyadic to an integer, and whether it was inexact. -/
def roundInt (rm : Nat) (r : Nat) (m e : Int) : Int × Bool :=
  let neg := decide (m < 0)
  if 0 ≤ e then (m * 2 ^ e.toNat, false)
  else
    let den := 2 ^ (-e).toNat
    let lo := m.natAbs / den
    let rem := m.natAbs % den
    let n : Nat := if goesUp rm neg r lo rem den then lo + 1 else lo
    (if neg then -(n : Int) else n, rem != 0)

def intMin (n : Nat) (signed : Bool) : Int := if signed then -(2 ^ (n - 1)) else 0
def intMax (n : Nat) (signed : Bool) : Int := if signed then 2 ^ (n - 1) - 1 else 2 ^ n - 1
def clampInt (lo hi x : Int) : Int := if x < lo then lo else if hi < x then hi else x

/-- `ToInt` (R76): the integer and the flags. -/
def toInt (n : Nat) (signed : Bool) (rm r : Nat) : FV → Int × Nat
  | .nan _ => (0, NV)
  | .inf neg => (if neg then intMin n signed else intMax n signed, NV)
  | .zero _ => (0, 0)
  | .fin m e =>
    let (x, ix) := roundInt rm r m e
    let y := clampInt (intMin n signed) (intMax n signed) x
    if y = x then (x, if ix then NX else 0) else (y, NV)

/-- An exact integer as a value; zero is +0. -/
def ofInt (x : Int) : FV := if x = 0 then .zero false else .fin x 0

/-! ## Roots, quotients and transcendental values -/

/-- Integer square root, bit by bit from bit k - 1. -/
def isqrtAux (x : Nat) : Nat → Nat → Nat
  | 0, acc => acc
  | k + 1, acc => let t := acc + 2 ^ k; isqrtAux x k (if t * t ≤ x then t else acc)
def isqrt (x : Nat) : Nat := isqrtAux x (Nat.log2 x / 2 + 1) 0

/-- The magnitude (x / y) times 2^e to 100 bits and a sticky bit. -/
def quot (neg : Bool) (x y : Nat) (e : Int) : FV :=
  let k := 160 + Nat.log2 y
  let n := x * 2 ^ k
  ofMag neg (2 * (n / y) + (if n % y = 0 then 0 else 1)) (e - k - 1)

/-- Division of finite nonzero values. -/
def divFV (m e n g : Int) : FV := quot (decide (m < 0) != decide (n < 0)) m.natAbs n.natAbs (e - g)

/-- The square root of the positive m times 2^e. -/
def sqrtD (m : Nat) (e : Int) : FV :=
  let (m, e) := if e % 2 = 0 then (m, e) else (2 * m, e - 1)
  let x := m * 2 ^ 320
  let s := isqrt x
  ofMag false (2 * s + (if s * s = x then 0 else 1)) (e / 2 - 160 - 1)

/-- One over the square root of the positive m times 2^e. -/
def rsqrtD (m : Nat) (e : Int) : FV :=
  let (m, e) := if e % 2 = 0 then (m, e) else (2 * m, e - 1)
  let n := 2 ^ 520
  let x := n / m
  let s := isqrt x
  ofMag false (2 * s + (if s * s * m = n then 0 else 1)) (-(e / 2) - 260 - 1)

/-- Fixed point of the transcendental values: 320 fraction bits. -/
def FX : Nat := 320
def PI : Nat := 0x3243f6a8885a308d313198a2e03707344a4093822299f31d0082efa98ec4e6c89452821e638d01377
def LN2 : Nat := 0xb17217f7d1cf79abc9e3b39803f2f6af40f343267298b62d8a0d175b8baafa2be7b876206debac98

/-- Sum of t, t y / 2^FX / k, ... : the terms of the exponential series from index k on. -/
def expTerms (y : Nat) : Nat → Nat → Nat → Nat
  | 0, _, _ => 0
  | fuel + 1, k, t => t + expTerms y fuel (k + 1) (t * y / 2 ^ FX / k)
/-- e^y for y in [0, 1), fixed point. -/
def expFx (y : Nat) : Nat := expTerms y 90 1 (2 ^ FX)

/-- 2^x for the dyadic m times 2^e, |x| at most 2^20, as n times 2^k. -/
def exp2D (m e : Int) : FV :=
  let x : Int := if 0 ≤ e then m * 2 ^ e.toNat * 2 ^ FX else m * 2 ^ FX / 2 ^ (-e).toNat
  let k := x / 2 ^ FX
  let fr := (x % 2 ^ FX).toNat
  if fr = 0 ∧ 0 ≤ e + FX then .fin 1 k
  else .fin (2 * (expFx (fr * LN2 / 2 ^ FX) : Int) + 1) (k - FX - 1)

/-- Terms of the arctanh series: t / k + t z^2 / (k + 2) + ... -/
def atanhTerms (z2 : Nat) : Nat → Nat → Nat → Nat
  | 0, _, _ => 0
  | fuel + 1, k, t => t / k + atanhTerms z2 fuel (k + 2) (t * z2 / 2 ^ FX)

/-- log2 of the positive m times 2^e. -/
def log2D (m : Nat) (e : Int) : FV :=
  let b := Nat.log2 m
  let k : Int := b + e
  if m = 2 ^ b then ofInt k
  else
    let z := (m - 2 ^ b) * 2 ^ FX / (m + 2 ^ b)
    let ln := 2 * atanhTerms (z * z / 2 ^ FX) 110 1 z
    let fr := ln * 2 ^ FX / LN2
    .fin (2 * (k * 2 ^ FX + fr) + 1) (-(FX : Int) - 1)

/-- Alternating sine series. -/
def sinTerms (y2 : Nat) : Nat → Nat → Int → Int
  | 0, _, _ => 0
  | fuel + 1, k, t => t + sinTerms y2 fuel (k + 2) (-(t * y2 / 2 ^ FX / ((k + 1) * (k + 2))))

/-- sin(pi t) for t = x / 2^FX, 0 < t < 1/2, fixed point. -/
def sinPiFx (x : Nat) : Nat :=
  let y := PI * x / 2 ^ FX
  (sinTerms (y * y / 2 ^ FX) 50 1 y).toNat

/-- The dyadic m times 2^e modulo 2, as fixed point in [0, 2). -/
def mod2Fx (m e : Int) : Nat :=
  if 0 ≤ e + FX then ((m * 2 ^ (e + FX).toNat) % (2 * 2 ^ FX)).toNat else ((m / 2 ^ (-(e + FX)).toNat) % (2 * 2 ^ FX)).toNat

/-- sin(pi x) for x in [0, 2) fixed point: its sign, and exact 0 or 1 where x is a multiple of one half. -/
def sinPi (x : Nat) : FV :=
  let one := 2 ^ FX
  let half := one / 2
  let neg := decide (one ≤ x)
  let y := x % one
  if y = 0 then .zero neg
  else if y = half then .fin (if neg then -1 else 1) 0
  else ofMag neg (2 * sinPiFx (if y < half then y else one - y) + 1) (-(FX : Int) - 1)

/-- tanh of the nonzero m times 2^e. -/
def tanhD (m e : Int) : FV :=
  let neg := decide (m < 0)
  let a := m.natAbs
  if 6 ≤ (Nat.log2 a : Int) + e then ofMag neg (2 ^ (FX + 1) - 1) (-(FX : Int) - 1)
  else
    let x2 : Nat := if 0 ≤ e + 1 + FX then a * 2 ^ (e + 1 + FX).toNat else a / 2 ^ (-(e + 1 + FX)).toNat
    let k := x2 / LN2
    let ex := expFx (x2 % LN2) * 2 ^ k
    let num := ex - 2 ^ FX
    ofMag neg (2 * (num * 2 ^ FX / (ex + 2 ^ FX)) + 1) (-(FX : Int) - 1)

/-- The value of an integer read as N signed bits. -/
def signExt (n x : Nat) : Int := let y := x % 2 ^ n; if 2 ^ (n - 1) ≤ y then (y : Int) - 2 ^ n else y
/-- An integer modulo 2^n. -/
def wrapN (n : Nat) (x : Int) : Nat := (x % 2 ^ n).toNat

end Sys2Proof.Num
end

