-- ==== Sys2Proof/Syntax.lean ====
section
/-!
DEFINITION. The instruction words of ISA 1.0, format by format (R32 to R46, R217, R214, R267, R271, R272), and the one
inductive `Instr`: a constructor for every row of the opcode table. Every bit of a word below OP stands in a field of its
format, so a format and its two words determine each other; which values a field may hold is WellFormed's matter.
A row that is an event and no instruction carries what it happens to.
-/
namespace Sys2Proof

/-- The class of a clause header (Table MAP-1). -/
inductive Cls | alu | flt | mem | loc | eng | ctl | sys
  deriving DecidableEq, Repr

/-- V3 extension word (Table MAP-2). -/
structure V3Ext where
  gp : BitVec 3
  gi : Bool
  c : BitVec 9
  pa : BitVec 6
  pb : BitVec 6
  rm : BitVec 3
  sat : Bool
  sub : BitVec 3
  deriving DecidableEq, Repr

/-- V3 word (R38). -/
structure V3 where
  s : Bool
  u : Bool
  d : BitVec 6
  a : BitVec 9
  b : BitVec 9
  ext : Option V3Ext
  deriving DecidableEq, Repr

/-- VI extension word (R39). -/
structure VIExt where
  gp : BitVec 3
  gi : Bool
  imm : BitVec 28
  deriving DecidableEq, Repr

/-- VI word (R39). -/
structure VI where
  s : Bool
  u : Bool
  d : BitVec 6
  a : BitVec 9
  imm : BitVec 9
  ext : Option VIExt
  deriving DecidableEq, Repr

/-- CMP extension word (R40). -/
structure CmpExt where
  gp : BitVec 3
  gi : Bool
  ct : BitVec 3
  cond : BitVec 4
  typ : BitVec 3
  pa : BitVec 6
  pb : BitVec 6
  z : BitVec 6
  deriving DecidableEq, Repr

/-- CMPI extension word (R40). -/
structure CmpiExt where
  gp : BitVec 3
  gi : Bool
  ct : BitVec 3
  cond : BitVec 4
  typ : BitVec 3
  imm : BitVec 18
  deriving DecidableEq, Repr

/-- CMP word (R40). -/
structure Cmp where
  s : Bool
  u : Bool
  pd1 : BitVec 3
  pd2 : BitVec 3
  a : BitVec 9
  b : BitVec 9
  ext : Option CmpExt
  deriving DecidableEq, Repr

/-- CMPI word (R40). -/
structure Cmpi where
  s : Bool
  u : Bool
  pd1 : BitVec 3
  pd2 : BitVec 3
  a : BitVec 9
  b : BitVec 9
  ext : Option CmpiExt
  deriving DecidableEq, Repr

/-- P word (R41). -/
structure Plog where
  s : Bool
  u : Bool
  pd : BitVec 3
  pa : BitVec 4
  pb : BitVec 4
  tt : BitVec 4
  z : BitVec 9
  ext : Option V3Ext
  deriving DecidableEq, Repr

/-- M and LOC extension word (R42, R43), also the timeline extension (R214). -/
structure MExt where
  gp : BitVec 3
  gi : Bool
  scope : BitVec 4
  order : BitVec 3
  imm : BitVec 21
  deriving DecidableEq, Repr

/-- M word (R42); in LOC the base field is the handle, the queue number or what the instruction says (R43). -/
structure M where
  s : Bool
  u : Bool
  d : BitVec 6
  a : BitVec 9
  base : BitVec 6
  w : BitVec 3
  ext : Option MExt
  deriving DecidableEq, Repr

/-- M store word (R42). -/
structure MS where
  s : Bool
  u : Bool
  base : BitVec 6
  a : BitVec 9
  data : BitVec 9
  ext : Option MExt
  deriving DecidableEq, Repr

/-- Atomic extension word (R42). -/
structure AtExt where
  gp : BitVec 3
  gi : Bool
  scope : BitVec 4
  order : BitVec 3
  data : BitVec 9
  cmp : BitVec 9
  typ : BitVec 3
  deriving DecidableEq, Repr

/-- Atomic: the M word with the atomic extension (R42). -/
structure At where
  s : Bool
  u : Bool
  d : BitVec 6
  a : BitVec 9
  base : BitVec 6
  w : BitVec 3
  ext : Option AtExt
  deriving DecidableEq, Repr

/-- BR word (R44); `ext` holds an extension word that a LONG bit would give it. -/
structure Br where
  s : Bool
  u : Bool
  sel : BitVec 4
  inv : Bool
  off : BitVec 19
  ext : Option W32
  deriving DecidableEq, Repr

/-- JS word (R45). -/
structure Js where
  s : Bool
  u : Bool
  token : BitVec 8
  off : BitVec 16
  ext : Option W32
  deriving DecidableEq, Repr

/-- Copy extension word (Table CPY-1). -/
structure CpyExt where
  gp : BitVec 3
  gi : Bool
  scope : BitVec 4
  ce : Bool
  clasp : BitVec 8
  mode : BitVec 3
  z : BitVec 12
  deriving DecidableEq, Repr

/-- Copy request word (Table CPY-1). -/
structure Cpy where
  s : Bool
  u : Bool
  d : BitVec 6
  a : BitVec 9
  b : BitVec 9
  ext : Option CpyExt
  deriving DecidableEq, Repr

/-- Timeline word: the V3 word with the M extension (R214). -/
structure Tl where
  s : Bool
  u : Bool
  d : BitVec 6
  a : BitVec 9
  b : BitVec 9
  ext : Option MExt
  deriving DecidableEq, Repr

/-- `mma` extension word (Table MTX-6). -/
structure MmaExt where
  gp : BitVec 3
  gi : Bool
  scope : BitVec 4
  af : BitVec 2
  we : Bool
  wpar : Bool
  ae : Bool
  wcl : BitVec 8
  acl : BitVec 8
  z : BitVec 3
  deriving DecidableEq, Repr

/-- `mma` word (Table MTX-6). -/
structure Mma where
  s : Bool
  u : Bool
  acc : BitVec 2
  clr : Bool
  ser : Bool
  ta : BitVec 4
  tb : BitVec 4
  er : BitVec 3
  ec : BitVec 3
  gk : BitVec 6
  ext : Option MmaExt
  deriving DecidableEq, Repr

/-- `drain` extension word (R272). -/
structure DrainExt where
  gp : BitVec 3
  gi : Bool
  scope : BitVec 4
  rm : BitVec 3
  sat : Bool
  we : Bool
  wpar : Bool
  ae : Bool
  wcl : BitVec 8
  acl : BitVec 8
  z : Bool
  deriving DecidableEq, Repr

/-- `drain` word (R272). -/
structure Drain where
  s : Bool
  u : Bool
  acc : BitVec 2
  add : Bool
  relu : Bool
  td : BitVec 4
  ta : BitVec 4
  tb : BitVec 4
  er : BitVec 3
  ec : BitVec 3
  z : BitVec 2
  ext : Option DrainExt
  deriving DecidableEq, Repr

/-- `mzero` extension word (R271). -/
structure MzeroExt where
  gp : BitVec 3
  gi : Bool
  scope : BitVec 4
  we : Bool
  wpar : Bool
  ae : Bool
  wcl : BitVec 8
  acl : BitVec 8
  z : BitVec 5
  deriving DecidableEq, Repr

/-- `mzero` word (R271). -/
structure Mzero where
  s : Bool
  u : Bool
  acc : BitVec 2
  af : BitVec 2
  er : BitVec 3
  ec : BitVec 3
  z : BitVec 14
  ext : Option MzeroExt
  deriving DecidableEq, Repr

/-! ## What the event rows happen to -/

/-- A core: die number and core number on the die (R8). -/
structure CoreId where
  die : Nat
  core : Nat
  deriving DecidableEq, Repr

/-- A path slot: the block's number in the model, the group's index, the slot (R85). -/
structure PRef where
  blk : Nat
  grp : Nat
  slot : Nat
  deriving DecidableEq, Repr

/-- A firmware image as the boot flash holds it (R381). -/
structure FwImage where
  bytes : List Byte
  sig : List Byte
  sv : Nat
  deriving DecidableEq, Repr

/-- The masters (R385): the host driver on the host port, the baseboard controller on the management port. -/
inductive Master | host | bmc
  deriving DecidableEq, Repr

/-- A command taken up from a master's ring (Table PLT-8). -/
structure Cmd where
  master : Master
  opc : Nat
  tag : BitVec 32
  resv : Nat
  args : List W64
  deriving DecidableEq, Repr

/-- The engine a bead runs on (R265). -/
inductive Engine | matrix | drain
  deriving DecidableEq, Repr

/-- A flit as a port receives it (Table LNK-2); `ok` is the outcome of FEC and CRC. -/
structure Flit where
  seq : Nat
  ack : Nat
  nak : Bool
  kind : Nat
  cred : Nat
  dest : Nat
  src : Nat
  tag : Nat
  payload : List Byte
  ok : Bool
  deriving DecidableEq, Repr

/-- The registers of BAR2 whose write R387 limits. -/
inductive RingReg | cqbase | cqlog | rqbase
  deriving DecidableEq, Repr

/-- What an ECC error is: a corrected one of memory, or of a cache, a scratchpad or a hardware queue of a die; an uncorrectable one
of memory, of a granule of a scratchpad buffer or of a hardware queue, of a context table or of firmware state (R160, R393). -/
inductive MemErr
  | corrected
  | correctedOn (die : Nat)
  | uncorrectable
  | scratchpad (die slice index granule : Nat)
  | hwQueue (die core num granule : Nat)
  | contextTable
  | firmware
  deriving DecidableEq, Repr

/-- The request whose page fault the page service handles (R334, R358): a copy request or a bead of a block, or a queue whose
ring or buffer the front end reads. -/
inductive EngReq
  | copy (blk id : Nat)
  | task (blk bead : Nat)
  | queue (num : Nat)
  deriving DecidableEq, Repr

/-- The operation of an atomic (Table MEM-2). -/
inductive AmOp
  | add
  | min (signed : Bool)
  | max (signed : Bool)
  | and
  | or
  | xor
  | xch
  | cas
  | fadd (fmt : Nat)
  | inc
  deriving DecidableEq, Repr

/-- An access through the domain aperture, as it reaches the target package (R379); the bytes that a copy writes come each with
whether it is poisoned (R227). -/
inductive ApAccess
  | read (len : Nat)
  | write (bytes : List (Byte × Bool))
  | atomic (op : AmOp) (n data cmp : Nat)
  deriving DecidableEq, Repr

/-- The tag of a request through the domain aperture, and its access (R374, R379). -/
structure ApRequest where
  tag : Nat
  acc : ApAccess
  deriving DecidableEq, Repr

/-- A put that arrives at its target: its tag, its bytes, each with whether it is poisoned (R227), and whether the host refuses
page faults that pass to it (R334, R378). -/
structure Delivery where
  tag : Nat
  bytes : List (Byte × Bool)
  hostRefuses : Bool
  deriving DecidableEq, Repr

/-- What fails where no port has carried traffic for 10 ms (R375), by a number: a put of a block that has not left yet, by its
request; a put of a window that its target has not acknowledged, by its number; or, by none, the accesses through the domain
aperture that are not answered. -/
inductive LinkFail
  | request (blk : Nat)
  | window (ctx win : Nat)
  | accesses
  deriving DecidableEq, Repr

/-- A port that retrains: after it has lost a lane, or for its replays (Table LNK-3). -/
structure Retrain where
  port : Nat
  laneLost : Bool
  deriving DecidableEq, Repr

/-- A write to a register window: its bytes and its value. -/
structure RegWrite where
  width : Nat
  value : W64
  deriving DecidableEq, Repr

/-- A write of one half of a 16-byte register (R387). -/
structure HalfWrite where
  high : Bool
  value : W64
  deriving DecidableEq, Repr

/-- What retires from a completion record (R361): a block of a context that has left, or a member record that is done. -/
inductive Retiree
  | block (ctx : Nat)
  | member (ctx : Nat) (child : Nat)
  deriving DecidableEq, Repr

/-- The VZ9's instructions and events, one constructor per row of the opcode table (R52, and the rule of each row): the
instructions, the commands, the other events. -/
inductive Instr
  | mov (f : V3)
  | add (f : V3)
  | sub (f : V3)
  | mul (f : V3)
  | mulhi (f : V3)
  | mad (f : V3)
  | addw (f : V3)
  | subw (f : V3)
  | mulw (f : V3)
  | abs (f : V3)
  | andR (f : V3)
  | orR (f : V3)
  | xorR (f : V3)
  | andn (f : V3)
  | orn (f : V3)
  | shl (f : V3)
  | shr (f : V3)
  | sar (f : V3)
  | rotl (f : V3)
  | min (f : V3)
  | max (f : V3)
  | adds (f : V3)
  | subs (f : V3)
  | clz (f : V3)
  | ctz (f : V3)
  | popc (f : V3)
  | brev (f : V3)
  | bfx (f : V3)
  | bfi (f : V3)
  | sel (f : V3)
  | lea (f : V3)
  | leaw (f : V3)
  | cmp (f : Cmp)
  | cmpi (f : Cmpi)
  | plog (f : Plog)
  | laneid (f : V3)
  | ballot (f : V3)
  | mkpred (f : V3)
  | vote (f : V3)
  | rdlane (f : V3)
  | wrlane (f : V3)
  | perm (f : V3)
  | red (f : V3)
  | scan (f : V3)
  | movi (f : VI)
  | addi (f : VI)
  | andi (f : VI)
  | ori (f : VI)
  | xori (f : VI)
  | shli (f : VI)
  | shri (f : VI)
  | sari (f : VI)
  | movhi (f : VI)
  | prmt (f : V3)
  | vget (f : V3)
  | vput (f : V3)
  | bdep (f : V3)
  | bext (f : V3)
  | fadd (f : V3)
  | fsub (f : V3)
  | fmul (f : V3)
  | fma (f : V3)
  | fmin (f : V3)
  | fmax (f : V3)
  | fabs (f : V3)
  | fneg (f : V3)
  | fsign (f : V3)
  | fcmp (f : Cmp)
  | frcp (f : V3)
  | frsq (f : V3)
  | fsqrt (f : V3)
  | fexp2 (f : V3)
  | flog2 (f : V3)
  | fsinpi (f : V3)
  | fcospi (f : V3)
  | ftanh (f : V3)
  | fdiv (f : V3)
  | frnd (f : V3)
  | fcvt (f : V3)
  | f2i (f : V3)
  | i2f (f : V3)
  | cvt8 (f : V3)
  | exp8 (f : V3)
  | fscale (f : V3)
  | fclass (f : V3)
  | fdot2 (f : V3)
  | fdot4b8 (f : V3)
  | idot4 (f : V3)
  | fclamp (f : V3)
  | ld (f : M)
  | st8 (f : MS)
  | st16 (f : MS)
  | st32 (f : MS)
  | st64 (f : MS)
  | st128 (f : MS)
  | st256 (f : MS)
  | amadd (f : At)
  | amin (f : At)
  | amax (f : At)
  | amand (f : At)
  | amor (f : At)
  | amxor (f : At)
  | amxch (f : At)
  | amcas (f : At)
  | amfadd (f : At)
  | aminc (f : At)
  | fence (f : M)
  | pref (f : M)
  | cwb (f : M)
  | cinv (f : M)
  | sld (f : M)
  | sst8 (f : MS)
  | sst16 (f : MS)
  | sst32 (f : MS)
  | sst64 (f : MS)
  | sst128 (f : MS)
  | samo (f : At)
  | halloc (f : M)
  | hfree (f : M)
  | hpass (f : M)
  | hclaim (f : M)
  | hinfo (f : M)
  | fmask (f : M)
  | fmclr (f : M)
  | qpush (f : M)
  | qpop (f : M)
  | qpopSat (f : M)
  | qlen (f : M)
  | sfill (f : MS)
  | tidset (f : V3)
  | tidget (f : V3)
  | tidinv (f : V3)
  | tview (f : V3)
  | emask (f : V3)
  | emaskCnt (f : V3)
  | mma (f : Mma)
  | drain (f : Drain)
  | mcont (f : V3)
  | mcontDiscard (f : V3)
  | mzero (f : Mzero)
  | cpy (f : Cpy)
  | cpyp (f : Cpy)
  | gath (f : Cpy)
  | put (f : Cpy)
  | tlrd (f : V3)
  | tlsig (f : Tl)
  | spawn (f : V3)
  | emit (f : V3)
  | bra (f : Br)
  | jmp (f : Br)
  | call (f : Br)
  | callr (f : V3)
  | callb (f : VI)
  | ret (f : V3)
  | jmpr (f : V3)
  | jset (f : Js)
  | join (f : Js)
  | cinit (f : VI)
  | arrive (f : V3)
  | expect (f : V3)
  | wclasp (f : VI)
  | wtl (f : Tl)
  | nap (f : Tl)
  | napWake (r : PRef)
  | wjoin (f : V3)
  | yield (f : V3)
  | exit (f : V3)
  | suspend (f : V3)
  | suspendSeal (r : PRef)
  | resume (f : V3)
  | lkcopy (f : V3)
  | lkdrop (f : V3)
  | rqpush (f : V3)
  | lower (f : VI)
  | cancel (f : V3)
  | nop (f : V3)
  | trap (f : VI)
  | rfe (f : V3)
  | csrr (f : VI)
  | csrw (f : VI)
  | ctc (f : V3)
  | icsync (f : VI)
  | brk (f : VI)
  | pgmap (f : V3)
  | pginv (f : V3)
  | accsv (f : V3)
  | accld (f : V3)
  | recordRetire (rec : Nat) (what : Retiree)
  | nopCommand (c : Cmd)
  | load (c : Cmd)
  | unload (c : Cmd)
  | ctxCreate (c : Cmd)
  | ctxUpdate (c : Cmd)
  | ctxDestroy (c : Cmd)
  | keyLoad (c : Cmd)
  | keyClear (c : Cmd)
  | tenantSet (c : Cmd)
  | tenantClear (c : Cmd)
  | qCreate (c : Cmd)
  | qReset (c : Cmd)
  | qDestroy (c : Cmd)
  | winReg (c : Cmd)
  | fuseRaise (c : Cmd)
  | handover (c : Cmd)
  | attest (c : Cmd)
  | powerCap (c : Cmd)
  | reset (c : Cmd)
  | heldFaultDelivery (r : PRef)
  | handlerGuardExpiry (blk grp : Nat)
  | headerDrainEnd (r : PRef)
  | fixedResultComplete (blk grp id : Nat)
  | variableResultArrival (blk grp id : Nat)
  | blockPlacement (item : Nat) (c : CoreId)
  | placementAgeing (item : Nat)
  | blockCompletion (blk : Nat)
  | stewardSpill (c : CoreId)
  | spillReturn (blk grp : Nat)
  | cancelDelivery (r : PRef)
  | promotionResident (blk : Nat)
  | promotionBudgetExpiry (ref : Nat)
  | preemptRequest (blk : Nat)
  | preemptDrainTimeout (blk : Nat)
  | blockRestore (blk : Nat) (c : CoreId)
  | contextSwitchOut (ctx : Nat)
  | contextSwitchIn (ctx : Nat)
  | contextFault (ctx : Nat)
  | copyAcknowledge (blk id : Nat)
  | copyCompletion (blk id : Nat)
  | copyPageResume (blk id : Nat)
  | tidAcknowledge (ctx id : Nat)
  | beadStart (c : CoreId) (eng : Engine)
  | taskCompletion (blk bead : Nat)
  | taskHalt (blk bead reason : Nat)
  | taskPageRestart (blk bead : Nat)
  | bankTake (blk : Nat)
  | locketPlacement (item : Nat) (c : CoreId)
  | fenceWaitEnd (blk : Nat)
  | resumeQueueService (ctx : Nat)
  | kick (page : Nat) (value : W64)
  | tailReconcile
  | schedulerPass
  | packetTakeup (q : Nat)
  | packetHeaderRetry (q : Nat)
  | nopPacket (q : Nat)
  | launch (q : Nat)
  | graph (q : Nat)
  | record (q : Nat)
  | callIb (q : Nat)
  | signal (q : Nat)
  | qtlAdvance (q : Nat)
  | waitPacket (q : Nat)
  | locketPush (q : Nat)
  | nodeBatchFull (node : Nat)
  | nodeBatchTimer (node : Nat)
  | hostFaultReply (r : PRef) (refused : Bool)
  | pageService (what : EngReq) (hostRefuses : Bool)
  | migrationOpen (base size : Nat)
  | migrationCommit (base newBase : Nat)
  | migrationClose (base : Nat)
  | memoryError (addr : Nat) (kind : MemErr)
  | flitReceive (port : Nat) (f : Flit)
  | portEnable (port : Nat)
  | trainingEnd (port lanes pkg : Nat)
  | trainingTimeout (port : Nat)
  | portRetrain (what : Retrain)
  | portDisable (port : Nat)
  | portReset (port : Nat)
  | putLinkTimeout (what : LinkFail) (n : Nat)
  | putDelivery (src exp toff : Nat) (p : Delivery)
  | putAcknowledgement (ctx win n : Nat) (refused : Bool)
  | apertureAccess (src exp off : Nat) (q : ApRequest)
  | packageReset (flash : List FwImage)
  | heartbeatMiss (core : Nat) (image : FwImage)
  | claim (m : Master) (w : HalfWrite)
  | handoverTimeout
  | featureWord (m : Master) (w : HalfWrite)
  | ringConfigWrite (m : Master) (reg : RingReg) (value : W64)
  | registerWriteIgnored (bar off : Nat) (w : RegWrite)
  | commandDoorbell (m : Master) (count : BitVec 32)
  | responseConsume (m : Master) (count : BitVec 32)
  | powerPointSelect (watts : Nat)
  | thermalStepDown (temp : Nat)
  | thermalStepUp (temp : Nat)
  | overTemperature (temp : Nat)
  | storeCompletion (blk grp id : Nat)
  | hostMemoryAccess (coherent : Bool) (pa len : Nat) (wr : Option (List Byte))
  | cxlPortDown (port : Nat)
  deriving DecidableEq, Repr

end Sys2Proof
end

