-- ==== Sys2Proof/Decode.lean ====
section
/-!
DEFINITION. Instruction words: their fields, the issue checks 1 to 8 of Table MAP-13, the decoder and the encoder. Checks 9
and 10 need the kernel and the role of the group and belong to the machine.
-/
namespace Sys2Proof

/-- The ILLEGAL_OP subcodes of Table MAP-13, checks 1 to 8. -/
inductive OpErr | unassigned | newer | uForm | longOnly | reservedCode | patternU | nonzero | regAlign
  deriving DecidableEq, Repr

/-- The subcode number (Table MAP-13). -/
def OpErr.code : OpErr → Nat
  | .unassigned => 1 | .newer => 2 | .uForm => 3 | .longOnly => 4
  | .reservedCode => 5 | .patternU => 6 | .nonzero => 7 | .regAlign => 8

/-- Which of checks 3 to 8 an instruction fails (Table MAP-13). -/
structure Bad where
  uForm : Bool := false
  longOnly : Bool := false
  reserved : Bool := false
  patU : Bool := false
  nonzero : Bool := false
  align : Bool := false
  deriving DecidableEq, Repr

/-- Every check that either fails. -/
def Bad.or (x y : Bad) : Bad :=
  { uForm := x.uForm || y.uForm, longOnly := x.longOnly || y.longOnly, reserved := x.reserved || y.reserved,
    patU := x.patU || y.patU, nonzero := x.nonzero || y.nonzero, align := x.align || y.align }

/-- The first failing check in the order of Table MAP-13. -/
def Bad.first (b : Bad) : Option OpErr :=
  if b.uForm then some .uForm else if b.longOnly then some .longOnly else if b.reserved then some .reservedCode
  else if b.patU then some .patternU else if b.nonzero then some .nonzero
  else if b.align then some .regAlign else none

/-! ## Words of each format (R38 to R45, R214, R217, R267, R271, R272) -/

/-- One bit of a word. -/
def bitOf (w : W32) (i : Nat) : Bool := w.getLsbD i

def V3Ext.ofWord (x : W32) : V3Ext :=
  { gp := x.extractLsb' 29 3, gi := bitOf x 28, c := x.extractLsb' 19 9, pa := x.extractLsb' 13 6,
    pb := x.extractLsb' 7 6, rm := x.extractLsb' 4 3, sat := bitOf x 3, sub := x.extractLsb' 0 3 }
def V3Ext.word (e : V3Ext) : W32 :=
  e.gp ++ BitVec.ofBool e.gi ++ e.c ++ e.pa ++ e.pb ++ e.rm ++ BitVec.ofBool e.sat ++ e.sub
def v3Of (w : W32) (x : Option W32) : V3 :=
  { s := bitOf w 31, u := bitOf w 30, d := w.extractLsb' 18 6, a := w.extractLsb' 9 9, b := w.extractLsb' 0 9,
    ext := x.map V3Ext.ofWord }
def V3.word (op : Nat) (f : V3) : W32 :=
  BitVec.ofBool f.s ++ BitVec.ofBool f.u ++ BitVec.ofNat 6 op ++ f.d ++ f.a ++ f.b
def V3.xword (f : V3) : Option W32 := f.ext.map V3Ext.word

def VIExt.ofWord (x : W32) : VIExt :=
  { gp := x.extractLsb' 29 3, gi := bitOf x 28, imm := x.extractLsb' 0 28 }
def VIExt.word (e : VIExt) : W32 := e.gp ++ BitVec.ofBool e.gi ++ e.imm
def viOf (w : W32) (x : Option W32) : VI :=
  { s := bitOf w 31, u := bitOf w 30, d := w.extractLsb' 18 6, a := w.extractLsb' 9 9, imm := w.extractLsb' 0 9,
    ext := x.map VIExt.ofWord }
def VI.word (op : Nat) (f : VI) : W32 :=
  BitVec.ofBool f.s ++ BitVec.ofBool f.u ++ BitVec.ofNat 6 op ++ f.d ++ f.a ++ f.imm
def VI.xword (f : VI) : Option W32 := f.ext.map VIExt.word

def CmpExt.ofWord (x : W32) : CmpExt :=
  { gp := x.extractLsb' 29 3, gi := bitOf x 28, ct := x.extractLsb' 25 3, cond := x.extractLsb' 21 4,
    typ := x.extractLsb' 18 3, pa := x.extractLsb' 12 6, pb := x.extractLsb' 6 6, z := x.extractLsb' 0 6 }
def CmpExt.word (e : CmpExt) : W32 :=
  e.gp ++ BitVec.ofBool e.gi ++ e.ct ++ e.cond ++ e.typ ++ e.pa ++ e.pb ++ e.z
def cmpOf (w : W32) (x : Option W32) : Cmp :=
  { s := bitOf w 31, u := bitOf w 30, pd1 := w.extractLsb' 21 3, pd2 := w.extractLsb' 18 3,
    a := w.extractLsb' 9 9, b := w.extractLsb' 0 9, ext := x.map CmpExt.ofWord }
def Cmp.word (op : Nat) (f : Cmp) : W32 :=
  BitVec.ofBool f.s ++ BitVec.ofBool f.u ++ BitVec.ofNat 6 op ++ f.pd1 ++ f.pd2 ++ f.a ++ f.b
def Cmp.xword (f : Cmp) : Option W32 := f.ext.map CmpExt.word

def CmpiExt.ofWord (x : W32) : CmpiExt :=
  { gp := x.extractLsb' 29 3, gi := bitOf x 28, ct := x.extractLsb' 25 3, cond := x.extractLsb' 21 4,
    typ := x.extractLsb' 18 3, imm := x.extractLsb' 0 18 }
def CmpiExt.word (e : CmpiExt) : W32 := e.gp ++ BitVec.ofBool e.gi ++ e.ct ++ e.cond ++ e.typ ++ e.imm
def cmpiOf (w : W32) (x : Option W32) : Cmpi :=
  { s := bitOf w 31, u := bitOf w 30, pd1 := w.extractLsb' 21 3, pd2 := w.extractLsb' 18 3,
    a := w.extractLsb' 9 9, b := w.extractLsb' 0 9, ext := x.map CmpiExt.ofWord }
def Cmpi.word (op : Nat) (f : Cmpi) : W32 :=
  BitVec.ofBool f.s ++ BitVec.ofBool f.u ++ BitVec.ofNat 6 op ++ f.pd1 ++ f.pd2 ++ f.a ++ f.b
def Cmpi.xword (f : Cmpi) : Option W32 := f.ext.map CmpiExt.word

def plogOf (w : W32) (x : Option W32) : Plog :=
  { s := bitOf w 31, u := bitOf w 30, pd := w.extractLsb' 21 3, pa := w.extractLsb' 17 4, pb := w.extractLsb' 13 4,
    tt := w.extractLsb' 9 4, z := w.extractLsb' 0 9, ext := x.map V3Ext.ofWord }
def Plog.word (op : Nat) (f : Plog) : W32 :=
  BitVec.ofBool f.s ++ BitVec.ofBool f.u ++ BitVec.ofNat 6 op ++ f.pd ++ f.pa ++ f.pb ++ f.tt ++ f.z
def Plog.xword (f : Plog) : Option W32 := f.ext.map V3Ext.word

def MExt.ofWord (x : W32) : MExt :=
  { gp := x.extractLsb' 29 3, gi := bitOf x 28, scope := x.extractLsb' 24 4, order := x.extractLsb' 21 3,
    imm := x.extractLsb' 0 21 }
def MExt.word (e : MExt) : W32 := e.gp ++ BitVec.ofBool e.gi ++ e.scope ++ e.order ++ e.imm
def mOf (w : W32) (x : Option W32) : M :=
  { s := bitOf w 31, u := bitOf w 30, d := w.extractLsb' 18 6, a := w.extractLsb' 9 9, base := w.extractLsb' 3 6,
    w := w.extractLsb' 0 3, ext := x.map MExt.ofWord }
def M.word (op : Nat) (f : M) : W32 :=
  BitVec.ofBool f.s ++ BitVec.ofBool f.u ++ BitVec.ofNat 6 op ++ f.d ++ f.a ++ f.base ++ f.w
def M.xword (f : M) : Option W32 := f.ext.map MExt.word
def msOf (w : W32) (x : Option W32) : MS :=
  { s := bitOf w 31, u := bitOf w 30, base := w.extractLsb' 18 6, a := w.extractLsb' 9 9, data := w.extractLsb' 0 9,
    ext := x.map MExt.ofWord }
def MS.word (op : Nat) (f : MS) : W32 :=
  BitVec.ofBool f.s ++ BitVec.ofBool f.u ++ BitVec.ofNat 6 op ++ f.base ++ f.a ++ f.data
def MS.xword (f : MS) : Option W32 := f.ext.map MExt.word

def AtExt.ofWord (x : W32) : AtExt :=
  { gp := x.extractLsb' 29 3, gi := bitOf x 28, scope := x.extractLsb' 24 4, order := x.extractLsb' 21 3,
    data := x.extractLsb' 12 9, cmp := x.extractLsb' 3 9, typ := x.extractLsb' 0 3 }
def AtExt.word (e : AtExt) : W32 :=
  e.gp ++ BitVec.ofBool e.gi ++ e.scope ++ e.order ++ e.data ++ e.cmp ++ e.typ
def atOf (w : W32) (x : Option W32) : At :=
  { s := bitOf w 31, u := bitOf w 30, d := w.extractLsb' 18 6, a := w.extractLsb' 9 9, base := w.extractLsb' 3 6,
    w := w.extractLsb' 0 3, ext := x.map AtExt.ofWord }
def At.word (op : Nat) (f : At) : W32 :=
  BitVec.ofBool f.s ++ BitVec.ofBool f.u ++ BitVec.ofNat 6 op ++ f.d ++ f.a ++ f.base ++ f.w
def At.xword (f : At) : Option W32 := f.ext.map AtExt.word

def brOf (w : W32) (x : Option W32) : Br :=
  { s := bitOf w 31, u := bitOf w 30, sel := w.extractLsb' 20 4, inv := bitOf w 19, off := w.extractLsb' 0 19, ext := x }
def Br.word (op : Nat) (f : Br) : W32 :=
  BitVec.ofBool f.s ++ BitVec.ofBool f.u ++ BitVec.ofNat 6 op ++ f.sel ++ BitVec.ofBool f.inv ++ f.off
def Br.xword (f : Br) : Option W32 := f.ext
def jsOf (w : W32) (x : Option W32) : Js :=
  { s := bitOf w 31, u := bitOf w 30, token := w.extractLsb' 16 8, off := w.extractLsb' 0 16, ext := x }
def Js.word (op : Nat) (f : Js) : W32 :=
  BitVec.ofBool f.s ++ BitVec.ofBool f.u ++ BitVec.ofNat 6 op ++ f.token ++ f.off
def Js.xword (f : Js) : Option W32 := f.ext

def CpyExt.ofWord (x : W32) : CpyExt :=
  { gp := x.extractLsb' 29 3, gi := bitOf x 28, scope := x.extractLsb' 24 4, ce := bitOf x 23,
    clasp := x.extractLsb' 15 8, mode := x.extractLsb' 12 3, z := x.extractLsb' 0 12 }
def CpyExt.word (e : CpyExt) : W32 :=
  e.gp ++ BitVec.ofBool e.gi ++ e.scope ++ BitVec.ofBool e.ce ++ e.clasp ++ e.mode ++ e.z
def cpyOf (w : W32) (x : Option W32) : Cpy :=
  { s := bitOf w 31, u := bitOf w 30, d := w.extractLsb' 18 6, a := w.extractLsb' 9 9, b := w.extractLsb' 0 9,
    ext := x.map CpyExt.ofWord }
def Cpy.word (op : Nat) (f : Cpy) : W32 :=
  BitVec.ofBool f.s ++ BitVec.ofBool f.u ++ BitVec.ofNat 6 op ++ f.d ++ f.a ++ f.b
def Cpy.xword (f : Cpy) : Option W32 := f.ext.map CpyExt.word
def tlOf (w : W32) (x : Option W32) : Tl :=
  { s := bitOf w 31, u := bitOf w 30, d := w.extractLsb' 18 6, a := w.extractLsb' 9 9, b := w.extractLsb' 0 9,
    ext := x.map MExt.ofWord }
def Tl.word (op : Nat) (f : Tl) : W32 :=
  BitVec.ofBool f.s ++ BitVec.ofBool f.u ++ BitVec.ofNat 6 op ++ f.d ++ f.a ++ f.b
def Tl.xword (f : Tl) : Option W32 := f.ext.map MExt.word

def MmaExt.ofWord (x : W32) : MmaExt :=
  { gp := x.extractLsb' 29 3, gi := bitOf x 28, scope := x.extractLsb' 24 4, af := x.extractLsb' 22 2,
    we := bitOf x 21, wpar := bitOf x 20, ae := bitOf x 19, wcl := x.extractLsb' 11 8, acl := x.extractLsb' 3 8,
    z := x.extractLsb' 0 3 }
def MmaExt.word (e : MmaExt) : W32 :=
  e.gp ++ BitVec.ofBool e.gi ++ e.scope ++ e.af ++ BitVec.ofBool e.we ++ BitVec.ofBool e.wpar ++
    BitVec.ofBool e.ae ++ e.wcl ++ e.acl ++ e.z
def mmaOf (w : W32) (x : Option W32) : Mma :=
  { s := bitOf w 31, u := bitOf w 30, acc := w.extractLsb' 22 2, clr := bitOf w 21, ser := bitOf w 20,
    ta := w.extractLsb' 16 4, tb := w.extractLsb' 12 4, er := w.extractLsb' 9 3, ec := w.extractLsb' 6 3,
    gk := w.extractLsb' 0 6, ext := x.map MmaExt.ofWord }
def Mma.word (op : Nat) (f : Mma) : W32 :=
  BitVec.ofBool f.s ++ BitVec.ofBool f.u ++ BitVec.ofNat 6 op ++ f.acc ++ BitVec.ofBool f.clr ++
    BitVec.ofBool f.ser ++ f.ta ++ f.tb ++ f.er ++ f.ec ++ f.gk
def Mma.xword (f : Mma) : Option W32 := f.ext.map MmaExt.word

def DrainExt.ofWord (x : W32) : DrainExt :=
  { gp := x.extractLsb' 29 3, gi := bitOf x 28, scope := x.extractLsb' 24 4, rm := x.extractLsb' 21 3,
    sat := bitOf x 20, we := bitOf x 19, wpar := bitOf x 18, ae := bitOf x 17, wcl := x.extractLsb' 9 8,
    acl := x.extractLsb' 1 8, z := bitOf x 0 }
def DrainExt.word (e : DrainExt) : W32 :=
  e.gp ++ BitVec.ofBool e.gi ++ e.scope ++ e.rm ++ BitVec.ofBool e.sat ++ BitVec.ofBool e.we ++
    BitVec.ofBool e.wpar ++ BitVec.ofBool e.ae ++ e.wcl ++ e.acl ++ BitVec.ofBool e.z
def drainOf (w : W32) (x : Option W32) : Drain :=
  { s := bitOf w 31, u := bitOf w 30, acc := w.extractLsb' 22 2, add := bitOf w 21, relu := bitOf w 20,
    td := w.extractLsb' 16 4, ta := w.extractLsb' 12 4, tb := w.extractLsb' 8 4, er := w.extractLsb' 5 3,
    ec := w.extractLsb' 2 3, z := w.extractLsb' 0 2, ext := x.map DrainExt.ofWord }
def Drain.word (op : Nat) (f : Drain) : W32 :=
  BitVec.ofBool f.s ++ BitVec.ofBool f.u ++ BitVec.ofNat 6 op ++ f.acc ++ BitVec.ofBool f.add ++
    BitVec.ofBool f.relu ++ f.td ++ f.ta ++ f.tb ++ f.er ++ f.ec ++ f.z
def Drain.xword (f : Drain) : Option W32 := f.ext.map DrainExt.word

def MzeroExt.ofWord (x : W32) : MzeroExt :=
  { gp := x.extractLsb' 29 3, gi := bitOf x 28, scope := x.extractLsb' 24 4, we := bitOf x 23, wpar := bitOf x 22,
    ae := bitOf x 21, wcl := x.extractLsb' 13 8, acl := x.extractLsb' 5 8, z := x.extractLsb' 0 5 }
def MzeroExt.word (e : MzeroExt) : W32 :=
  e.gp ++ BitVec.ofBool e.gi ++ e.scope ++ BitVec.ofBool e.we ++ BitVec.ofBool e.wpar ++ BitVec.ofBool e.ae ++
    e.wcl ++ e.acl ++ e.z
def mzeroOf (w : W32) (x : Option W32) : Mzero :=
  { s := bitOf w 31, u := bitOf w 30, acc := w.extractLsb' 22 2, af := w.extractLsb' 20 2, er := w.extractLsb' 17 3,
    ec := w.extractLsb' 14 3, z := w.extractLsb' 0 14, ext := x.map MzeroExt.ofWord }
def Mzero.word (op : Nat) (f : Mzero) : W32 :=
  BitVec.ofBool f.s ++ BitVec.ofBool f.u ++ BitVec.ofNat 6 op ++ f.acc ++ f.af ++ f.er ++ f.ec ++ f.z
def Mzero.xword (f : Mzero) : Option W32 := f.ext.map MzeroExt.word

/-! ## Operand fields (R22, R24, R37) -/

/-- The register number of an operand field (R22). -/
def opReg (x : BitVec 9) : Nat := x.toNat / 8
/-- The last-use bit L (R22). -/
def opL (x : BitVec 9) : Bool := x.getLsbD 2
/-- The pattern selector X (R22). -/
def opX (x : BitVec 9) : Nat := x.toNat % 4
/-- A 6-bit register field as an operand field with L = 0 and X = 00. -/
def fld6 (d : BitVec 6) : BitVec 9 := d ++ (0 : BitVec 3)

/-- The pattern parameter that a short form, or a field without one, implies (Table ASM-2, R37). -/
def paramShort (x : BitVec 9) : BitVec 6 := if opX x < 2 then 0 else 1
/-- A pattern parameter within R37. -/
def paramOk (x : Nat) (p : BitVec 6) : Bool :=
  if x = 0 then p == 0 else if x < 3 then p.toNat < 32
  else p.toNat < 32 || ((p.toNat / 8) % 4 == 0 && 1 ≤ p.toNat % 8 && p.toNat % 8 ≤ 5)

/-- The extension fields that act: the word's own, or those of Table ASM-2. -/
def V3.x (f : V3) : V3Ext :=
  f.ext.getD { gp := 7, gi := false, c := 0, pa := paramShort f.a, pb := paramShort f.b, rm := 0, sat := false, sub := 0 }
def Plog.x (f : Plog) : V3Ext :=
  f.ext.getD { gp := 7, gi := false, c := 0, pa := 0, pb := 0, rm := 0, sat := false, sub := 0 }
def VI.gp (f : VI) : BitVec 3 := match f.ext with | some e => e.gp | none => 7
def VI.gi (f : VI) : Bool := match f.ext with | some e => e.gi | none => false
/-- The immediate: the short imm9 or the long imm28, sign-extended (R39). -/
def VI.val (f : VI) : Int := match f.ext with | some e => e.imm.toInt | none => f.imm.toInt
def Cmp.x (f : Cmp) : CmpExt :=
  f.ext.getD { gp := 7, gi := false, ct := 0, cond := 0, typ := 0, pa := paramShort f.a, pb := paramShort f.b, z := 0 }
def Cmpi.x (f : Cmpi) : CmpiExt :=
  f.ext.getD { gp := 7, gi := false, ct := 0, cond := 0, typ := 0, imm := 0 }
/-- SCOPE 3, ORDER 0, imm21 0 (Table ASM-2). -/
def MExt.short : MExt := { gp := 7, gi := false, scope := 3, order := 0, imm := 0 }
def M.x (f : M) : MExt := f.ext.getD MExt.short
def MS.x (f : MS) : MExt := f.ext.getD MExt.short
def Tl.x (f : Tl) : MExt := f.ext.getD MExt.short
def At.x (f : At) : AtExt :=
  f.ext.getD { gp := 7, gi := false, scope := 3, order := 0, data := 0, cmp := 0, typ := 0 }
def Cpy.x (f : Cpy) : CpyExt :=
  f.ext.getD { gp := 7, gi := false, scope := 3, ce := false, clasp := 0, mode := 0, z := 0 }
def Mma.x (f : Mma) : MmaExt :=
  f.ext.getD { gp := 7, gi := false, scope := 3, af := 0, we := false, wpar := false, ae := false, wcl := 0, acl := 0, z := 0 }
def Drain.x (f : Drain) : DrainExt :=
  f.ext.getD { gp := 7, gi := false, scope := 3, rm := 0, sat := false, we := false, wpar := false, ae := false,
               wcl := 0, acl := 0, z := false }
def Mzero.x (f : Mzero) : MzeroExt :=
  f.ext.getD { gp := 7, gi := false, scope := 3, we := false, wpar := false, ae := false, wcl := 0, acl := 0, z := 0 }

/-- What a field of an instruction holds. -/
inductive Fld
  | none                      -- nothing: it must be 0
  | reg (n : Nat)             -- n vector registers under U = 0, one group register under U = 1
  | grp (n : Nat)             -- n group registers, X = 00 by R96
  | oth (g : Bool)            -- a register of the class the format does not name (R144): group or vector
  | pred                      -- a predicate number (R144); by the same rule in `qpop.sat`, whose X and L R178 wants to be 0: a
                              -- pattern is PATTERN_U and a last use NONZERO (DEDUCED, log 25)
  | code (res nz : Bool)      -- a code; whether it is reserved, and whether a bit that must be 0 is set
  deriving DecidableEq, Repr

/-- The checks of one field (R37, R47, R96, R144, R54). -/
def chkFld (u : Bool) (x : BitVec 9) (p : Option (BitVec 6)) (k : Fld) : Bad :=
  let pBad := match p with | some p => !paramOk (opX x) p | none => false
  match k with
  | .none => { reserved := pBad, nonzero := x != 0 }
  | .reg n => { reserved := pBad, patU := u && opX x != 0, align := !u && opReg x % n != 0 }
  | .grp n => { reserved := pBad || opX x != 0, align := opReg x % n != 0 }
  | .oth _ => { reserved := pBad, patU := opX x != 0 }
  | .pred => { reserved := pBad || 8 ≤ opReg x, patU := opX x != 0, nonzero := opL x }
  | .code r z => { reserved := r, nonzero := z || (match p with | some p => p != 0 | none => false) }

/-- The guard field (R38, R47). -/
def chkGuard (allowed : Bool) (gp : BitVec 3) (gi : Bool) : Bad :=
  { nonzero := (gp == 7 && gi) || (!allowed && gp != 7) }

/-- What the instructions of one V3 form allow: U, the long form only, a guard, the four operand fields, and what its
codes break. -/
structure Rule where
  u0 : Bool := true
  u1 : Bool := true
  long : Bool := false
  guard : Bool := true
  d : Fld := .reg 1
  a : Fld := .reg 1
  b : Fld := .none
  c : Fld := .none
  extra : Bad := {}
  deriving DecidableEq, Repr

/-- U and long-only (checks 3 and 4). -/
def chkForm (u isLong : Bool) (r : Rule) : Bad :=
  { uForm := if u then !r.u1 else !r.u0, longOnly := r.long && !isLong }

/-- Check a V3 word by its rule. -/
def chkV3 (f : V3) (r : Rule) : Bad :=
  (chkForm f.u f.ext.isSome r).or ((chkGuard r.guard f.x.gp f.x.gi).or
    ((chkFld f.u (fld6 f.d) none r.d).or ((chkFld f.u f.a (f.ext.map (·.pa)) r.a).or
      ((chkFld f.u f.b (f.ext.map (·.pb)) r.b).or ((chkFld f.u f.x.c none r.c).or r.extra)))))

/-- RM of an instruction that does not round: 7 is reserved everywhere, other codes must be 0 (R47, R48). -/
def rmNone (x : V3Ext) : Bad := { reserved := x.rm == 7, nonzero := x.rm != 0 }
/-- RM of an instruction that rounds and reads C only for random bits (R72). -/
def rmAny (x : V3Ext) : Bad := { reserved := x.rm == 7 }
/-- RM of an instruction that reads C as data (R135). -/
def rmNoSr (x : V3Ext) : Bad := { reserved := x.rm == 7 || x.rm == 5 }
/-- C of an instruction that rounds: random bits under SR only. -/
def cSr (x : V3Ext) : Fld := if x.rm = 5 then .reg 1 else .none
def satNone (x : V3Ext) : Bad := { nonzero := x.sat }
/-- SUB of ALU and FLT: values below n; the rest are reserved codes (R38, R134). -/
def subBelow (n : Nat) (x : V3Ext) : Bad := { reserved := n ≤ x.sub.toNat }
/-- SUB of other classes, and RM and SAT: unused fields (R47). -/
def plainX (x : V3Ext) : Bad := (rmNone x).or ((satNone x).or { nonzero := x.sub != 0 })
/-- An ALU instruction without RM and SAT, SUB below n. -/
def aluX (n : Nat) (f : V3) : Bad := (rmNone f.x).or ((satNone f.x).or (subBelow n f.x))

/-- ALU rules (Tables ALU-2 to ALU-7, REG-6). -/
def alu1 (f : V3) (n : Nat := 1) : Bad := chkV3 f { extra := aluX n f }
def alu2 (f : V3) (n : Nat := 1) : Bad := chkV3 f { b := .reg 1, extra := aluX n f }

/-- Registers of a FLT operand in the format F (R135). -/
def fN (f : V3) : Nat := if f.x.sub = 1 then 2 else 1
/-- FLT rules: one, two operands; formats below n reserved by `fmts`. -/
def fltRule (f : V3) : Rule := { d := .reg (fN f), a := .reg (fN f) }

/-- VI word (R39): d, A, and whether the immediate is reserved. -/
def chkVI (f : VI) (r : Rule) (immRes : Bool) : Bad :=
  (chkForm f.u f.ext.isSome r).or ((chkGuard r.guard f.gp f.gi).or
    ((chkFld f.u (fld6 f.d) none r.d).or ((chkFld f.u f.a none r.a).or
      (({ reserved := immRes, nonzero := f.ext.isSome && f.imm != 0 } : Bad).or r.extra))))

/-- M word (R42): d, A, the base, W and the extension. -/
def chkM (f : M) (u1 long : Bool) (d a : Fld) (base : Fld) (extra : Bad) : Bad :=
  (chkForm f.u f.ext.isSome { u1 := u1, long := long }).or ((chkGuard true f.x.gp f.x.gi).or
    ((chkFld f.u (fld6 f.d) none d).or ((chkFld f.u f.a none a).or ((chkFld f.u (fld6 f.base) none base).or extra))))
def chkMS (f : MS) (u1 : Bool) (n : Nat) (extra : Bad) : Bad :=
  (chkForm f.u f.ext.isSome { u1 := u1 }).or ((chkGuard true f.x.gp f.x.gi).or
    ((chkFld f.u (fld6 f.base) none (.grp 1)).or ((chkFld f.u f.a none (.reg 1)).or
      ((chkFld f.u f.data none (.reg n)).or extra))))
/-- SCOPE codes 0 to 10 (Table MAP-3). -/
def scopeBad (s : BitVec 4) : Bool := 10 < s.toNat
/-- Registers of a width code (Table MEM-1). -/
def wRegs (w : BitVec 3) : Nat := if w.toNat < 5 then 1 else if w = 5 then 2 else if w = 6 then 4 else 8
def ordLoad (o : BitVec 3) : Bool := !(o == 0 || o == 1 || o == 4)
def ordStore (o : BitVec 3) : Bool := !(o == 0 || o == 2 || o == 4)

/-- Stores (Table MEM-1, R49). -/
def chkSt (loc : Bool) (n : Nat) (f : MS) : Bad :=
  chkMS f true n { reserved := ordStore f.x.order || (!loc && scopeBad f.x.scope) || (f.u && 4 ≤ n) }
/-- Atomics (R162): `ts` are the TYPE bits 1:0 allowed, `cmp` whether the compare field is used. -/
def chkAt (f : At) (tBad cmp nr : Bool) (loc : Bool) : Bad :=
  let n := if f.w = 5 then 2 else 1
  (chkForm f.u f.ext.isSome { long := true }).or ((chkGuard true f.x.gp f.x.gi).or
    ((chkFld f.u (fld6 f.d) none (if nr then .none else .reg n)).or ((chkFld f.u f.a none (.reg 1)).or
      ((chkFld f.u f.x.data none (.reg n)).or ((chkFld f.u f.x.cmp none (if cmp then .reg n else .none)).or
        { reserved := tBad || !(f.w == 4 || f.w == 5) || 4 < f.x.order.toNat || (!loc && scopeBad f.x.scope) })))))
def typLo (f : At) : Nat := f.x.typ.toNat % 4
def atNr (f : At) : Bool := f.x.typ.getLsbD 2
/-- A global atomic with TYPE bits 1:0 zero. -/
def chkAt0 (f : At) : Bad := chkAt f (typLo f != 0) false (atNr f) false

/-- The relaxed order only, no imm unless `imm` (R49, R168). -/
def locX (f : M) (imm : Bool) : Bad := { reserved := f.x.order != 0, nonzero := !imm && f.x.imm != 0 }

/-- Copy requests (R217): the modes each instruction lists. -/
def chkCpy (f : Cpy) (modes : Nat) : Bad :=
  (chkForm f.u f.ext.isSome { u1 := false }).or ((chkGuard true f.x.gp f.x.gi).or
    ((chkFld f.u (fld6 f.d) none (.grp 2)).or ((chkFld f.u f.a none (.grp 4)).or ((chkFld f.u f.b none (.grp 1)).or
      { reserved := f.x.scope.toNat < 2 || scopeBad f.x.scope || modes ≤ f.x.mode.toNat ||
          (!f.x.ce && (f.x.clasp != 0 || f.b != 0)), nonzero := f.x.z != 0 }))))
/-- Timeline words (R214). -/
def chkTl (f : Tl) (d a b : Fld) : Bad :=
  (chkForm f.u f.ext.isSome { u1 := false }).or ((chkGuard true f.x.gp f.x.gi).or
    ((chkFld f.u (fld6 f.d) none d).or ((chkFld f.u f.a none a).or ((chkFld f.u f.b none b).or
      { reserved := scopeBad f.x.scope || 4 < f.x.order.toNat, nonzero := f.x.order != 0 || f.x.imm != 0 }))))
/-- WE, AE and the clasp numbers of a bead (R264, step 1). -/
def beadX (scope : BitVec 4) (we wpar ae : Bool) (wcl acl : BitVec 8) : Bad :=
  { reserved := scope.toNat < 2 || scopeBad scope, nonzero := (!we && (wpar || wcl != 0)) || (!ae && acl != 0) }
def chkBr (f : Br) (res : Bool) : Bad :=
  { uForm := f.u, longOnly := f.ext.isSome, reserved := res }
def chkJs (f : Js) (res : Bool) : Bad :=
  { uForm := f.u, longOnly := f.ext.isSome, reserved := res || 15 < f.token.toNat }
/-- CTL, SYS and ENG V3 instructions: U = 0, RM, SAT, SUB and C unused. -/
def grpV3 (f : V3) (d a b : Fld) (guard : Bool := true) : Bad :=
  chkV3 f { u1 := false, guard := guard, d := d, a := a, b := b, extra := plainX f.x }
/-- `nop` (R105): every bit but S is fixed, and any other extension word than 0xE0000000 is NONZERO. -/
def chkNop (f : V3) : Bad :=
  { uForm := f.u
    nonzero := f.d != 0 || f.a != 0 || f.b != 0 ||
      (match f.ext with | some e => V3Ext.word e != 0xE0000000 | none => false) }
def grpVI (f : VI) (d a : Fld) (immRes : Bool) (guard : Bool := true) : Bad :=
  chkVI f { u1 := false, guard := guard, d := d, a := a } immRes
/-- Kinds of Table CLP-7 that take a name. -/
def kindNamed (k : Nat) : Bool := 3 ≤ k && k ≤ 6
/-- `cmp`, `cmpi`: COND and TYPE of integer compares (R50). -/
def condIntBad (cond : BitVec 4) (typ : BitVec 3) : Bool :=
  5 < cond.toNat || 4 < typ.toNat || (typ == 4 && 1 < cond.toNat)
def cmpRegs (typ : BitVec 3) : Nat := if typ = 2 ∨ typ = 3 then 2 else 1
def chkCmp (f : Cmp) (n : Nat) (res : Bool) : Bad :=
  (chkGuard true f.x.gp f.x.gi).or ((chkFld f.u f.a (f.ext.map (·.pa)) (.reg n)).or
    ((chkFld f.u f.b (f.ext.map (·.pb)) (.reg n)).or { reserved := res, nonzero := f.x.z != 0 }))

/-- Checks 3 to 8 of Table MAP-13 of every instruction, from the rule that describes it. -/
def Instr.bad : Instr → Bad
  | .mov f => alu1 f
  | .add f | .sub f | .mul f => alu2 f
  | .mulhi f => alu2 f 2
  | .mad f => chkV3 f { long := true, b := .reg 1, c := .reg 1, extra := aluX 1 f }
  | .addw f | .subw f => chkV3 f { u1 := false, d := .reg 2, a := .reg 2, b := .reg 2, extra := aluX 1 f }
  | .mulw f => chkV3 f { u1 := false, d := .reg 2, b := .reg 1, extra := aluX 2 f }
  | .abs f => chkV3 f { extra := (rmNone f.x).or (subBelow 1 f.x) }
  | .andR f | .orR f | .xorR f | .andn f | .orn f | .shl f | .shr f | .sar f | .rotl f => alu2 f
  | .min f | .max f | .adds f | .subs f => alu2 f 2
  | .clz f | .ctz f | .popc f | .brev f => alu1 f
  | .bfx f => chkV3 f { long := true, c := .reg 1, extra := aluX 2 f }
  | .bfi f => chkV3 f { long := true, b := .reg 1, c := .reg 1, extra := aluX 1 f }
  | .sel f => chkV3 f { long := true, b := .reg 1, extra := aluX 1 f }
  | .lea f => chkV3 f { long := true, b := .reg 1, extra := aluX 8 f }
  | .leaw f => chkV3 f { u1 := false, long := true, d := .reg 2, a := .reg 2, b := .reg 1, extra := rmNone f.x }
  | .cmp f => chkCmp f (cmpRegs f.x.typ) (condIntBad f.x.cond f.x.typ)
  | .cmpi f =>
    (chkForm f.u f.ext.isSome { long := true }).or ((chkGuard true f.x.gp f.x.gi).or
      ((chkFld f.u f.a none (.reg (cmpRegs f.x.typ))).or
        { reserved := condIntBad f.x.cond f.x.typ, nonzero := f.b != 0 }))
  | .plog f =>
    (chkGuard true f.x.gp f.x.gi).or
      ((rmNone f.x).or ((satNone f.x).or ((subBelow 1 f.x).or
        { reserved := f.u && (f.pa.toNat < 8 || f.pb.toNat < 8),
          nonzero := f.z != 0 || f.x.c != 0 || f.x.pa != 0 || f.x.pb != 0 })))
  | .laneid f => chkV3 f { u1 := false, a := .none, extra := aluX 1 f }
  | .ballot f => chkV3 f { u0 := false, a := .pred, extra := aluX 1 f }
  | .mkpred f => chkV3 f { d := .pred, extra := aluX 1 f }
  | .vote f => chkV3 f { d := .pred, a := .pred, extra := aluX 3 f }
  | .rdlane f => chkV3 f { u0 := false, a := .oth false, b := .reg 1, extra := aluX 2 f }
  | .wrlane f => chkV3 f { u1 := false, a := .oth true, b := .oth true, extra := aluX 1 f }
  | .perm f => chkV3 f { u1 := false, b := .reg 1, extra := aluX 1 f }
  | .red f =>
    let ex : Bad :=
      (if f.x.sub = 6 then rmNoSr f.x else rmNone f.x).or
        { reserved := f.x.sub == 7, nonzero := f.x.sat && 3 ≤ f.x.sub.toNat && f.x.sub.toNat ≤ 5 }
    chkV3 f { u0 := false, long := true, a := .oth false, extra := ex }
  | .scan f =>
    let ex : Bad :=
      (if f.x.sub = 6 then rmNoSr f.x else rmNone f.x).or
        { reserved := f.x.sub == 7,
          nonzero := f.x.sat && (f.x.sub == 0 || (3 ≤ f.x.sub.toNat && f.x.sub.toNat ≤ 5)) }
    chkV3 f { u1 := false, long := true, extra := ex }
  | .movi f => chkVI f { a := .none } false
  | .addi f | .andi f | .ori f | .xori f | .movhi f => chkVI f {} false
  | .shli f | .shri f | .sari f => chkVI f {} (f.val < 0 || (if f.u then 64 else 32) ≤ f.val)
  | .prmt f => chkV3 f { long := true, b := .reg 1, c := .reg 1, extra := aluX 1 f }
  | .vget f => chkV3 f { u1 := false, extra := aluX 1 f }
  | .vput f => chkV3 f { u1 := false, d := .none, b := .reg 1, extra := aluX 1 f }
  | .bdep _ | .bext _ => {}
  | .fadd f | .fsub f | .fmul f =>
    chkV3 f { fltRule f with b := .reg (fN f), c := cSr f.x, extra := (rmAny f.x).or (subBelow 4 f.x) }
  | .fma f =>
    chkV3 f { fltRule f with long := true, b := .reg (fN f), c := .reg (fN f), extra := (rmNoSr f.x).or (subBelow 4 f.x) }
  | .fmin f | .fmax f =>
    chkV3 f { fltRule f with b := .reg (fN f), extra := (rmNone f.x).or (subBelow 4 f.x) }
  | .fabs f | .fneg f => chkV3 f { fltRule f with extra := aluX 4 f }
  | .fsign f => chkV3 f { fltRule f with b := .reg (fN f), extra := aluX 4 f }
  | .fcmp f => chkCmp f (if f.x.typ = 1 then 2 else 1) (3 < f.x.typ.toNat || 13 < f.x.cond.toNat)
  | .frcp f | .frsq f | .fexp2 f | .flog2 f | .fsinpi f | .fcospi f | .ftanh f =>
    chkV3 f { extra := (rmNone f.x).or ((satNone f.x).or { reserved := !(f.x.sub == 0 || f.x.sub == 2) }) }
  | .fsqrt f =>
    chkV3 f { fltRule f with c := cSr f.x, extra := (rmAny f.x).or ((satNone f.x).or (subBelow 2 f.x)) }
  | .fdiv f =>
    chkV3 f { fltRule f with b := .reg (fN f), c := cSr f.x, extra := (rmAny f.x).or ((satNone f.x).or (subBelow 2 f.x)) }
  | .frnd f =>
    chkV3 f { fltRule f with c := cSr f.x, extra := (rmAny f.x).or ((satNone f.x).or (subBelow 4 f.x)) }
  | .fcvt f =>
    let g := f.b.toNat % 4
    chkV3 f { d := .reg (if g = 1 then 2 else 1), a := .reg (fN f),
              b := .code (g == f.x.sub.toNat || (f.b.getLsbD 2 && f.x.sub.toNat < 2)) (f.b.toNat / 8 != 0),
              c := cSr f.x, extra := (rmAny f.x).or (subBelow 4 f.x) }
  | .f2i f =>
    chkV3 f { d := .reg (if 2 ≤ f.b.toNat % 4 then 2 else 1), a := .reg (fN f),
              b := .code (f.b.getLsbD 2 && f.x.sub.toNat < 2) (f.b.toNat / 8 != 0),
              c := cSr f.x, extra := (rmAny f.x).or ((satNone f.x).or (subBelow 4 f.x)) }
  | .i2f f =>
    chkV3 f { d := .reg (fN f), a := .reg (if 2 ≤ f.b.toNat % 4 then 2 else 1),
              b := .code (f.b.getLsbD 2) (f.b.toNat / 8 != 0),
              c := cSr f.x, extra := (rmAny f.x).or (subBelow 4 f.x) }
  | .cvt8 f =>
    chkV3 f { u1 := false, b := .code (f.b.toNat % 8 == 0) (f.b.toNat / 128 != 0), c := cSr f.x,
              extra := (rmAny f.x).or (subBelow 1 f.x) }
  | .exp8 f => chkV3 f { u1 := false, b := .code (f.b.toNat % 8 == 0) (f.b.toNat / 128 != 0), extra := aluX 1 f }
  | .fscale f =>
    chkV3 f { fltRule f with b := .reg 1, c := cSr f.x, extra := (rmAny f.x).or (subBelow 4 f.x) }
  | .fclass f => chkV3 f { a := .reg (fN f), extra := aluX 4 f }
  | .fdot2 f =>
    let ex : Bad :=
      (rmNoSr f.x).or { reserved := !(f.x.sub == 2 || f.x.sub == 3) }
    chkV3 f { u1 := false, long := true, b := .reg 1, c := .reg 1, extra := ex }
  | .fdot4b8 f =>
    let ex : Bad :=
      (rmNoSr f.x).or ((satNone f.x).or (subBelow 1 f.x))
    chkV3 f { u1 := false, long := true, b := .reg 1, c := .reg 1, extra := ex }
  | .idot4 f =>
    let ex : Bad :=
      ({ reserved := f.x.rm == 5 || f.x.rm == 7, nonzero := f.x.rm != 0 } : Bad).or (subBelow 4 f.x)
    chkV3 f { u1 := false, long := true, b := .reg 1, c := .reg 1, extra := ex }
  | .fclamp f =>
    let ex : Bad :=
      ({ reserved := f.x.rm == 5 || f.x.rm == 7, nonzero := f.x.rm != 0 } : Bad).or ((satNone f.x).or (subBelow 4 f.x))
    chkV3 f { fltRule f with long := true, b := .reg (fN f), c := .reg (fN f), extra := ex }
  | .ld f => chkM f true false (.reg (wRegs f.w)) (.reg 1) (.grp 1)
      { reserved := ordLoad f.x.order || scopeBad f.x.scope || (f.u && 6 ≤ f.w.toNat) }
  | .st8 f | .st16 f | .st32 f => chkSt false 1 f
  | .st64 f => chkSt false 2 f
  | .st128 f => chkSt false 4 f
  | .st256 f => chkSt false 8 f
  | .amadd f | .amand f | .amor f | .amxor f | .amxch f | .aminc f => chkAt0 f
  | .amin f | .amax f => chkAt f (1 < typLo f) false (atNr f) false
  | .amcas f => chkAt f (typLo f != 0) true (atNr f) false
  | .amfadd f => chkAt f (typLo f == 1 || (f.w == 5 && typLo f != 0)) false (atNr f) false
  | .fence f => chkM f false true .none .none .none
      { reserved := scopeBad f.x.scope || f.x.order == 0 || 4 < f.x.order.toNat, nonzero := f.w != 0 || f.x.imm != 0 }
  | .pref f => chkM f false false .none (.reg 1) (.grp 1)
      { reserved := scopeBad f.x.scope || f.x.order != 0 || 1 < f.w.toNat }
  | .cwb f | .cinv f => chkM f false false .none (.reg 1) (.grp 1)
      { reserved := scopeBad f.x.scope || f.x.order != 0, nonzero := f.w != 0 }
  | .sld f => chkM f true false (.reg (wRegs f.w)) (.reg 1) (.grp 1)
      { reserved := ordLoad f.x.order || f.w == 7 || (f.u && 6 ≤ f.w.toNat) }
  | .sst8 f | .sst16 f | .sst32 f => chkSt true 1 f
  | .sst64 f => chkSt true 2 f
  | .sst128 f => chkSt true 4 f
  | .samo f => chkAt f false (f.x.typ == 5) false true
  | .halloc f => chkM f false false (.grp 1) (.grp 1) .none ((locX f true).or { nonzero := f.w != 0 })
  | .hfree f => chkM f false false .none .none (.grp 1) ((locX f false).or { nonzero := f.w != 0 })
  | .hpass f => chkM f false false .none (.grp 1) (.grp 1) ((locX f false).or { nonzero := f.w != 0 })
  | .hclaim f => chkM f false false (.grp 1) .none (.grp 1) ((locX f false).or { nonzero := f.w != 0 })
  | .hinfo f => chkM f false false (.grp 1) .none (.grp 1)
      ((locX f false).or { reserved := 3 < f.w.toNat, nonzero := f.w == 3 && f.base != 0 })
  | .fmask f => chkM f false false (.grp 1) .none (.grp 1) ((locX f false).or { nonzero := f.w != 0 })
  | .fmclr f => chkM f false false .none (.grp 1) .none ((locX f false).or { nonzero := f.w != 0 })
  | .qpush f => chkM f false false .none (.reg 1) (.code (7 < f.base.toNat) false)
      ((locX f false).or { nonzero := f.w != 0 })
  | .qpop f => chkM f false false (.reg 1) .none (.code (7 < f.base.toNat) false)
      ((locX f false).or { reserved := f.w != 0 })
  | .qpopSat f => chkM f false false (.reg 1) .pred (.code (7 < f.base.toNat) false)
      ((locX f false).or { reserved := f.w != 1 })
  | .qlen f => chkM f false false (.grp 1) .none (.code (7 < f.base.toNat) false)
      ((locX f false).or { reserved := 2 < f.w.toNat })
  | .sfill f => chkMS f false 1 { reserved := f.x.order != 0 }
  | .tidset f => grpV3 f .none (.grp 1) (.grp 1)
  | .tidget f =>
    grpV3 f (.grp 1) (if f.b = 9 then .none else .grp 1) (.code (9 < f.b.toNat) false)
  | .tidinv f => grpV3 f .none (.grp 1) .none
  | .tview f => grpV3 f (.code (15 < f.d.toNat) false) (.grp 1) (.grp 1)
  | .emask f => grpV3 f (.code (7 < f.d.toNat) false) (.grp 1) (.code (f.b != 0) false)
  | .emaskCnt f => grpV3 f (.code (7 < f.d.toNat) false) (.grp 1) (.code (f.b != 1) false)
  | .mma f =>
    ({ uForm := f.u } : Bad).or ((chkGuard true f.x.gp f.x.gi).or
      ((beadX f.x.scope f.x.we f.x.wpar f.x.ae f.x.wcl f.x.acl).or { reserved := f.x.af == 3, nonzero := f.x.z != 0 }))
  | .drain f =>
    ({ uForm := f.u } : Bad).or ((chkGuard true f.x.gp f.x.gi).or
      ((beadX f.x.scope f.x.we f.x.wpar f.x.ae f.x.wcl f.x.acl).or
        { reserved := f.x.rm == 5 || f.x.rm == 7, nonzero := f.x.z || f.z != 0 }))
  | .mcont f => grpV3 f .none (.grp 1) (.code (f.b != 0) false)
  | .mcontDiscard f => grpV3 f .none (.grp 1) (.code (f.b != 1) false)
  | .mzero f =>
    ({ uForm := f.u } : Bad).or ((chkGuard true f.x.gp f.x.gi).or
      ((beadX f.x.scope f.x.we f.x.wpar f.x.ae f.x.wcl f.x.acl).or
        { reserved := f.af == 3, nonzero := f.x.z != 0 || f.z != 0 }))
  | .cpy f => chkCpy f 3
  | .cpyp f => chkCpy f 2
  | .gath f => chkCpy f 1
  | .put f => chkCpy f 2
  | .tlrd f =>
    ({ uForm := f.u, reserved := f.ext.isSome } : Bad).or ((chkFld false f.a none
      (if kindNamed (opReg f.b) then .grp 1 else .none)).or { reserved := 7 < opReg f.b, nonzero := f.b.toNat % 8 != 0 })
  | .tlsig f => chkTl f .none (.grp 1) .none
  | .spawn f => grpV3 f .none (.grp 1) (.grp 1)
  | .emit f => grpV3 f .none (.grp 1) (.reg 1)
  | .bra f => chkBr f ((f.sel == 7 || f.sel == 15) && f.inv)
  | .jmp f | .call f => chkBr f (!((f.sel == 7 && !f.inv) || (8 ≤ f.sel.toNat && f.sel.toNat ≤ 14)))
  | .callr f => grpV3 f (.grp 1) (.grp 1) .none
  | .callb f => grpVI f (.grp 1) .none false
  | .ret f | .jmpr f => grpV3 f .none (.grp 1) .none
  | .jset f => chkJs f false
  | .join f => chkJs f (f.off != 0)
  | .cinit f => grpVI f (.code false false) (.grp 1) (f.val < 0 || 4096 ≤ f.val)
  | .arrive f =>
    chkV3 f { u1 := false, d := .code false false, a := .grp 1,
              b := if f.x.sub.getLsbD 1 then .grp 1 else .none,
              extra := (rmNone f.x).or ((satNone f.x).or { nonzero := f.x.sub.getLsbD 2 }) }
  | .expect f => grpV3 f (.code false false) (.grp 1) (.grp 1)
  | .wclasp f => grpVI f (.code false false) (.grp 1) (!(f.val == 0 || f.val == 1))
  | .wtl f => chkTl f (.code (6 < f.d.toNat) false) (.grp 1) (if kindNamed f.d.toNat then .grp 1 else .none)
  | .nap f => chkTl f (.code (2 < f.d.toNat) false) (.grp 1) (.grp 1)
  | .wjoin f => grpV3 f .none (.grp 1) .none
  | .yield f => grpV3 f .none .none .none false
  | .nop f => chkNop f
  | .exit f => grpV3 f .none .none .none
  | .suspend f => grpV3 f (.grp 1) (.grp 1) (.grp 4)
  | .resume f | .lkdrop f => grpV3 f .none (.grp 1) .none
  | .lkcopy f => grpV3 f (.grp 1) (.grp 1) (.grp 1)
  | .rqpush f => grpV3 f .none (.grp 1) (.code (15 < opReg f.b) (f.b.toNat % 8 != 0))
  | .lower f => grpVI f .none .none (f.val < 0 || 2 < f.val) false
  | .cancel f => grpV3 f .none (.grp 1) .none
  | .trap f | .brk f => grpVI f .none .none (f.val < 0 || 255 < f.val)
  | .rfe f => grpV3 f .none .none .none false
  | .csrr f => grpVI f (.grp 1) .none (f.val < 0 || 9 < f.val)
  | .csrw f => grpVI f .none (.grp 1) (f.val < 0 || 4 < f.val)
  | .ctc f => grpV3 f (.grp 1) .none .none
  | .icsync f => grpVI f .none .none (f.val < 2 || 10 < f.val)
  | .pgmap f => grpV3 f .none (.grp 1) .none
  | .pginv f => grpV3 f .none (.grp 1) (.grp 1)
  | .accsv f | .accld f => grpV3 f .none (.grp 1) .none
  | _ => {}

/-- The first of checks 3 to 8 that an instruction fails. -/
def Instr.check (i : Instr) : Option OpErr := i.bad.first

/-! ## Classes and OPs -/

/-- The instruction that class ALU and the OP name, its fields read and not yet checked (R52). -/
def rawAlu (op : Nat) (w : W32) (x : Option W32) : Option Instr :=
  match op with
  | 0 => some (.mov (v3Of w x))
  | 1 => some (.add (v3Of w x))
  | 2 => some (.sub (v3Of w x))
  | 3 => some (.mul (v3Of w x))
  | 4 => some (.mulhi (v3Of w x))
  | 5 => some (.mad (v3Of w x))
  | 6 => some (.addw (v3Of w x))
  | 7 => some (.subw (v3Of w x))
  | 8 => some (.mulw (v3Of w x))
  | 9 => some (.abs (v3Of w x))
  | 10 => some (.andR (v3Of w x))
  | 11 => some (.orR (v3Of w x))
  | 12 => some (.xorR (v3Of w x))
  | 13 => some (.andn (v3Of w x))
  | 14 => some (.orn (v3Of w x))
  | 15 => some (.shl (v3Of w x))
  | 16 => some (.shr (v3Of w x))
  | 17 => some (.sar (v3Of w x))
  | 18 => some (.rotl (v3Of w x))
  | 19 => some (.min (v3Of w x))
  | 20 => some (.max (v3Of w x))
  | 21 => some (.adds (v3Of w x))
  | 22 => some (.subs (v3Of w x))
  | 23 => some (.clz (v3Of w x))
  | 24 => some (.ctz (v3Of w x))
  | 25 => some (.popc (v3Of w x))
  | 26 => some (.brev (v3Of w x))
  | 27 => some (.bfx (v3Of w x))
  | 28 => some (.bfi (v3Of w x))
  | 29 => some (.sel (v3Of w x))
  | 30 => some (.lea (v3Of w x))
  | 31 => some (.leaw (v3Of w x))
  | 32 => some (.cmp (cmpOf w x))
  | 33 => some (.cmpi (cmpiOf w x))
  | 34 => some (.plog (plogOf w x))
  | 35 => some (.laneid (v3Of w x))
  | 36 => some (.ballot (v3Of w x))
  | 37 => some (.mkpred (v3Of w x))
  | 38 => some (.vote (v3Of w x))
  | 39 => some (.rdlane (v3Of w x))
  | 40 => some (.wrlane (v3Of w x))
  | 41 => some (.perm (v3Of w x))
  | 42 => some (.red (v3Of w x))
  | 43 => some (.scan (v3Of w x))
  | 44 => some (.movi (viOf w x))
  | 45 => some (.addi (viOf w x))
  | 46 => some (.andi (viOf w x))
  | 47 => some (.ori (viOf w x))
  | 48 => some (.xori (viOf w x))
  | 49 => some (.shli (viOf w x))
  | 50 => some (.shri (viOf w x))
  | 51 => some (.sari (viOf w x))
  | 52 => some (.movhi (viOf w x))
  | 53 => some (.prmt (v3Of w x))
  | 54 => some (.vget (v3Of w x))
  | 55 => some (.vput (v3Of w x))
  | 56 => some (.bdep (v3Of w x))
  | 57 => some (.bext (v3Of w x))
  | _ => none

/-- The instruction that class FLT and the OP name, its fields read and not yet checked (R52). -/
def rawFlt (op : Nat) (w : W32) (x : Option W32) : Option Instr :=
  match op with
  | 0 => some (.fadd (v3Of w x))
  | 1 => some (.fsub (v3Of w x))
  | 2 => some (.fmul (v3Of w x))
  | 3 => some (.fma (v3Of w x))
  | 4 => some (.fmin (v3Of w x))
  | 5 => some (.fmax (v3Of w x))
  | 6 => some (.fabs (v3Of w x))
  | 7 => some (.fneg (v3Of w x))
  | 8 => some (.fsign (v3Of w x))
  | 9 => some (.fcmp (cmpOf w x))
  | 10 => some (.frcp (v3Of w x))
  | 11 => some (.frsq (v3Of w x))
  | 12 => some (.fsqrt (v3Of w x))
  | 13 => some (.fexp2 (v3Of w x))
  | 14 => some (.flog2 (v3Of w x))
  | 15 => some (.fsinpi (v3Of w x))
  | 16 => some (.fcospi (v3Of w x))
  | 17 => some (.ftanh (v3Of w x))
  | 18 => some (.fdiv (v3Of w x))
  | 19 => some (.frnd (v3Of w x))
  | 20 => some (.fcvt (v3Of w x))
  | 21 => some (.f2i (v3Of w x))
  | 22 => some (.i2f (v3Of w x))
  | 23 => some (.cvt8 (v3Of w x))
  | 24 => some (.exp8 (v3Of w x))
  | 25 => some (.fscale (v3Of w x))
  | 26 => some (.fclass (v3Of w x))
  | 27 => some (.fdot2 (v3Of w x))
  | 28 => some (.fdot4b8 (v3Of w x))
  | 29 => some (.idot4 (v3Of w x))
  | 30 => some (.fclamp (v3Of w x))
  | _ => none

/-- The instruction that class MEM and the OP name, its fields read and not yet checked (R52). -/
def rawMem (op : Nat) (w : W32) (x : Option W32) : Option Instr :=
  match op with
  | 0 => some (.ld (mOf w x))
  | 1 => some (.st8 (msOf w x))
  | 2 => some (.st16 (msOf w x))
  | 3 => some (.st32 (msOf w x))
  | 4 => some (.st64 (msOf w x))
  | 5 => some (.st128 (msOf w x))
  | 6 => some (.st256 (msOf w x))
  | 8 => some (.amadd (atOf w x))
  | 9 => some (.amin (atOf w x))
  | 10 => some (.amax (atOf w x))
  | 11 => some (.amand (atOf w x))
  | 12 => some (.amor (atOf w x))
  | 13 => some (.amxor (atOf w x))
  | 14 => some (.amxch (atOf w x))
  | 15 => some (.amcas (atOf w x))
  | 16 => some (.amfadd (atOf w x))
  | 17 => some (.aminc (atOf w x))
  | 20 => some (.fence (mOf w x))
  | 21 => some (.pref (mOf w x))
  | 22 => some (.cwb (mOf w x))
  | 23 => some (.cinv (mOf w x))
  | _ => none

/-- The instruction that class LOC and the OP name, its fields read and not yet checked (R52). -/
def rawLoc (op : Nat) (w : W32) (x : Option W32) : Option Instr :=
  match op with
  | 0 => some (.sld (mOf w x))
  | 1 => some (.sst8 (msOf w x))
  | 2 => some (.sst16 (msOf w x))
  | 3 => some (.sst32 (msOf w x))
  | 4 => some (.sst64 (msOf w x))
  | 5 => some (.sst128 (msOf w x))
  | 6 => some (.samo (atOf w x))
  | 8 => some (.halloc (mOf w x))
  | 9 => some (.hfree (mOf w x))
  | 10 => some (.hpass (mOf w x))
  | 11 => some (.hclaim (mOf w x))
  | 12 => some (.hinfo (mOf w x))
  | 13 => some (.fmask (mOf w x))
  | 14 => some (.fmclr (mOf w x))
  | 16 => some (.qpush (mOf w x))
  | 17 => some (if (mOf w x).w = 1 then .qpopSat (mOf w x) else .qpop (mOf w x))
  | 18 => some (.qlen (mOf w x))
  | 20 => some (.sfill (msOf w x))
  | _ => none

/-- The instruction that class ENG and the OP name, its fields read and not yet checked (R52). -/
def rawEng (op : Nat) (w : W32) (x : Option W32) : Option Instr :=
  match op with
  | 0 => some (.tidset (v3Of w x))
  | 1 => some (.tidget (v3Of w x))
  | 2 => some (.tidinv (v3Of w x))
  | 3 => some (.tview (v3Of w x))
  | 4 => some (if (v3Of w x).b = 1 then .emaskCnt (v3Of w x) else .emask (v3Of w x))
  | 5 => some (.mma (mmaOf w x))
  | 6 => some (.drain (drainOf w x))
  | 7 => some (if (v3Of w x).b = 1 then .mcontDiscard (v3Of w x) else .mcont (v3Of w x))
  | 8 => some (.mzero (mzeroOf w x))
  | 10 => some (.cpy (cpyOf w x))
  | 11 => some (.cpyp (cpyOf w x))
  | 12 => some (.gath (cpyOf w x))
  | 13 => some (.put (cpyOf w x))
  | 16 => some (.tlrd (v3Of w x))
  | 17 => some (.tlsig (tlOf w x))
  | 20 => some (.spawn (v3Of w x))
  | 21 => some (.emit (v3Of w x))
  | _ => none

/-- The instruction that class CTL and the OP name, its fields read and not yet checked (R52). -/
def rawCtl (op : Nat) (w : W32) (x : Option W32) : Option Instr :=
  match op with
  | 0 => some (.bra (brOf w x))
  | 1 => some (.jmp (brOf w x))
  | 2 => some (.call (brOf w x))
  | 3 => some (.callr (v3Of w x))
  | 4 => some (.callb (viOf w x))
  | 5 => some (.ret (v3Of w x))
  | 6 => some (.jmpr (v3Of w x))
  | 7 => some (.jset (jsOf w x))
  | 8 => some (.join (jsOf w x))
  | 10 => some (.cinit (viOf w x))
  | 11 => some (.arrive (v3Of w x))
  | 12 => some (.expect (v3Of w x))
  | 13 => some (.wclasp (viOf w x))
  | 14 => some (.wtl (tlOf w x))
  | 15 => some (.nap (tlOf w x))
  | 16 => some (.wjoin (v3Of w x))
  | 17 => some (.yield (v3Of w x))
  | 18 => some (.exit (v3Of w x))
  | 20 => some (.suspend (v3Of w x))
  | 21 => some (.resume (v3Of w x))
  | 22 => some (.lkcopy (v3Of w x))
  | 23 => some (.lkdrop (v3Of w x))
  | 24 => some (.rqpush (v3Of w x))
  | 26 => some (.lower (viOf w x))
  | 27 => some (.cancel (v3Of w x))
  | 28 => some (.nop (v3Of w x))
  | _ => none

/-- The instruction that class SYS and the OP name, its fields read and not yet checked (R52). -/
def rawSys (op : Nat) (w : W32) (x : Option W32) : Option Instr :=
  match op with
  | 0 => some (.trap (viOf w x))
  | 1 => some (.rfe (v3Of w x))
  | 2 => some (.csrr (viOf w x))
  | 3 => some (.csrw (viOf w x))
  | 4 => some (.ctc (v3Of w x))
  | 5 => some (.icsync (viOf w x))
  | 6 => some (.brk (viOf w x))
  | 8 => some (.pgmap (v3Of w x))
  | 9 => some (.pginv (v3Of w x))
  | 10 => some (.accsv (v3Of w x))
  | 11 => some (.accld (v3Of w x))
  | _ => none
/-- The class number of a header (Table MAP-1); 7 is reserved. -/
def Cls.ofCode : Nat → Option Cls
  | 0 => some .alu | 1 => some .flt | 2 => some .mem | 3 => some .loc | 4 => some .eng | 5 => some .ctl | 6 => some .sys
  | _ => none
def Cls.num : Cls → Nat
  | .alu => 0 | .flt => 1 | .mem => 2 | .loc => 3 | .eng => 4 | .ctl => 5 | .sys => 6

/-- The instruction that a class and a word name, before its checks. -/
def rawInstr (c : Cls) (w : W32) (x : Option W32) : Option Instr :=
  let op := (w.extractLsb' 24 6).toNat
  match c with
  | .alu => rawAlu op w x
  | .flt => rawFlt op w x
  | .mem => rawMem op w x
  | .loc => rawLoc op w x
  | .eng => rawEng op w x
  | .ctl => rawCtl op w x
  | .sys => rawSys op w x

/-- What a word decodes to: an instruction, or the failed check. -/
inductive Decoded
  | ok (i : Instr)
  | error (e : OpErr)
  deriving DecidableEq, Repr

/-- Decode an instruction word of class c with its extension word: the instruction, or the first of checks 1 and 3 to 8
that it fails. Check 2 is the meaning of `bdep` and `bext` (R148). -/
def decode (c : Cls) (w : W32) (x : Option W32) : Decoded :=
  match rawInstr c w x with
  | none => .error .unassigned
  | some i => match i.check with
    | some e => .error e
    | none => .ok i

/-- A clause header (Table MAP-1). -/
structure Header where
  cls : Nat
  count : Nat
  long : BitVec 15
  drain : BitVec 5
  claspw : Nat
  deriving DecidableEq, Repr

def Header.ofWord (w : W32) : Header :=
  { cls := (w.extractLsb' 29 3).toNat, count := (w.extractLsb' 25 4).toNat, long := w.extractLsb' 10 15,
    drain := w.extractLsb' 5 5, claspw := (w.extractLsb' 0 5).toNat }

/-- The ILLEGAL_CLAUSE subcodes 1 to 3 of R53, in order. -/
def Header.err (h : Header) : Option Nat :=
  if h.cls = 7 then some 1 else if h.count = 0 then some 2
  else if h.long.toNat / 2 ^ h.count ≠ 0 then some 3 else none

/-- Set LONG bits among the first n. -/
def longCount (l : Nat) : Nat → Nat
  | 0 => 0
  | n + 1 => longCount l n + (l / 2 ^ n) % 2

/-- Byte offset of instruction i of the clause from its header (R33). -/
def Header.offset (h : Header) (i : Nat) : Nat := 4 * (1 + i + longCount h.long.toNat i)
/-- Bytes of the clause (R33). -/
def Header.bytes (h : Header) : Nat := h.offset h.count
/-- Whether instruction i has an extension word (R33). -/
def Header.isLong (h : Header) (i : Nat) : Bool := h.long.getLsbD i

/-! ## The encoder, from the same tables -/

/-- The class and words of an instruction; none for an event, which no word encodes. -/
def encode : Instr → Option (Cls × W32 × Option W32)
  | .mov f => some (.alu, V3.word 0 f, V3.xword f)
  | .add f => some (.alu, V3.word 1 f, V3.xword f)
  | .sub f => some (.alu, V3.word 2 f, V3.xword f)
  | .mul f => some (.alu, V3.word 3 f, V3.xword f)
  | .mulhi f => some (.alu, V3.word 4 f, V3.xword f)
  | .mad f => some (.alu, V3.word 5 f, V3.xword f)
  | .addw f => some (.alu, V3.word 6 f, V3.xword f)
  | .subw f => some (.alu, V3.word 7 f, V3.xword f)
  | .mulw f => some (.alu, V3.word 8 f, V3.xword f)
  | .abs f => some (.alu, V3.word 9 f, V3.xword f)
  | .andR f => some (.alu, V3.word 10 f, V3.xword f)
  | .orR f => some (.alu, V3.word 11 f, V3.xword f)
  | .xorR f => some (.alu, V3.word 12 f, V3.xword f)
  | .andn f => some (.alu, V3.word 13 f, V3.xword f)
  | .orn f => some (.alu, V3.word 14 f, V3.xword f)
  | .shl f => some (.alu, V3.word 15 f, V3.xword f)
  | .shr f => some (.alu, V3.word 16 f, V3.xword f)
  | .sar f => some (.alu, V3.word 17 f, V3.xword f)
  | .rotl f => some (.alu, V3.word 18 f, V3.xword f)
  | .min f => some (.alu, V3.word 19 f, V3.xword f)
  | .max f => some (.alu, V3.word 20 f, V3.xword f)
  | .adds f => some (.alu, V3.word 21 f, V3.xword f)
  | .subs f => some (.alu, V3.word 22 f, V3.xword f)
  | .clz f => some (.alu, V3.word 23 f, V3.xword f)
  | .ctz f => some (.alu, V3.word 24 f, V3.xword f)
  | .popc f => some (.alu, V3.word 25 f, V3.xword f)
  | .brev f => some (.alu, V3.word 26 f, V3.xword f)
  | .bfx f => some (.alu, V3.word 27 f, V3.xword f)
  | .bfi f => some (.alu, V3.word 28 f, V3.xword f)
  | .sel f => some (.alu, V3.word 29 f, V3.xword f)
  | .lea f => some (.alu, V3.word 30 f, V3.xword f)
  | .leaw f => some (.alu, V3.word 31 f, V3.xword f)
  | .cmp f => some (.alu, Cmp.word 32 f, Cmp.xword f)
  | .cmpi f => some (.alu, Cmpi.word 33 f, Cmpi.xword f)
  | .plog f => some (.alu, Plog.word 34 f, Plog.xword f)
  | .laneid f => some (.alu, V3.word 35 f, V3.xword f)
  | .ballot f => some (.alu, V3.word 36 f, V3.xword f)
  | .mkpred f => some (.alu, V3.word 37 f, V3.xword f)
  | .vote f => some (.alu, V3.word 38 f, V3.xword f)
  | .rdlane f => some (.alu, V3.word 39 f, V3.xword f)
  | .wrlane f => some (.alu, V3.word 40 f, V3.xword f)
  | .perm f => some (.alu, V3.word 41 f, V3.xword f)
  | .red f => some (.alu, V3.word 42 f, V3.xword f)
  | .scan f => some (.alu, V3.word 43 f, V3.xword f)
  | .movi f => some (.alu, VI.word 44 f, VI.xword f)
  | .addi f => some (.alu, VI.word 45 f, VI.xword f)
  | .andi f => some (.alu, VI.word 46 f, VI.xword f)
  | .ori f => some (.alu, VI.word 47 f, VI.xword f)
  | .xori f => some (.alu, VI.word 48 f, VI.xword f)
  | .shli f => some (.alu, VI.word 49 f, VI.xword f)
  | .shri f => some (.alu, VI.word 50 f, VI.xword f)
  | .sari f => some (.alu, VI.word 51 f, VI.xword f)
  | .movhi f => some (.alu, VI.word 52 f, VI.xword f)
  | .prmt f => some (.alu, V3.word 53 f, V3.xword f)
  | .vget f => some (.alu, V3.word 54 f, V3.xword f)
  | .vput f => some (.alu, V3.word 55 f, V3.xword f)
  | .bdep f => some (.alu, V3.word 56 f, V3.xword f)
  | .bext f => some (.alu, V3.word 57 f, V3.xword f)
  | .fadd f => some (.flt, V3.word 0 f, V3.xword f)
  | .fsub f => some (.flt, V3.word 1 f, V3.xword f)
  | .fmul f => some (.flt, V3.word 2 f, V3.xword f)
  | .fma f => some (.flt, V3.word 3 f, V3.xword f)
  | .fmin f => some (.flt, V3.word 4 f, V3.xword f)
  | .fmax f => some (.flt, V3.word 5 f, V3.xword f)
  | .fabs f => some (.flt, V3.word 6 f, V3.xword f)
  | .fneg f => some (.flt, V3.word 7 f, V3.xword f)
  | .fsign f => some (.flt, V3.word 8 f, V3.xword f)
  | .fcmp f => some (.flt, Cmp.word 9 f, Cmp.xword f)
  | .frcp f => some (.flt, V3.word 10 f, V3.xword f)
  | .frsq f => some (.flt, V3.word 11 f, V3.xword f)
  | .fsqrt f => some (.flt, V3.word 12 f, V3.xword f)
  | .fexp2 f => some (.flt, V3.word 13 f, V3.xword f)
  | .flog2 f => some (.flt, V3.word 14 f, V3.xword f)
  | .fsinpi f => some (.flt, V3.word 15 f, V3.xword f)
  | .fcospi f => some (.flt, V3.word 16 f, V3.xword f)
  | .ftanh f => some (.flt, V3.word 17 f, V3.xword f)
  | .fdiv f => some (.flt, V3.word 18 f, V3.xword f)
  | .frnd f => some (.flt, V3.word 19 f, V3.xword f)
  | .fcvt f => some (.flt, V3.word 20 f, V3.xword f)
  | .f2i f => some (.flt, V3.word 21 f, V3.xword f)
  | .i2f f => some (.flt, V3.word 22 f, V3.xword f)
  | .cvt8 f => some (.flt, V3.word 23 f, V3.xword f)
  | .exp8 f => some (.flt, V3.word 24 f, V3.xword f)
  | .fscale f => some (.flt, V3.word 25 f, V3.xword f)
  | .fclass f => some (.flt, V3.word 26 f, V3.xword f)
  | .fdot2 f => some (.flt, V3.word 27 f, V3.xword f)
  | .fdot4b8 f => some (.flt, V3.word 28 f, V3.xword f)
  | .idot4 f => some (.flt, V3.word 29 f, V3.xword f)
  | .fclamp f => some (.flt, V3.word 30 f, V3.xword f)
  | .ld f => some (.mem, M.word 0 f, M.xword f)
  | .st8 f => some (.mem, MS.word 1 f, MS.xword f)
  | .st16 f => some (.mem, MS.word 2 f, MS.xword f)
  | .st32 f => some (.mem, MS.word 3 f, MS.xword f)
  | .st64 f => some (.mem, MS.word 4 f, MS.xword f)
  | .st128 f => some (.mem, MS.word 5 f, MS.xword f)
  | .st256 f => some (.mem, MS.word 6 f, MS.xword f)
  | .amadd f => some (.mem, At.word 8 f, At.xword f)
  | .amin f => some (.mem, At.word 9 f, At.xword f)
  | .amax f => some (.mem, At.word 10 f, At.xword f)
  | .amand f => some (.mem, At.word 11 f, At.xword f)
  | .amor f => some (.mem, At.word 12 f, At.xword f)
  | .amxor f => some (.mem, At.word 13 f, At.xword f)
  | .amxch f => some (.mem, At.word 14 f, At.xword f)
  | .amcas f => some (.mem, At.word 15 f, At.xword f)
  | .amfadd f => some (.mem, At.word 16 f, At.xword f)
  | .aminc f => some (.mem, At.word 17 f, At.xword f)
  | .fence f => some (.mem, M.word 20 f, M.xword f)
  | .pref f => some (.mem, M.word 21 f, M.xword f)
  | .cwb f => some (.mem, M.word 22 f, M.xword f)
  | .cinv f => some (.mem, M.word 23 f, M.xword f)
  | .sld f => some (.loc, M.word 0 f, M.xword f)
  | .sst8 f => some (.loc, MS.word 1 f, MS.xword f)
  | .sst16 f => some (.loc, MS.word 2 f, MS.xword f)
  | .sst32 f => some (.loc, MS.word 3 f, MS.xword f)
  | .sst64 f => some (.loc, MS.word 4 f, MS.xword f)
  | .sst128 f => some (.loc, MS.word 5 f, MS.xword f)
  | .samo f => some (.loc, At.word 6 f, At.xword f)
  | .halloc f => some (.loc, M.word 8 f, M.xword f)
  | .hfree f => some (.loc, M.word 9 f, M.xword f)
  | .hpass f => some (.loc, M.word 10 f, M.xword f)
  | .hclaim f => some (.loc, M.word 11 f, M.xword f)
  | .hinfo f => some (.loc, M.word 12 f, M.xword f)
  | .fmask f => some (.loc, M.word 13 f, M.xword f)
  | .fmclr f => some (.loc, M.word 14 f, M.xword f)
  | .qpush f => some (.loc, M.word 16 f, M.xword f)
  | .qpop f => some (.loc, M.word 17 f, M.xword f)
  | .qpopSat f => some (.loc, M.word 17 f, M.xword f)
  | .qlen f => some (.loc, M.word 18 f, M.xword f)
  | .sfill f => some (.loc, MS.word 20 f, MS.xword f)
  | .tidset f => some (.eng, V3.word 0 f, V3.xword f)
  | .tidget f => some (.eng, V3.word 1 f, V3.xword f)
  | .tidinv f => some (.eng, V3.word 2 f, V3.xword f)
  | .tview f => some (.eng, V3.word 3 f, V3.xword f)
  | .emask f => some (.eng, V3.word 4 f, V3.xword f)
  | .emaskCnt f => some (.eng, V3.word 4 f, V3.xword f)
  | .mma f => some (.eng, Mma.word 5 f, Mma.xword f)
  | .drain f => some (.eng, Drain.word 6 f, Drain.xword f)
  | .mcont f => some (.eng, V3.word 7 f, V3.xword f)
  | .mcontDiscard f => some (.eng, V3.word 7 f, V3.xword f)
  | .mzero f => some (.eng, Mzero.word 8 f, Mzero.xword f)
  | .cpy f => some (.eng, Cpy.word 10 f, Cpy.xword f)
  | .cpyp f => some (.eng, Cpy.word 11 f, Cpy.xword f)
  | .gath f => some (.eng, Cpy.word 12 f, Cpy.xword f)
  | .put f => some (.eng, Cpy.word 13 f, Cpy.xword f)
  | .tlrd f => some (.eng, V3.word 16 f, V3.xword f)
  | .tlsig f => some (.eng, Tl.word 17 f, Tl.xword f)
  | .spawn f => some (.eng, V3.word 20 f, V3.xword f)
  | .emit f => some (.eng, V3.word 21 f, V3.xword f)
  | .bra f => some (.ctl, Br.word 0 f, Br.xword f)
  | .jmp f => some (.ctl, Br.word 1 f, Br.xword f)
  | .call f => some (.ctl, Br.word 2 f, Br.xword f)
  | .callr f => some (.ctl, V3.word 3 f, V3.xword f)
  | .callb f => some (.ctl, VI.word 4 f, VI.xword f)
  | .ret f => some (.ctl, V3.word 5 f, V3.xword f)
  | .jmpr f => some (.ctl, V3.word 6 f, V3.xword f)
  | .jset f => some (.ctl, Js.word 7 f, Js.xword f)
  | .join f => some (.ctl, Js.word 8 f, Js.xword f)
  | .cinit f => some (.ctl, VI.word 10 f, VI.xword f)
  | .arrive f => some (.ctl, V3.word 11 f, V3.xword f)
  | .expect f => some (.ctl, V3.word 12 f, V3.xword f)
  | .wclasp f => some (.ctl, VI.word 13 f, VI.xword f)
  | .wtl f => some (.ctl, Tl.word 14 f, Tl.xword f)
  | .nap f => some (.ctl, Tl.word 15 f, Tl.xword f)
  | .napWake _ => none
  | .wjoin f => some (.ctl, V3.word 16 f, V3.xword f)
  | .yield f => some (.ctl, V3.word 17 f, V3.xword f)
  | .exit f => some (.ctl, V3.word 18 f, V3.xword f)
  | .suspend f => some (.ctl, V3.word 20 f, V3.xword f)
  | .suspendSeal _ => none
  | .resume f => some (.ctl, V3.word 21 f, V3.xword f)
  | .lkcopy f => some (.ctl, V3.word 22 f, V3.xword f)
  | .lkdrop f => some (.ctl, V3.word 23 f, V3.xword f)
  | .rqpush f => some (.ctl, V3.word 24 f, V3.xword f)
  | .lower f => some (.ctl, VI.word 26 f, VI.xword f)
  | .cancel f => some (.ctl, V3.word 27 f, V3.xword f)
  | .nop f => some (.ctl, V3.word 28 f, V3.xword f)
  | .trap f => some (.sys, VI.word 0 f, VI.xword f)
  | .rfe f => some (.sys, V3.word 1 f, V3.xword f)
  | .csrr f => some (.sys, VI.word 2 f, VI.xword f)
  | .csrw f => some (.sys, VI.word 3 f, VI.xword f)
  | .ctc f => some (.sys, V3.word 4 f, V3.xword f)
  | .icsync f => some (.sys, VI.word 5 f, VI.xword f)
  | .brk f => some (.sys, VI.word 6 f, VI.xword f)
  | .pgmap f => some (.sys, V3.word 8 f, V3.xword f)
  | .pginv f => some (.sys, V3.word 9 f, V3.xword f)
  | .accsv f => some (.sys, V3.word 10 f, V3.xword f)
  | .accld f => some (.sys, V3.word 11 f, V3.xword f)
  | .heldFaultDelivery _ => none
  | .handlerGuardExpiry _ _ => none
  | .headerDrainEnd _ => none
  | .fixedResultComplete _ _ _ => none
  | .variableResultArrival _ _ _ => none
  | .blockPlacement _ _ => none
  | .placementAgeing _ => none
  | .blockCompletion _ => none
  | .stewardSpill _ => none
  | .spillReturn _ _ => none
  | .cancelDelivery _ => none
  | .promotionResident _ => none
  | .promotionBudgetExpiry _ => none
  | .preemptRequest _ => none
  | .preemptDrainTimeout _ => none
  | .blockRestore _ _ => none
  | .contextSwitchOut _ => none
  | .contextSwitchIn _ => none
  | .contextFault _ => none
  | .copyAcknowledge _ _ => none
  | .copyCompletion _ _ => none
  | .copyPageResume _ _ => none
  | .tidAcknowledge _ _ => none
  | .beadStart _ _ => none
  | .taskCompletion _ _ => none
  | .taskHalt _ _ _ => none
  | .taskPageRestart _ _ => none
  | .bankTake _ => none
  | .locketPlacement _ _ => none
  | .fenceWaitEnd _ => none
  | .resumeQueueService _ => none
  | .kick _ _ => none
  | .tailReconcile => none
  | .schedulerPass => none
  | .packetTakeup _ => none
  | .packetHeaderRetry _ => none
  | .nopPacket _ => none
  | .launch _ => none
  | .graph _ => none
  | .record _ => none
  | .callIb _ => none
  | .signal _ => none
  | .qtlAdvance _ => none
  | .waitPacket _ => none
  | .locketPush _ => none
  | .recordRetire _ _ => none
  | .nodeBatchFull _ => none
  | .nodeBatchTimer _ => none
  | .hostFaultReply _ _ => none
  | .pageService _ _ => none
  | .migrationOpen _ _ => none
  | .migrationCommit _ _ => none
  | .migrationClose _ => none
  | .memoryError _ _ => none
  | .flitReceive _ _ => none
  | .portEnable _ => none
  | .trainingEnd _ _ _ => none
  | .trainingTimeout _ => none
  | .portRetrain _ => none
  | .portDisable _ => none
  | .portReset _ => none
  | .putLinkTimeout _ _ => none
  | .putDelivery _ _ _ _ => none
  | .putAcknowledgement _ _ _ _ => none
  | .apertureAccess _ _ _ _ => none
  | .packageReset _ => none
  | .heartbeatMiss _ _ => none
  | .claim _ _ => none
  | .handoverTimeout => none
  | .featureWord _ _ => none
  | .ringConfigWrite _ _ _ => none
  | .registerWriteIgnored _ _ _ => none
  | .commandDoorbell _ _ => none
  | .responseConsume _ _ => none
  | .nopCommand _ => none
  | .load _ => none
  | .unload _ => none
  | .ctxCreate _ => none
  | .ctxUpdate _ => none
  | .ctxDestroy _ => none
  | .keyLoad _ => none
  | .keyClear _ => none
  | .tenantSet _ => none
  | .tenantClear _ => none
  | .qCreate _ => none
  | .qReset _ => none
  | .qDestroy _ => none
  | .winReg _ => none
  | .fuseRaise _ => none
  | .handover _ => none
  | .attest _ => none
  | .powerCap _ => none
  | .reset _ => none
  | .powerPointSelect _ => none
  | .thermalStepDown _ => none
  | .thermalStepUp _ => none
  | .overTemperature _ => none
  | .storeCompletion _ _ _ => none
  | .hostMemoryAccess _ _ _ _ => none
  | .cxlPortDown _ => none

/-- The first class, in the order given, in which words decode: a row of the opcode table gives a word without its class
(DESIGN CHOICE, log 13). -/
def decodeFirst (w : W32) (x : Option W32) : List Cls → Option (Cls × Instr)
  | [] => none
  | c :: cs => match decode c w x with
    | .ok i => some (c, i)
    | .error _ => decodeFirst w x cs

/-- The classes in the order of Table MAP-1. -/
def Cls.all : List Cls := [.alu, .flt, .mem, .loc, .eng, .ctl, .sys]

/-- The class, the extension word and the instruction that this decoder reads from the words of a row (DESIGN CHOICE,
log 13): the short form
where a class has it, else the long form with the second word. -/
def decodeTable (w : Nat) : Option (Cls × Option W32 × Instr) :=
  match decodeFirst (BitVec.ofNat 32 w) none Cls.all with
  | some (c, i) => some (c, none, i)
  | none =>
    let x : W32 := BitVec.ofNat 32 (w / 2 ^ 32)
    (decodeFirst (BitVec.ofNat 32 w) (some x) Cls.all).map fun y => (y.1, some x, y.2)

/-- The instruction this decoder reads from the words of a row of the opcode table (DESIGN CHOICE, log 13): one word,
or a word and its
extension word (R33). -/
def decodeTableWord (nbits w : Nat) : Option Instr :=
  if nbits ≤ 64 then (decodeTable (w % 2 ^ nbits)).map (·.2.2) else none

end Sys2Proof
end

