-- ==== Sys2Proof/Machine/State.lean ====
section
/-!
DEFINITION. The state of a VZ9 package, as plain data: what every rule of the spec gives the machine to remember, the reasons
the model stops, and the state after package reset. INVENTORY.md lists each field with its rule and reset value.
-/
namespace Sys2Proof.Machine

/-- The configuration a package is (R1, R2). -/
inductive Pkg | vz9a | vz9h
  deriving DecidableEq, Repr

/-- A mapped vector register: 32 lanes and a dead bit for each (R108, R111). -/
structure VReg where
  val : List W32
  dead : Mask
  deriving DecidableEq, Repr

/-- The DRAIN class an outstanding operation counts under (Table MAP-1, R57). -/
inductive Drn | dl | ds | da | de | dq | none
  deriving DecidableEq, Repr

/-- One register write of a result in flight (R112). -/
inductive Wr
  | v (n : Nat) (lanes : Mask) (val : List W32)
  | g (n : Nat) (val : W64)
  | p (n : Nat) (lanes val : Mask)
  | q (n : Nat) (val : Bool)
  deriving DecidableEq, Repr

/-- The words of the instruction that issued, as a frame records them (R303). -/
structure Words where
  hdr : W32 := 0
  iw0 : W32 := 0
  iw1 : W32 := 0
  deriving DecidableEq, Repr

/-- What a trap writes into its frame beside the path (R303, Table TRP-5). -/
structure Fault2 where
  cause : Nat
  sub : Nat := 0
  lane : Bool := false
  fmask : Mask := 0
  exta : Bool := false
  faddr : Nat := 0
  detail : Nat := 0
  ext : List Nat := []
  deriving DecidableEq, Repr

/-- An operation that uses translations: an access in flight, a copy request that moves, a task that runs (R337). -/
inductive Using
  | flight (id : Nat)
  | copy (id : Nat)
  | task (blk bead : Nat)
  deriving DecidableEq, Repr

/-- What an access still awaits through the domain aperture (R379): how its results are formed, what each of its lanes has already,
and where the answer of each request goes. -/
structure Await where
  u : Bool
  e : Mask
  w : Nat                      -- W of a load; bytes of an atomic
  d : Option Nat               -- destination, if it has one
  regs : Nat
  op : Option AmOp := none     -- an atomic's
  data : List (Nat × Nat × Nat) := []            -- lane, data and compare value of an atomic
  lanes : List (Nat × Nat × Bool)                -- lane, what it has of its bytes, whether that is poisoned
  parts : List (Nat × Nat × Nat × Nat × Nat)     -- lane, first byte, bytes, the request's tag, first byte in its answer
  addrs : List Nat             -- every lane's address, for POISON (R160)
  deriving DecidableEq, Repr

/-- An operation of a group that has issued and not completed: a result in flight, a store, an atomic, an engine request not
yet acknowledged or a queue operation (R57, R94, R112). `due` is the cc of its completion; none while something else must
happen first. -/
structure Flight where
  id : Nat
  slot : Nat
  due : Option Nat
  fixed : Bool := false
  cls : Drn := .none
  board : Bool := false          -- a variable-latency register result, on the scoreboard (R94)
  store : Bool := false          -- a store, as STORE_COMPLETION completes it
  writes : List Wr := []
  flags : Nat := 0               -- fflags it raises when it becomes visible (R65)
  csr : Option (Nat × W64) := none
  tags : List Nat := []        -- requests through the domain aperture not answered (R379)
  ask : Option Await := none   -- of a read or an atomic that has some
  fence : Option (List Using) := none   -- a `pginv`, which completes once these operations have (R337)
  inval : Option (Nat × Nat) := none    -- the range of a `pginv`: its address and length
  poison : Option (Mask × List Nat) := none   -- lanes whose data was poisoned, and every lane's address (R160)
  arrived : Bool := false      -- its poisoned data has arrived, and the path has not taken POISON yet (R160)
  words : Words := {}
  deriving DecidableEq, Repr

/-- What a checked wait waits for, with its operands as latched at issue (Table PRG-1). -/
inductive WaitOn
  | clasp (n : Nat) (par : Bool) (header : Bool)
  | tl (kind n name scope : Nat)
  | nap (kind n t scope : Nat)
  | join (addr : Nat)
  | qpop (q flight : Nat) (d : Nat) (lanes : Mask)
  | claim (h flight d : Nat)
  | bind (slotAddr value d : Nat)
  | host (va status : Nat)
  deriving DecidableEq, Repr

/-- What a stalled path needs before it may issue (R112, R216, R262, R308, R313, R337, R314, R366, R367). -/
inductive Need
  | regs (nv ng : Nat) (kv kg : Nat := 0)   -- and how many of its own registers the group gives up by then (R113)
  | copy
  | ring
  | spawnQ (item : Nat) (words : Words)    -- a `spawn` whose children wait for their core's spawn queue (R366)
  | node (addr n : Nat)
  | drained (cls : List Drn)
  | noTask
  deriving DecidableEq, Repr

/-- The condition of a slotted path (R86). -/
inductive Cond
  | ready
  | park (others : List (Nat × Nat × Nat))      -- until its scoreboard is empty; then as `yielded`
  | drain                      -- a header's DRAIN wait
  | stalled (n : Need)
  | yielded (others : List (Nat × Nat × Nat))   -- (block, group, slot) still to issue once
  | wait (w : WaitOn) (words : Words)      -- with the words of the waiting instruction
  | ended (w : WaitOn) (words : Words) (f : Option Fault2)  -- the wait has ended, by its condition or a fault (R206, R210)
  | suspending (d addr : Nat) (hs kills : List Nat) (words : Words)   -- with the registers that its write gives up
  deriving DecidableEq, Repr

/-- A path (R85). -/
structure Path where
  clause : Nat
  index : Nat
  mask : Mask
  cond : Cond := .ready
  board : List Nat := []       -- its scoreboard: numbers of flights (R87)
  hdrDone : Bool := false      -- the header at index 15 has had its DRAIN and clasp wait
  held : Option (Fault2 × Words) := none   -- a fault to take when it would first issue (R398)
  start : Nat := 0             -- first cc in which it may issue (R94, R210)
  cancelled : Bool := false    -- has taken the group's cancellation (R15)
  owesCancel : Bool := false   -- re-entered by `rfe` with a cancellation held back (R308)
  deriving DecidableEq, Repr

/-- A divergence stack entry (Table GRP-3). -/
structure StackEnt where
  clause : Nat
  index : Nat
  mask : Mask
  board : List Nat := []
  deriving DecidableEq, Repr

/-- A reconvergence token (Table GRP-4), with the lanes parked at its join and their scoreboard (R92). -/
structure Tok where
  isOpen : Bool := false
  mask : Mask := 0
  arrived : Mask := 0
  jaddr : Nat := 0
  parked : Mask := 0
  held : Bool := false         -- merged, and no slot free yet
  resumeClause : Nat := 0
  resumeIndex : Nat := 0
  board : List Nat := []
  sbit : Bool := false         -- some `join` that parked here had S = 1 (R86)
  deriving DecidableEq, Repr

/-- A trap handler that runs (R305): its frame, its bank, and what entry saved. -/
structure TrapSt where
  frame : Nat
  bank : Nat
  nest : Bool
  cause : Nat
  amask : Mask
  start : Nat                  -- STAMP
  guarded : Bool               -- the first 20,000 ct of R309 run
  sdepth : Nat
  tokOpen : Nat
  slot : Nat
  other : Option Path          -- the interrupted path of the other slot (R398)
  otherAt : Option (Nat × Nat × Mask)   -- where the frame shows it
  trapped : Path               -- the trapping path, for its scoreboard
  deriving DecidableEq, Repr

/-- States of a group that are not read off its paths (Table GRP-1). -/
inductive GState | resident | spilled | preempted (spilled : Bool) | suspended | exited
  deriving DecidableEq, Repr

/-- A group (R82, R84, R108). -/
structure Group where
  index : Nat
  role : Nat                   -- 0 V, 1 M, 2 C
  slotNo : Option Nat          -- R397
  st : GState
  g : List (Option W64)        -- g0 to g63; entry 0 stays none
  v : List (Option VReg)
  p : List Mask                -- p0 to p6
  q : List Bool                -- q0 to q6
  e : List W64                 -- e0 to e7
  t : List (BitVec 128)        -- t0 to t15
  fflags : Nat                 -- bits 4:0
  stale : Bool
  staleEn : Bool
  qovf : Bool
  b8fmt : W64
  trapnest : W64
  lkgen : W32
  seq : List W32               -- R73
  slot0 : Option Path
  slot1 : Option Path
  turn : Nat                   -- R85
  stack : List StackEnt        -- oldest first
  toks : List Tok              -- 16
  flights : List Flight
  fm : Mask                    -- R175
  kinds : List Nat             -- of each lane
  exited : Mask                -- lanes that exited, were switched off or were never launched
  traps : List TrapSt          -- innermost first
  cancel : Option (Nat × Nat)  -- a cancellation pending: level and record (R15)
  tag : Nat                    -- binding tag (R99)
  fences : List (Nat × Nat × Nat)   -- locket fences still to await: name, value, scope (R295)
  fenceFail : List (Nat × Nat × Nat)   -- failed values that met fences cover, to report (R295)
  victim : Bool                -- chosen by a steward; it does not issue until it is spilled (R118)
  age : Nat                    -- order of placement (R118)
  landed : List (Nat × Wr)     -- writes of this cc's completions, with their slot (R113)
  deriving DecidableEq, Repr

/-- A clasp (Table CLP-1); CLASS and PROM are the block's (R204). -/
structure Clasp where
  cycle : Nat := 0
  mode : Nat := 0              -- 0 IDLE, 1 ARMED, 2 ERROR
  bytes : Bool := false
  posted : Bool := false
  expected : Nat := 0
  pending : Nat := 0
  rem : Int := 0
  why : Nat := 0               -- the subcode that caused the ERROR (R207)
  deriving DecidableEq, Repr

/-- Where a copy request stands (R227, R228). -/
inductive CpSt | issued | moving | faulted | done
  deriving DecidableEq, Repr

/-- A copy request (R217 to R230). `fail` is the reason and address of a FAILED one. -/
structure CopyReq where
  id : Nat
  op : Nat                     -- 10 cpy, 11 cpyp, 12 gath, 13 put
  mode : Nat
  q : List W64                 -- the descriptor quad
  scope : Nat
  clasp : Option Nat
  grp : Nat
  d : Nat
  flight : Nat
  st : CpSt
  value : Nat := 0
  tick : Nat := 0
  due : Option Nat := none
  fail : Option (Nat × Nat) := none
  putNo : Nat := 0             -- number of a put on its window (R377)
  late : Bool := false         -- a page fault, a save or a rise of k has slowed it, and its tick no longer binds (R226)
  tags : List (Nat × Nat × Nat) := []   -- requests that other packages have not answered: tag, and what is read of where (R379)
  got : List (Nat × List Byte × Bool) := []   -- what they have answered: where, the bytes, whether they are poisoned
  lost : Bool := false         -- the link failed while it awaited answers: what it reads there is poisoned (R375)
  moved : Bool := false        -- its bytes have moved, and only answers are awaited
  deriving DecidableEq, Repr

/-- The status of a bead as the scheduler knows it (Table MTX-4). -/
inductive BeadSt | queued | running | halted | done
  deriving DecidableEq, Repr

/-- A bead of a block's ring (R262): its number, its status, when its task ends, and the entries the task latched (R258).
Its other fields are those in the ring. -/
structure Bead where
  num : Nat
  st : BeadSt
  due : Option Nat := none
  fault : Option Nat := none   -- stopped at a page fault at this address (R277)
  recheck : Bool := false      -- after `mcont` (R278)
  minAck : List Nat := []      -- identifier operations that must be acknowledged first (R258)
  ents : List (List Byte) := []
  tags : List (Nat × Nat × Nat) := []   -- requests that other packages have not answered, as of a copy request (R379)
  got : List (Nat × List Byte × Bool) := []
  lost : Bool := false
  sent : Bool := false         -- its rows are written, and only answers are awaited
  flags : Nat := 0             -- flags of the steps done, for `mflags` at completion (R270)
  deriving DecidableEq, Repr

/-- An accumulator: its format, its elements that are not 0, and whether it is dirty (R263, R279, R289). -/
structure Acc where
  fmt : Nat := 0               -- 0 binary32, 1 binary64, 2 int32
  cells : List (Nat × W64) := []
  dirty : Bool := false
  deriving DecidableEq, Repr

/-- A block's matrix context (R261). -/
structure Mtx where
  present : Bool := false
  accs : List Acc := [{}, {}, {}, {}]
  bank : Option Nat := none    -- the core's accumulator bank it is bound to (R279)
  stored : Bool := false       -- its bank image lies in the block's record, from which a bank is loaded (R280)
  beads : List Bead := []      -- not DONE and passed by the timeline are dropped
  tail : Nat := 0              -- beads written
  mflags : Nat := 0
  lastStart : Nat := 0         -- cc of its last task start (R280)
  fresh : Bool := false        -- its bank was taken from another block, and no task of it has started since (R280)
  halted : List (Nat × Nat) := []
  deriving DecidableEq, Repr

/-- Where a block was placed from (R315, R235). -/
inductive Origin
  | launch
  | tcb (addr : Nat)
  | spawn
  | node (desc buf : Nat)
  | locket
  deriving DecidableEq, Repr

/-- A reference that a checked wait holds (R238), of a path or of a queue, on a block, on the children of a join record
(R246) or on a launch; `detail` is what Table PRG-4 says of the check, `budget` the ct at which a promotion to res fails
(R241). -/
structure Ref where
  id : Nat
  waiter : Option PRef := none
  queue : Option Nat := none
  cls : Nat
  block : Option Nat := none
  join : Option (Nat × Nat) := none      -- context and address
  launch : Option (Nat × Nat) := none    -- context and address
  budget : Option Nat := none
  name : Nat := 0
  detail : Nat := 0
  owner : Option (Nat × Nat) := none     -- queue and packet of the GRAPH whose dependence it is (R362)
  graph : Nat := 0                       -- that GRAPH's record
  deriving DecidableEq, Repr

/-- Whether a block runs, waits to be saved, is saved, or drains since a ct (R83, R309, R315). -/
inductive BState | running | stopping | saved | draining (since : Nat)
  deriving DecidableEq, Repr

/-- A block. -/
structure Block where
  id : Nat
  ctx : Nat
  kobj : Nat
  index : Nat
  nblk : Nat
  arg : W64
  lrec : Nat
  lvl : List Nat               -- its launch's record and the records around it, as they stood at take-up (R361)
  jrec : Nat
  origin : Origin
  die : Nat
  core : Nat
  bslot : Nat
  bgen : Nat
  recNo : Nat                  -- block record of the save area (R345)
  clsL : Nat                   -- launched class
  clsLaunch : Nat := 0         -- launched class at its placement, which a restart has again (R232, R315)
  prom : Bool
  promRes : Option Nat         -- a promotion to res begun: ct of the check (R240)
  resRes : Bool                -- resident under the res rules by promotion
  prio : Nat
  st : BState
  side : Bool
  failed : Option (Nat × Nat)  -- cause and subcode
  groups : List Group
  clasps : List Clasp
  userTl : Nat
  copyTl : Nat
  mtxTl : Nat
  copyLast : Nat               -- last copy value assigned
  first : Bool                 -- a check named it while a spill of it ran: it returns first (R241)
  prevT : Nat                  -- R226
  reqs : List CopyReq
  failv : List (Nat × Nat × Nat)   -- unreported failed values: value, reason, address (R229)
  cpFail : Nat
  mtFail : Nat
  fmOut : Mask                 -- of groups that have ended (R175)
  kindsOut : Nat
  scratchLeft : Nat
  mtx : Mtx
  implied : Nat                -- class until a locket's fences are met (R293)
  hqLaunch : Nat               -- launch number that owns its hardware queues
  lanes : Mask                 -- launched lanes of its groups (R84)
  evict : Bool                 -- chosen to make room for a promotion: it is spilled whole (R240)
  started : Nat                -- ct of placement
  runTime : Nat
  waited : Nat                 -- ct that it has waited for placement and while saved or spilled, up to `since` (R235)
  since : Nat                  -- ct since which it is saved or some group of it is spilled
  bstate : Option Nat          -- the free values that its BSTATE was last written with (R345)
  oldNames : List Nat          -- names it had on cores it has left, for fences (R213, R295)
  deriving DecidableEq, Repr

/-- States of a buffer entry (Tables MEM-5, LKT-7). -/
inductive BufSt | free | held | transfer | carried
  deriving DecidableEq, Repr

/-- A scratchpad buffer entry of a slice (R167). Holders are block numbers of the model. -/
structure Buf where
  die : Nat
  slice : Nat
  index : Nat
  gen : Nat
  st : BufSt
  owner : Nat := 0             -- the block whose reservation it occupies
  holder : Nat := 0            -- a block, or the locket's address when CARRIED
  holderKind : Nat := 0        -- KIND of Table MEM-4
  target : Nat := 0
  targetKind : Nat := 0
  size : Nat := 0
  bytes : List (Nat × Byte) := []      -- written bytes that are not 0
  valid : List Nat := []               -- valid granules
  poison : List Nat := []
  writers : List Nat := []     -- copy requests issued before it was carried, which go on writing it (R291)
  deriving DecidableEq, Repr

/-- A hardware queue of a core (R176). -/
structure HQueue where
  die : Nat
  core : Nat
  num : Nat
  launch : Nat
  cls : Nat
  ents : List W32 := []
  head : Nat := 0              -- where its first entry lies in the ring of 1,024
  poison : List Nat := []      -- poisoned granules of the ring (R160)
  ovf : Nat := 0
  deriving DecidableEq, Repr

/-- A loaded kernel (Table KRN-1): the loader's copy of its header. -/
inductive KState | loaded | active | retiring | retired
  deriving DecidableEq, Repr
structure Kernel where
  kobj : Nat
  ctx : Nat
  st : KState
  isamin : Nat
  emumin : Nat
  emu : Bool
  config : Nat
  sv : Nat
  cls : Nat
  prom : Bool
  idem : Bool
  ngroups : Nat
  vregs : Nat
  gregs : Nat
  vmax : Nat
  gmax : Nat
  vfloor : Nat
  gfloor : Nat
  scratch : Nat
  clasps : Nat
  nbind : Nat
  roles : List Nat
  entry : Nat
  textSize : Nat
  textBase : Nat
  bindBase : Nat
  handlers : List Nat          -- 64 entries; 0xFFFFFFFF default
  live : Nat
  pages : List Nat             -- virtual pages of TEXT, DATA and the binding table (R129)
  deriving DecidableEq, Repr

/-- A resume queue record with the device's head and tail (Table LKT-10, R299). -/
structure ResumeQ where
  base : Nat := 0
  logCap : Nat := 0
  prio : Nat := 0
  en : Bool := false
  errCnt : Nat := 0
  age : Nat := 0
  bound : Nat := 0
  lrec : Nat := 0
  head : Nat := 0
  tail : Nat := 0
  headSince : Nat := 0
  pushed : List Nat := []      -- ct at which each entry was pushed (R301)
  deriving DecidableEq, Repr

/-- A first-touch window (Table CTX-2). -/
structure Ftw where
  base : Nat := 0
  len : Nat := 0
  template : W64 := 0
  deriving DecidableEq, Repr

/-- States of a context (Table CTX-3). -/
inductive CState | free | creating | ready | running | switching | suspended | faulted | destroying
  deriving DecidableEq, Repr

/-- A context: the device's copy of its record (Table CTX-1), its seal key and its identifier operations. -/
structure Ctx where
  num : Nat
  ptroot : Nat
  tidbase : Nat
  savebase : Nat
  saveblks : Nat
  tenant : Nat
  ceil : Nat
  keys : List Nat
  rqs : List ResumeQ
  ftws : List Ftw
  napMiss : Nat
  cpMiss : Nat
  st : CState
  sealKey : BitVec 256
  staging : Nat                -- bus address of the staging record
  tidPend : List (Nat × Nat × Nat × Nat)   -- identifier operations not acknowledged: flight, die, core, cc due (R258)
  restore : List Nat           -- res blocks to restore before any group issues (R243)
  incoming : Bool              -- while SWITCHING: it is switched in (Table CTX-3)
  deriving DecidableEq, Repr

/-- States of a user queue (Table QUE-2). -/
inductive QState | idle | pending | active | mappedIdle | saving | error | destroyed
  deriving DecidableEq, Repr

/-- Work of an earlier packet that a SIGNAL awaits (R356): a record until it is DONE, or a node's records up to a number. -/
inductive Work
  | record (addr : Nat)
  | node (desc upto : Nat)
  deriving DecidableEq, Repr

/-- A user queue as the front end holds it (R350 to R358). -/
structure UQueue where
  num : Nat
  ctx : Nat
  qcb : Nat
  st : QState
  rbase : Nat
  logsz : Nat
  prio : Nat
  cls : Nat
  head : Nat := 0
  tail : Nat := 0
  lseq : Nat := 0
  pseq : Nat := 0
  qtl : Nat := 0
  bound : Nat := 0
  errc : Nat := 0
  errpc : Nat := 0
  pendSince : Nat := 0
  slot : Option Nat := none
  heldSince : Nat := 0
  ibs : List (Nat × Nat) := []         -- indirect buffers: next address and end
  retry : Nat := 1000                  -- ct of the next header read delay (R355)
  nextRead : Nat := 0
  pkt : Option (Nat × Nat) := none     -- a packet taken up: type and address
  hold : Option Nat := none            -- the record that holds it (R356, R361)
  works : List Work := []              -- work of earlier packets, for SIGNAL
  sigs : List (Nat × Bool × List Work) := []   -- signals that wait: value, host scope, work (R356)
  fault : Option Nat := none           -- a read of the ring or a buffer stopped at a page fault at this address (R358)
  heir : Option Nat := none            -- the queue that takes its slot when its control block is saved (R354)
  again : Bool := false                -- it was mapped when its context was switched out (R317)
  deriving DecidableEq, Repr

/-- Work that waits for placement, or an index range of it (R235, R359, R363). -/
structure Item where
  id : Nat
  ctx : Nat
  kobj : Nat
  arg : W64
  lrec : Nat
  lvl : List Nat := []         -- its launch's record and the records around it
  jrec : Nat
  origin : Origin
  nblk : Nat                   -- NBLK of the launch
  next : Nat                   -- next index to place
  stop : Nat                   -- index after the last
  clsL : Nat
  prom : Bool
  prio : Nat
  hqEn : Nat
  hqCls : Nat
  launchNo : Nat
  ready : Nat                  -- ct of readiness
  level : Nat                  -- ageing levels gained
  lanes : Mask                 -- launched lanes
  locket : Option (Nat × List Byte)    -- a CLAIMED locket to place: its address and its bytes as read (R282)
  hdie : Option Nat
  node : List Nat := []        -- its place in the tree of distributors: the package's [], or die, cluster, core (R363)
  dist : Nat := 0              -- the range that it is a part of
  limit : Option Nat := none   -- ct by which a service bound wants it placed (R235)
  spawnCore : Option (Nat × Nat)
  queued : Bool := true        -- false while its core's spawn queue has no room for it (R366)
  deriving DecidableEq, Repr

/-- A level that has taken up a member: the lowest launched class counted in it, if any, and whether all are promotable (R361);
whether its record is DONE, which ends its use; and the service bound of the queue of a graph (R235). -/
structure Phase where
  ctx : Nat
  record : Nat
  cls : Option Nat := none
  prom : Bool := true
  isDone : Bool := false
  bound : Nat := 0
  deriving DecidableEq, Repr

/-- A queued task control block: its launch record, its address, its graph's record (R362). -/
structure Tcb where
  ctx : Nat
  lrec : Nat
  addr : Nat
  graph : Nat
  deriving DecidableEq, Repr

/-- Gathered records of a work-graph node (R364). -/
structure Node where
  ctx : Nat
  desc : Nat
  recs : List (W32 × Nat)      -- each with the ct of its arrival
  taken : Nat                  -- records that groups have taken so far
  busy : List (Nat × Nat)      -- buffers in use, each with the number of its group's first record
  deriving DecidableEq, Repr

/-- States of a Grenaro port (Table LNK-3). -/
inductive PState | down | training | up | degraded | retrain | failed
  deriving DecidableEq, Repr
structure Port where
  st : PState := .down
  lanes : Nat := 0
  failures : Nat := 0
  txSeq : Nat := 0
  rxSeq : Nat := 0
  replay : List Flit := []
  out : List Flit := []
  since : Nat := 0
  peer : Option Nat := none    -- the package number that its plane has reported (R373)
  freed : Nat := 0             -- receive buffers to return with the next flit (R374)
  replays : List Nat := []     -- ct of its replays of the last 1 ms (Table LNK-3)
  deriving DecidableEq, Repr

/-- A registered window (R376, R377). -/
structure Win where
  ctx : Nat
  index : Nat
  kind : Nat                   -- 1 export, 2 import
  base : Nat
  size : Nat
  peer : Nat
  pexp : Nat
  cls : Nat
  exp : Nat                    -- export number given
  wsrc : Nat := 0
  wtgt : Nat := 0
  puts : Nat := 0              -- puts numbered so far
  srcDone : List Nat := []     -- completed beyond the counter
  tgtDone : List Nat := []
  fails : List (Nat × Nat × Nat) := []   -- failed put numbers: number, reason, address
  owners : List (Nat × Nat × Nat × Nat) := []   -- puts not acknowledged: number, block, copy value, TOFF (R378)
  deriving DecidableEq, Repr

/-- A tenant's budgets (R348). -/
structure Tenant where
  num : Nat
  cores : Nat
  bw : Nat
  power : Nat
  deriving DecidableEq, Repr

/-- A migration record (R338, R339). -/
structure Mig where
  base : Nat
  size : Nat
  newBase : Option Nat := none         -- FORWARD
  leaves : List Nat := []              -- entries in which MIG was set
  wver : Nat := 0
  deriving DecidableEq, Repr

/-- What an engine reads through the domain aperture (R379): what other packages have answered, whether the link has failed, and what
has still to be asked: addresses and lengths. It holds something within one event only. -/
structure ApIo where
  known : List (Nat × List Byte × Bool) := []
  lost : Bool := false
  wanted : List (Nat × Nat) := []
  deriving DecidableEq, Repr

/-- A page that a context has mapped, with the frame its leaf was installed with (R331). -/
structure PageRec where
  ctx : Nat
  va : Nat
  size : Nat                   -- SIZE
  frame : Nat
  deriving DecidableEq, Repr

/-- A translation held by a TLB (R329): the core's (some core) or the die's shared one. -/
structure TlbEnt where
  ctx : Nat
  die : Nat
  core : Option Nat
  va : Nat
  logSize : Nat
  leaf : W64
  deriving DecidableEq, Repr

/-- Registers of BAR2 that are kept per master, and its rings (R385, R387, R388). -/
structure MasterSt where
  who : Master
  feat : BitVec 128 := 0
  token : BitVec 128 := 0
  low : W64 := 0               -- the low half of a token, as written (R387)
  cqbase : Nat := 0
  cqlog : Nat := 0
  cqtail : Nat := 0
  cqhead : Nat := 0
  rqbase : Nat := 0
  rqcons : Nat := 0
  written : Nat := 0
  owed : Nat := 0
  deriving DecidableEq, Repr

/-- An entry of the event log (Table PLT-12). -/
structure LogEnt where
  stamp : Nat
  kind : Nat
  ctx : Nat
  cause : Nat
  sub : Nat
  addr : Nat
  data : Nat
  deriving DecidableEq, Repr

/-- The path that issues and the words it issues. -/
structure Issue where
  ref : PRef
  words : Words
  deriving DecidableEq, Repr

/-- The state of a package. -/
structure State where
  pkg : Pkg
  cc : Nat
  ct : Nat
  ctFrac : Nat                                     -- what ct has advanced beyond, in 1/61,200 ct (R11)
  free : Nat
  uid : Nat
  inbox : List Instr
  cur : Option Issue
  quarter : Nat                                    -- number of the first issue quarter that has not had its turn in this cc
  rr : List ((Nat × Nat × Nat × Nat) × Nat)        -- (die, core, quarter, class) and the position granted last
  stewards : List ((Nat × Nat) × Nat)              -- cc a core's steward has counted (R118)
  turns : List ((Nat × Nat × Nat) × Nat)           -- (die, core, engine): block that started its last task (R265)
  bgens : List ((Nat × Nat × Nat) × Nat)           -- (die, core, bslot): BGEN
  mem : List Host.Cell
  poison : List Nat                                -- poisoned granules
  granKey : List (Nat × BitVec 256)                -- key a granule was last written under
  keySlots : List (Nat × Nat × BitVec 256)         -- slot, context, key
  tlb : List TlbEnt                                -- oldest first
  pools : List ((Nat × Nat) × List Nat × Nat)      -- (die, SIZE): frames given back, and frames of the pool's own range given out
  dirtyFrames : List (Nat × Nat)                   -- frame, SIZE
  pages : List PageRec                             -- pages that are not UNMAPPED (R331)
  ap : ApIo                                        -- what the engine of this event reads through the aperture (R379)
  hqPoison : List ((Nat × Nat × Nat) × List Nat)   -- (die, core, number): poisoned granules of a queue that no launch owns (R160)
  migs : List Mig
  ceCnt : List Nat
  poisCnt : List Nat
  ctxs : List Ctx
  kernels : List Kernel
  nextKobj : Nat
  blocks : List Block
  bufs : List Buf
  hqs : List HQueue
  items : List Item
  tcbs : List Tcb
  phases : List Phase
  cancelled : List (Nat × Nat)                     -- cancelled levels not complete: context and record (R361)
  uqs : List UQueue
  nodes : List Node
  refs : List Ref
  leftFails : List (Nat × Nat × Nat × Nat)         -- unreported failed copies of blocks that left: name, value, reason, address
  lastPass : Nat
  lastReconcile : Nat
  launchMeans : List (Nat × Nat × Nat)             -- launch number: completed blocks and their total run time (R315)
  ports : List Port
  linkDown : Option Nat                            -- ct since which no port is active (R375)
  unsent : List Flit                               -- flits that no active port has taken yet (R375)
  pkgNo : Nat
  cxlDown : List Nat
  wins : List Win
  bootstat : W64
  mr : List (BitVec 256)
  fwsv : Nat
  codesv : Nat
  fuseFw : Nat
  fuseCode : Nat
  owner : Option Master
  handover : Option (BitVec 128 × Nat)             -- pending: the new token and its start
  masters : List MasterSt
  heldCmds : List Cmd                              -- CTX_DESTROY commands held by a switch (R342)
  tenants : List Tenant
  pwrcap : Nat
  pwrnow : Nat
  dvfs : Nat
  temp : Nat
  coolSince : Option Nat
  thermal : Nat                                    -- points that heat has stepped down (R395)
  misses : List (Nat × Nat)                        -- firmware core and ct of its last heartbeat failure
  logHead : Nat
  log : List LogEnt
  deriving DecidableEq, Repr

/-- Why a step of the model stops. -/
inductive Fault
  /-- Raised by an instruction's meaning when no path issues it: the state names no issuing path, or one that no group
  has. Safe: no step of the machine reaches it, since a grant sets the issuing path. -/
  | noIssuer
  /-- Raised by an event's meaning when what it happens to is not there (a block, flight or port that the state does
  not hold). Safe: the event does not occur then. -/
  | noSuchEvent
  deriving DecidableEq, Repr

/-- Why the model gives no meaning. -/
inductive Refusal
  /-- Raised by an arm of `exec` for an instruction without a meaning. Safe: nothing is claimed of it. -/
  | notModelled (mnemonic : String)
  deriving DecidableEq, Repr

/-- The outcome of a step. -/
abbrev Out := Host.Outcome State Fault Refusal

/-- 32 zero bytes, the start of a measurement register (R381). -/
def zero256 : BitVec 256 := 0

/-- The package right after reset: no block, context or kernel exists, and the firmware cores are held in reset (R381).
The values that the spec does not state are the model's: the configuration (DESIGN CHOICE, log 1), the counters and the
inbox (DESIGN CHOICE, log 2, 3), empty memory and pools (DESIGN CHOICE, log 4, 5), the first KOBJID, generations and
package number (DESIGN CHOICE, log 7, 8, 9), the CXL ports (PRESUMED, log 10), the fuses (DESIGN CHOICE, log 11), the
grant positions (DESIGN CHOICE, log 12) and the temperature (DESIGN CHOICE, log 24). -/
def State.reset : State :=
  { pkg := .vz9a, cc := 0, ct := 0, ctFrac := 0, free := 0, uid := 0, inbox := [], cur := none, quarter := 0, rr := [],
    stewards := [], turns := [], bgens := [], mem := [], poison := [], granKey := [], keySlots := [], tlb := [],
    pools := [], dirtyFrames := [], pages := [], ap := {}, hqPoison := [], migs := [], ceCnt := List.replicate 24 0, poisCnt := List.replicate 24 0,
    ctxs := [], kernels := [], nextKobj := 1, blocks := [], bufs := [], hqs := [], items := [], tcbs := [], phases := [], cancelled := [], uqs := [], nodes := [],
    refs := [], leftFails := [], lastPass := 0, lastReconcile := 0, launchMeans := [], ports := List.replicate 36 {}, linkDown := some 0, unsent := [], pkgNo := 0,
    cxlDown := [], wins := [], bootstat := 0, mr := List.replicate 8 zero256, fwsv := 0, codesv := 0, fuseFw := 0,
    fuseCode := 0, owner := none, handover := none, masters := [{ who := .host }, { who := .bmc }], heldCmds := [], tenants := [],
    pwrcap := 7200, pwrnow := 0, dvfs := 0, temp := 0, coolSince := none, thermal := 0, misses := [], logHead := 0, log := [] }

end Sys2Proof.Machine
end

