-- ==== Sys2Proof/Machine/Mem.lean ====
section
/-!
DEFINITION. Memory: the canonical list of cells, the physical map (R369), migration records (R338, R339), encryption (R340)
and poison (R160).
-/
namespace Sys2Proof.Machine

/-! ## The canonical list -/

/-- The byte at an address; an unlisted one reads 0 (DESIGN CHOICE, log 4). -/
def Memory.read : List Host.Cell → Nat → Byte
  | [], _ => 0
  | (a, b) :: m, x => if a = x then b else if x < a then 0 else Memory.read m x

/-- Write one byte, keeping the list strictly rising and without zero bytes. -/
def Memory.write : List Host.Cell → Nat → Byte → List Host.Cell
  | [], x, v => if v = 0 then [] else [(x, v)]
  | (a, b) :: m, x, v =>
    if x < a then (if v = 0 then (a, b) :: m else (x, v) :: (a, b) :: m)
    else if a = x then (if v = 0 then m else (x, v) :: m)
    else (a, b) :: Memory.write m x v

/-- Strictly rising addresses above a bound, no zero byte. -/
def Memory.wfFrom : Nat → List Host.Cell → Bool
  | _, [] => true
  | lo, (a, b) :: m => lo ≤ a && b != 0 && Memory.wfFrom (a + 1) m
/-- The canonical form. -/
def Memory.wf (m : List Host.Cell) : Bool := Memory.wfFrom 0 m

/-- Read n bytes from an address upward. -/
def Memory.readN (m : List Host.Cell) (a : Nat) : Nat → List Byte
  | 0 => []
  | n + 1 => Memory.read m a :: Memory.readN m (a + 1) n
/-- Write bytes from an address upward. -/
def Memory.writeN (m : List Host.Cell) (a : Nat) : List Byte → List Host.Cell
  | [] => m
  | b :: bs => Memory.writeN (Memory.write m a b) (a + 1) bs

/-- The little-endian value of bytes (R3). -/
def leVal : List Byte → Nat
  | [] => 0
  | b :: bs => b.toNat + 256 * leVal bs
/-- The n low bytes of a value, little-endian (R3). -/
def leBytes : Nat → Nat → List Byte
  | 0, _ => []
  | n + 1, v => BitVec.ofNat 8 v :: leBytes n (v / 256)

/-! ## Figures of the package (R2, R8, R9, R369) -/

def Pkg.dies : Pkg → Nat | .vz9a => 24 | .vz9h => 12
def Pkg.cxlPorts : Pkg → Nat | .vz9a => 16 | .vz9h => 8
def Pkg.ports : Pkg → Nat | .vz9a => 36 | .vz9h => 18
/-- The configuration code of headers and DEVID. -/
def Pkg.code : Pkg → Nat | .vz9a => 1 | .vz9h => 2
/-- Cluster of a core on its die (R8). -/
def clusterOf (core : Nat) : Nat := 2 * (core / 8) + core % 8 / 4
/-- The main clock in MHz at a DVFS point (Table PLT-5). -/
def dvfsF : Nat → Nat | 0 => 850 | 1 => 720 | 2 => 600 | _ => 425
/-- The package power limit in W at a point (Table PLT-5). -/
def Pkg.limit (p : Pkg) (pt : Nat) : Nat :=
  (match pt with | 0 => 7200 | 1 => 5600 | 2 => 4300 | _ => 2900) / (match p with | .vz9a => 1 | .vz9h => 2)

/-- A region of the physical map (Table LNK-1). -/
inductive Region
  | hbm (die : Nat)
  | cxl (port : Nat)
  | host
  | aperture
  deriving DecidableEq, Repr

/-- The region of a physical address; none where no region, die or port is there (R369). -/
def Pkg.region (p : Pkg) (pa : Nat) : Option Region :=
  if pa < 24 * 2 ^ 36 then (if pa / 2 ^ 36 < p.dies then some (.hbm (pa / 2 ^ 36)) else none)
  else if 2 ^ 48 ≤ pa ∧ pa < 2 ^ 48 + 16 * 2 ^ 41 then
    (if (pa - 2 ^ 48) / 2 ^ 41 < p.cxlPorts then some (.cxl ((pa - 2 ^ 48) / 2 ^ 41)) else none)
  else if 2 ^ 50 ≤ pa ∧ pa < 2 ^ 51 then some .host
  else if 2 ^ 51 ≤ pa ∧ pa < 2 ^ 52 then some .aperture
  else none

/-- The package, export number and offset of an address in the domain aperture (Table LNK-1). -/
def apertureOf (pa : Nat) : Nat × Nat × Nat := (pa / 2 ^ 41 % 2 ^ 10, pa / 2 ^ 29 % 2 ^ 12, pa % 2 ^ 29)

/-! ## Features (R386) -/

/-- The device's own feature word (Table PLT-3). -/
def featDev : BitVec 128 := 0x1F
/-- The active set of a master: its word AND the device's. -/
def MasterSt.active (m : MasterSt) : BitVec 128 := m.feat &&& featDev
def State.master (s : State) (m : Master) : MasterSt := (s.masters.find? (·.who == m)).getD { who := m }
/-- Whether a feature is used: one outside the owner's active set is not; a package without an owner uses what the device has
(DESIGN CHOICE, log 60). -/
def State.uses (s : State) (bit : Nat) : Bool := match s.owner with
  | some m => (s.master m).active.getLsbD bit
  | none => featDev.getLsbD bit
/-- The region of a physical address, among those whose feature is used: host memory is CXLC's, the second tier TIER2's, the
domain aperture GRENARO's (R386). A region that is not used is absent (R369; DESIGN CHOICE, log 60). -/
def State.region (s : State) (pa : Nat) : Option Region := match s.pkg.region pa with
  | some (.hbm d) => some (.hbm d)
  | some (.cxl p) => if s.uses 1 then some (.cxl p) else none
  | some .host => if s.uses 0 then some .host else none
  | some .aperture => if s.uses 2 then some .aperture else none
  | none => none

/-- Whether the bytes at an address pass a controller that encrypts (R340). -/
def Region.crypts : Region → Bool
  | .hbm _ | .cxl _ => true
  | _ => false

/-! ## Physical accesses -/

/-- Where a migration record carries out an access of an address of its range: in FORWARD, at the same offset of the new frame
(R339). -/
def Mig.target (m : Mig) (pa : Nat) : Option Nat :=
  if m.base ≤ pa ∧ pa < m.base + m.size then m.newBase.map (· + (pa - m.base)) else none
/-- Follow migration records: the range that one names may itself have moved on. -/
def homeVia (migs : List Mig) : Nat → Nat → Nat
  | 0, pa => pa
  | n + 1, pa => match migs.findSome? (·.target pa) with
    | some a => homeVia migs n a
    | none => pa
/-- Where a physical address is carried out: through the migration records in FORWARD (R339). -/
def State.home (s : State) (pa : Nat) : Nat := homeVia s.migs s.migs.length pa

/-- The key the granule of an address was last written under; none in plaintext (R340). -/
def State.granuleKey (s : State) (pa : Nat) : Option (BitVec 256) :=
  (s.granKey.find? (fun x => x.1 == pa / 64)).map (·.2)

/-- The 64 bytes of a granule as memory stores them, by the key they were written under and what its writer reads (R340). -/
def storedGranule (key : Option (BitVec 256)) (n : Nat) (bs : List Byte) : List Byte :=
  match key with | some k => xtsStore k n bs | none => bs
/-- The bytes that a reader under a key gets of a stored granule (R340). -/
def loadedGranule (key : Option (BitVec 256)) (n : Nat) (bs : List Byte) : List Byte :=
  match key with | some k => xtsLoad k n bs | none => bs
/-- The byte at a physical address as a reader under a key sees it: `State.mem` holds what a reader under the granule's own key
gets; a reader under another key, or under none, gets the XTS decryption of the stored bytes (R340). -/
def State.readByte (s : State) (key : Option (BitVec 256)) (pa : Nat) : Byte :=
  if s.granuleKey pa = key then Memory.read s.mem pa
  else (loadedGranule key (pa / 64)
    (storedGranule (s.granuleKey pa) (pa / 64) (Memory.readN s.mem (pa / 64 * 64) 64))).getD (pa % 64) 0

/-- n bytes from a physical address, each at its home. -/
def State.readPhys (s : State) (key : Option (BitVec 256)) (pa : Nat) : Nat → List Byte
  | 0 => []
  | n + 1 => s.readByte key (s.home pa) :: s.readPhys key (pa + 1) n

/-- Make a granule's key the writer's: its bytes become what the writer would read (a partial write of a granule is carried
out under the writer's key). -/
def State.rekey (s : State) (key : Option (BitVec 256)) (pa : Nat) : State :=
  if s.granuleKey pa = key then s
  else
    let base := pa / 64 * 64
    let bytes := (List.range 64).map fun i => s.readByte key (base + i)
    let rest := s.granKey.filter fun x => x.1 != pa / 64
    { s with
      mem := Memory.writeN s.mem base bytes
      granKey := match key with | some k => (pa / 64, k) :: rest | none => rest }

/-- Write bytes at a physical address under a key, each at its home. -/
def State.writeBytes (s : State) (key : Option (BitVec 256)) (pa : Nat) : List Byte → State
  | [] => s
  | b :: bs =>
    let s := s.rekey key (s.home pa)
    State.writeBytes { s with mem := Memory.write s.mem (s.home pa) b } key (pa + 1) bs

/-- Whether some granule that the n bytes at an address touch is poisoned (R160). -/
def State.poisoned (s : State) (pa n : Nat) : Bool :=
  s.poison.any fun g => s.home pa / 64 ≤ g && g ≤ (s.home pa + n - 1) / 64 && n != 0

/-- Whether stretches of bytes together cover a granule. -/
def coversGranule (ws : List (Nat × Nat)) (g : Nat) : Bool :=
  (List.range 64).all fun i => ws.any fun w => w.1 ≤ 64 * g + i && 64 * g + i < w.1 + w.2
/-- Granules that a write of n bytes at an address covers whole lose their poison (R160). -/
def State.unpoison (s : State) (pa n : Nat) : State :=
  let a := s.home pa
  { s with poison := s.poison.filter fun g => !(a ≤ 64 * g && 64 * g + 64 ≤ a + n) }

/-- Count a write of n bytes against each OPEN migration record whose range a byte of it reaches, at its home (R338). -/
def State.countWrite (s : State) (pa n : Nat) : State :=
  { s with migs := s.migs.map fun m =>
      if m.newBase == none && (List.range n).any fun i => m.base ≤ s.home (pa + i) && s.home (pa + i) < m.base + m.size
      then { m with wver := m.wver + 1 } else m }

/-- Count what firmware writes over a range of frames, granule by granule (R338; DESIGN CHOICE, log 87: in how many writes). -/
def State.countRange (s : State) (base size : Nat) : State :=
  { s with migs := s.migs.map fun m =>
      if m.newBase == none then
        { m with wver := m.wver + (min (base + size) (m.base + m.size) - max base m.base + 63) / 64 }
      else m }

/-- Append an entry to the event log (R391, R392). -/
def State.logEvent (s : State) (kind ctx cause sub addr data : Nat) : State :=
  { s with
    logHead := s.logHead + 1
    log := (s.log ++ [{ stamp := s.ct, kind := kind, ctx := ctx, cause := cause, sub := sub, addr := addr, data := data }]) }

/-- Whether the home of an address lies behind a CXL port that is down (R372). -/
def State.cxlIsDown (s : State) (pa : Nat) : Bool :=
  match s.pkg.region (s.home pa) with
  | some (.cxl p) => s.cxlDown.contains p
  | _ => false

/-- One write of whole bytes at a physical address: discarded behind a port that is down; it counts against a migration
record, and clears the poison of a granule it covers. -/
def State.writePhys (s : State) (key : Option (BitVec 256)) (pa : Nat) (bs : List Byte) : State :=
  if s.cxlIsDown pa then s.logEvent 6 0xFFFF 0 0 pa 0
  else ((s.countWrite pa bs.length).writeBytes key pa bs).unpoison pa bs.length

/-- Little-endian value of n bytes at a physical address, under no key. -/
def State.phys (s : State) (pa n : Nat) : Nat := leVal (s.readPhys none pa n)

end Sys2Proof.Machine
end

