-- ==== Sys2Proof/Machine/Sha.lean ====
section
/-!
DEFINITION. The hash functions that the spec names: SHA-256 and SHA-384 (FIPS 180-4), HMAC (FIPS 198-1) and HKDF (RFC 5869), for
the seal of a locket (R286), measurements (R381) and key blobs (R384). The two SHA-2 functions are one definition over the
width of a word.
-/
namespace Sys2Proof.Machine

/-- Big-endian bytes of a number, and the number of big-endian bytes. -/
def beBytes (n v : Nat) : List Byte := (leBytes n v).reverse
def beVal (bs : List Byte) : Nat := leVal bs.reverse

/-- The k-th root of a number, rounded down, below 2ⁿ: bit by bit from the top. -/
def rootBelow (k n x : Nat) : Nat :=
  (List.range n).foldl (fun r i => if (r + 2 ^ (n - 1 - i)) ^ k ≤ x then r + 2 ^ (n - 1 - i) else r) 0
/-- The first n bits after the binary point of the k-th root of a number below 2⁹. -/
def rootFraction (k n p : Nat) : Nat := rootBelow k (n + 5) (p * 2 ^ (k * n)) % 2 ^ n
/-- The primes below 410: there are 80. -/
def smallPrimes : List Nat := (List.range 410).filter fun n => 1 < n && (List.range n).all fun d => d < 2 || n % d != 0

/-- What distinguishes one SHA-2 function of w-bit words: its rounds, the rotations of the two sums over the working variables,
the rotations and the shift of the two sums of the schedule, the primes its start comes from, and the words it gives. -/
structure Sha2 (w : Nat) where
  rounds : Nat
  sumA : List Nat
  sumE : List Nat
  near : List Nat × Nat
  far : List Nat × Nat
  skip : Nat
  out : Nat
def sha2_256 : Sha2 32 := ⟨64, [2, 13, 22], [6, 11, 25], ([7, 18], 3), ([17, 19], 10), 0, 8⟩
def sha2_384 : Sha2 64 := ⟨80, [28, 34, 39], [14, 18, 41], ([1, 8], 7), ([19, 61], 6), 8, 6⟩

/-- A word turned right by each of some amounts, summed bit by bit onto a start. -/
def turns {w : Nat} (start : BitVec w) (rs : List Nat) (x : BitVec w) : BitVec w := rs.foldl (fun t r => t ^^^ x.rotateRight r) start
/-- The working variables, and the sixteen words of the schedule from this round on. -/
structure ShaRun (w : Nat) where
  a : BitVec w
  b : BitVec w
  c : BitVec w
  d : BitVec w
  e : BitVec w
  f : BitVec w
  g : BitVec w
  h : BitVec w
  next : List (BitVec w)
/-- One round with its constant. -/
def ShaRun.round {w : Nat} (z : Sha2 w) (r : ShaRun w) (k : BitVec w) : ShaRun w :=
  let word := fun i => r.next.getD i 0
  let sigma := fun (m : List Nat × Nat) (x : BitVec w) => turns (x >>> m.2) m.1 x
  let t := r.h + k + word 0 + turns 0 z.sumE r.e + (r.g ^^^ (r.e &&& (r.f ^^^ r.g)))
  { a := t + turns 0 z.sumA r.a + ((r.a &&& r.b) ||| (r.c &&& (r.a ||| r.b)))
    b := r.a, c := r.b, d := r.c, e := r.d + t, f := r.e, g := r.f, h := r.g
    next := r.next.drop 1 ++ [word 0 + sigma z.near (word 1) + word 9 + sigma z.far (word 14)] }
def ShaRun.vars {w : Nat} (r : ShaRun w) : List (BitVec w) := [r.a, r.b, r.c, r.d, r.e, r.f, r.g, r.h]
/-- The chaining value after one block of sixteen words. -/
def Sha2.block {w : Nat} (z : Sha2 w) (ks : List (BitVec w)) (v ws : List (BitVec w)) : List (BitVec w) :=
  let x := fun i => v.getD i 0
  let r : ShaRun w := ⟨x 0, x 1, x 2, x 3, x 4, x 5, x 6, x 7, ws⟩
  List.zipWith (· + ·) v (ks.foldl (ShaRun.round z) r).vars
/-- The padded message: a one bit, zeros, and its length in bits in two words. -/
def shaPad (w : Nat) (m : List Byte) : List Byte :=
  let n := w / 8
  m ++ 0x80 :: List.replicate ((32 * n - 1 - 2 * n - m.length % (16 * n)) % (16 * n)) 0 ++ beBytes (2 * n) (8 * m.length)
/-- The hash of a message, in output order. -/
def Sha2.hash {w : Nat} (z : Sha2 w) (m : List Byte) : List Byte :=
  let n := w / 8
  let p := shaPad w m
  let ks := (smallPrimes.take z.rounds).map fun q => BitVec.ofNat w (rootFraction 3 w q)
  let start := ((smallPrimes.drop z.skip).take 8).map fun q => BitVec.ofNat w (rootFraction 2 w q)
  let v := (List.range (p.length / (16 * n))).foldl (fun v b =>
    z.block ks v ((List.range 16).map fun i => BitVec.ofNat w (beVal ((p.drop (16 * n * b + n * i)).take n)))) start
  ((v.take z.out).map fun x => beBytes n x.toNat).flatten

/-- SHA-256, 32 bytes; SHA-384, 48 bytes. -/
def sha256 (m : List Byte) : List Byte := sha2_256.hash m
def sha384 (m : List Byte) : List Byte := sha2_384.hash m
/-- HMAC over a hash with blocks of n bytes; the key is at most a block. -/
def hmacOf (hash : List Byte → List Byte) (n : Nat) (key m : List Byte) : List Byte :=
  let pad := fun x : Byte => (key ++ List.replicate (n - key.length) 0).map (· ^^^ x)
  hash (pad 0x5C ++ hash (pad 0x36 ++ m))
def hmac256 (key m : List Byte) : List Byte := hmacOf sha256 64 key m
/-- The first 32 bytes of HKDF-SHA-384. -/
def hkdf384 (salt ikm info : List Byte) : List Byte :=
  (hmacOf sha384 128 (hmacOf sha384 128 salt ikm) (info ++ [1])).take 32

/-- A 256-bit value of 32 bytes in order, and its bytes. -/
def ofBytes256 (bs : List Byte) : BitVec 256 := BitVec.ofNat 256 (beVal bs)
def bytes256 (x : BitVec 256) : List Byte := beBytes 32 x.toNat

/-! ## P-384 and LMS/HSS -/

/-- The prime and the constant of the curve y² = x³ − 3x + b (FIPS 186-5). -/
def p384 : Nat := 2 ^ 384 - 2 ^ 128 - 2 ^ 96 + 2 ^ 32 - 1
def p384B : Nat :=
  0xb3312fa7e23ee7e4988e056be3f82d19181d9c6efe8141120314088f5013875ac656398d8a2ed19d2a85c8edd3ec2aef
/-- Whether an affine point lies on the curve. -/
def onP384 (x y : Nat) : Bool := x < p384 && y < p384 && (y * y) % p384 == (x * x * x + (p384 - 3) * x + p384B) % p384

/-- A hash of RFC 8554 in a key pair I at a node or leaf number r. -/
def lmsHash (i : List Byte) (r : Nat) (rest : List Byte) : List Byte := sha256 (i ++ beBytes 4 r ++ rest)
/-- n more links of a Winternitz chain from link j on. -/
def lmChain (i : List Byte) (q k : Nat) : Nat → Nat → List Byte → List Byte
  | 0, _, t => t
  | n + 1, j, t => lmChain i q k n (j + 1) (lmsHash i q (beBytes 2 k ++ beBytes 1 j ++ t))
/-- The 67 digits of W4 of a message's hash: its 64 nibbles and its checksum's three. -/
def lmDigits (hash : List Byte) : List Nat :=
  let ds := (hash.map fun b => [b.toNat / 16, b.toNat % 16]).flatten
  let sum := (ds.map (15 - ·)).sum
  ds ++ [sum / 256 % 16, sum / 16 % 16, sum % 16]
/-- The candidate for a one-time public key that a signature C ‖ y gives (RFC 8554, algorithm 4b). -/
def lmOtsKey (i : List Byte) (q : Nat) (sig m : List Byte) : List Byte :=
  let ds := lmDigits (lmsHash i q ([0x81, 0x81] ++ sig.take 32 ++ m))
  lmsHash i q ([0x80, 0x80] ++ ((List.range 67).map fun k =>
    lmChain i q k (15 - ds.getD k 0) (ds.getD k 0) ((sig.drop (32 + 32 * k)).take 32)).flatten)
/-- Up a tree from a node with its value, by the path's siblings. -/
def lmsClimb (i : List Byte) : Nat → List Byte → List (List Byte) → List Byte
  | _, t, [] => t
  | n, t, p :: ps =>
    lmsClimb i (n / 2) (lmsHash i (n / 2) ([0x83, 0x83] ++ (if n % 2 = 1 then p ++ t else t ++ p))) ps
/-- Whether an LMS signature of 2,828 bytes over a message verifies under a 56-byte public key: SHA-256, H20 and W4. -/
def lmsValid (pub sig m : List Byte) : Bool :=
  let i := (pub.drop 8).take 16
  let q := beVal (sig.take 4)
  let leaf := lmsHash i (2 ^ 20 + q) ([0x82, 0x82] ++ lmOtsKey i q ((sig.drop 8).take 2176) m)
  let path := (List.range 20).map fun k => (sig.drop (2188 + 32 * k)).take 32
  pub.take 8 == [0, 0, 0, 8, 0, 0, 0, 3] && (sig.drop 4).take 4 == [0, 0, 0, 3] && (sig.drop 2184).take 4 == [0, 0, 0, 8] &&
    pub.length == 56 && sig.length == 2828 && q < 2 ^ 20 && lmsClimb i (2 ^ 20 + q) leaf path == (pub.drop 24).take 32
/-- Whether a two-level HSS signature over a message verifies under a 60-byte public key: the top tree signs the second
tree's key, which signs the message (RFC 8554, section 6.3). -/
def hssValid (pub sig m : List Byte) : Bool :=
  let low := (sig.drop 2832).take 56
  pub.take 4 == [0, 0, 0, 2] && sig.take 4 == [0, 0, 0, 1] && lmsValid (pub.drop 4) ((sig.drop 4).take 2828) low &&
    lmsValid low (sig.drop 2888) m

end Sys2Proof.Machine
end

