-- ==== Sys2Proof/Machine/Ops.lean ====
section
/-!
DEFINITION. The named operations: finding and replacing blocks, groups and paths; translation (R326 to R330); accesses in a
context; registers (R108 to R120); paths, tokens and exits (R85 to R92, R104); classes and references (R232, R238);
taking an exception (R303 to R307) and returning from it (R308); and how an instruction issues.
-/
namespace Sys2Proof.Machine

/-! ## Lanes -/

/-- The lanes of which a test holds. -/
def maskOf (f : Nat → Bool) : Mask :=
  BitVec.ofNat 32 ((List.range 32).foldl (fun acc i => if f i then acc + 2 ^ i else acc) 0)
def allLanes : Mask := BitVec.allOnes 32
/-- The lanes of a mask, lowest first. -/
def lanesOf (m : Mask) : List Nat := (List.range 32).filter m.getLsbD
def popMask (m : Mask) : Nat := (lanesOf m).length
/-- The lowest lane of a mask. -/
def lowLane (m : Mask) : Nat := (lanesOf m).headD 0

/-! ## Finding and replacing -/

def State.block? (s : State) (id : Nat) : Option Block := s.blocks.find? (·.id == id)
def State.kernel? (s : State) (kobj : Nat) : Option Kernel := s.kernels.find? (·.kobj == kobj)
def State.ctx? (s : State) (n : Nat) : Option Ctx := s.ctxs.find? (·.num == n)
def State.setBlock (s : State) (b : Block) : State :=
  { s with blocks := s.blocks.map fun x => if x.id = b.id then b else x }
def State.setCtx (s : State) (c : Ctx) : State :=
  { s with ctxs := s.ctxs.map fun x => if x.num = c.num then c else x }
def State.setKernel (s : State) (k : Kernel) : State :=
  { s with kernels := s.kernels.map fun x => if x.kobj = k.kobj then k else x }
def Block.setGroup (b : Block) (i : Nat) (g : Group) : Block := { b with groups := b.groups.set i g }
def State.group? (s : State) (bid gid : Nat) : Option Group := (s.block? bid).bind fun b => b.groups[gid]?
def State.setGroup (s : State) (bid gid : Nat) (g : Group) : State :=
  match s.block? bid with
  | some b => s.setBlock (b.setGroup gid g)
  | none => s
def Group.path? (g : Group) (slot : Nat) : Option Path := if slot = 0 then g.slot0 else g.slot1
def Group.setPath (g : Group) (slot : Nat) (p : Option Path) : Group :=
  if slot = 0 then { g with slot0 := p } else { g with slot1 := p }
/-- Change one path. -/
def State.updPath (s : State) (r : PRef) (f : Path → Path) : State :=
  match s.group? r.blk r.grp with
  | some g => match g.path? r.slot with
    | some p => s.setGroup r.blk r.grp (g.setPath r.slot (some (f p)))
    | none => s
  | none => s
/-- Change one group. -/
def State.updGroup (s : State) (bid gid : Nat) (f : Group → Group) : State :=
  match s.group? bid gid with
  | some g => s.setGroup bid gid (f g)
  | none => s
/-- Change one block. -/
def State.updBlock (s : State) (bid : Nat) (f : Block → Block) : State :=
  match s.block? bid with
  | some b => s.setBlock (f b)
  | none => s
def State.updCtx (s : State) (n : Nat) (f : Ctx → Ctx) : State :=
  match s.ctx? n with
  | some c => s.setCtx (f c)
  | none => s
/-- Change every path of a group that a wait may hold: the slotted ones, and those that its handlers interrupted. -/
def Group.mapPaths (g : Group) (f : Path → Path) : Group :=
  { g with slot0 := g.slot0.map f, slot1 := g.slot1.map f, traps := g.traps.map fun t => { t with other := t.other.map f } }
/-- End the waits that an event ends, by their condition or with a fault, in every group that waits, also one that does not run
now; the paths go on from the next cc (R206, R210). -/
def State.wake (s : State) (ends : Block → WaitOn → Option (Option Fault2)) : State :=
  let f := fun (b : Block) (p : Path) => match p.cond with
    | .wait on w => match ends b on with
      | some x => { p with cond := .ended on w x, start := s.cc + 1 }
      | none => p
    | _ => p
  { s with blocks := s.blocks.map fun b => { b with groups := b.groups.map (·.mapPaths (f b)) } }
/-- The wait of a path: one that is pending, or one that an event of this cc has ended. -/
def Path.waiting (p : Path) (cc : Nat) : Option (WaitOn × Words) := match p.cond with
  | .wait on w => some (on, w)
  | .ended on w _ => if p.start = cc + 1 then some (on, w) else none
  | _ => none
/-- Put something into a list before the first that it goes before. -/
def insertBy {α : Type} (before : α → α → Bool) (a : α) : List α → List α
  | [] => [a]
  | x :: xs => if before a x then a :: x :: xs else x :: insertBy before a xs
/-- A fresh number for a flight, a request or a work item. -/
def State.fresh (s : State) : Nat × State := (s.uid, { s with uid := s.uid + 1 })
/-- A latency of at least one cc: the next free value (R57, DESIGN CHOICE, log 15). -/
def State.delay (s : State) : Nat × State := (1 + Config.latency s.free, { s with free := s.free + 1 })
/-- n bytes the manual leaves undefined (DESIGN CHOICE, log 2). -/
def State.freeBytes (s : State) (n : Nat) : List Byte × State :=
  ((List.range n).map fun i => Config.freeByte (s.free + i), { s with free := s.free + n })

/-- One of several things the manual leaves to the device (DESIGN CHOICE, log 2). -/
def State.pick (s : State) (xs : List Nat) : Nat × State :=
  (xs.getD (Config.choose s.free % xs.length) 0, { s with free := s.free + 1 })

/-- The path that issues, with what it belongs to. -/
structure Cur where
  ref : PRef
  b : Block
  k : Kernel
  c : Ctx
  g : Group
  p : Path
  w : Words
  deriving DecidableEq, Repr

/-- The issuing path of a state. -/
def State.cursor (s : State) : Option Cur :=
  match s.cur with
  | none => none
  | some i =>
    match s.block? i.ref.blk with
    | none => none
    | some b => match b.groups[i.ref.grp]?, s.kernel? b.kobj, s.ctx? b.ctx with
      | some g, some k, some c => match g.path? i.ref.slot with
        | some p => some { ref := i.ref, b := b, k := k, c := c, g := g, p := p, w := i.words }
        | none => none
      | _, _, _ => none

/-- The header of the clause that issues. -/
def Cur.hdr (c : Cur) : Header := Header.ofWord c.w.hdr
/-- Address of the next clause's header (R33). -/
def Cur.nextClause (c : Cur) : Nat := c.p.clause + c.hdr.bytes
/-- Address of the issuing word. -/
def Cur.wordAddr (c : Cur) : Nat := c.p.clause + c.hdr.offset c.p.index
/-- The resume point after instruction i (R35). -/
def Cur.after (c : Cur) : Nat × Nat :=
  if c.p.index + 1 < c.hdr.count then (c.p.clause, c.p.index + 1) else (c.nextClause, 15)

/-! ## Translation -/

/-- log2 of a page size (Table PAG-1). -/
def pageLog : Nat → Nat
  | 0 => 12 | 1 => 14 | 2 => 16 | 3 => 18 | 4 => 20 | 5 => 21 | 6 => 22 | 7 => 24 | 8 => 26 | 9 => 28 | 10 => 30 | _ => 34
/-- The level a leaf stands at (Table PAG-1). -/
def pageLevel (size : Nat) : Nat := if size < 5 then 0 else if size < 10 then 1 else 2
/-- Entries a page covers (Table PAG-1). -/
def pageEntries (size : Nat) : Nat := 2 ^ (pageLog size - 12 - 9 * pageLevel size)

def leafSize (e : Nat) : Nat := e / 4 % 16
def leafFrame (e : Nat) : Nat := e / 4096 % 2 ^ 40 * 4096
def leafKey (e : Nat) : Nat := e / 2 ^ 52 % 1024
/-- A leaf's reserved bits are 0, its SIZE is listed (Table PAG-2). -/
def leafFieldsOk (e : Nat) : Bool := e / 1024 % 4 == 0 && e / 2 ^ 62 == 0 && leafSize e ≤ 11

/-- What a walk finds: a leaf, or a PAGE_FAULT subcode (R328). -/
inductive Walk
  | leaf (e : Nat)
  | miss
  | entry
  deriving DecidableEq, Repr

/-- Walk from the table of a level down (R326 to R328). -/
def State.walk (s : State) (va : Nat) : Nat → Nat → Walk
  | 0, _ => .entry
  | n + 1, table =>
    let e := s.phys (table + 8 * (va / 2 ^ (12 + 9 * n) % 512)) 8
    if e % 2 = 0 then .miss
    else if e / 2 % 2 = 1 then
      if leafFieldsOk e && pageLevel (leafSize e) == n && leafFrame e % 2 ^ pageLog (leafSize e) == 0
      then .leaf e else .entry
    else if e - leafFrame e = 1 then s.walk va n (leafFrame e) else .entry

/-- Whether a TLB entry serves an address for a core (R329). -/
def TlbEnt.hit (t : TlbEnt) (ctx die : Nat) (core : Option Nat) (va : Nat) : Bool :=
  t.ctx == ctx && t.die == die && t.core == core && va / 2 ^ t.logSize == t.va / 2 ^ t.logSize

/-- The smallest entry of a TLB that matches (R330). -/
def State.tlbFind (s : State) (ctx die : Nat) (core : Option Nat) (va : Nat) : Option TlbEnt :=
  (s.tlb.filter (·.hit ctx die core va)).foldl (fun best t => match best with
    | none => some t
    | some b => if t.logSize < b.logSize then some t else some b) none

/-- Put an entry into a TLB: larger entries that match are dropped (R330), then the oldest beyond the TLB's size (R329,
DESIGN CHOICE, log 18). -/
def State.tlbPut (s : State) (ctx die : Nat) (core : Option Nat) (va logSize : Nat) (leaf : W64) : State :=
  let old := s.tlb.filter fun t => !(t.hit ctx die core va)
  let same := (old.filter fun t => t.die == die && t.core == core).length
  let cap := if core.isSome then 128 else 16384
  let old := if same < cap then old else
    match old.findIdx? (fun t => t.die == die && t.core == core) with
    | some i => old.eraseIdx i
    | none => old
  { s with tlb := old ++ [{ ctx := ctx, die := die, core := core, va := va, logSize := logSize, leaf := leaf }] }

/-- A lookup has used an entry: larger entries of that TLB that match are dropped (R330). -/
def State.tlbUsed (s : State) (t : TlbEnt) (va : Nat) : State :=
  { s with tlb := s.tlb.filter fun x => !(x.hit t.ctx t.die t.core va) || x.logSize ≤ t.logSize }
/-- The leaf for an address: the core's TLB, the die's, or a walk whose leaf both then hold (R329). -/
def State.leafOf (s : State) (c : Ctx) (die core va : Nat) : Walk × State :=
  match s.tlbFind c.num die (some core) va with
  | some t => (.leaf t.leaf.toNat, s.tlbUsed t va)
  | none => match s.tlbFind c.num die none va with
    | some t => (.leaf t.leaf.toNat, (s.tlbUsed t va).tlbPut c.num die (some core) va t.logSize t.leaf)
    | none => match s.walk va 5 c.ptroot with
      | .leaf e =>
        let lg := pageLog (leafSize e)
        (.leaf e, (s.tlbPut c.num die none va lg (BitVec.ofNat 64 e)).tlbPut c.num die (some core) va lg (BitVec.ofNat 64 e))
      | w => (w, s)

/-- The kind of an access. -/
inductive Acs | read | write | both | fetch
  deriving DecidableEq, Repr

/-- The supervisor range (R333). -/
def supBase : Nat := 0x01FFFFFFC0000000
/-- What a page allows (Table PAG-2). -/
def permOk (e : Nat) : Acs → Bool
  | .read => e / 64 % 2 == 1
  | .write => e / 128 % 2 == 1
  | .both => e / 64 % 2 == 1 && e / 128 % 2 == 1
  | .fetch => e / 256 % 2 == 1

/-- The key a translation names: none for plaintext; a slot that is not loaded for the context has none (R340). -/
def State.keyFor (s : State) (ctx e : Nat) : Option (Option (BitVec 256)) :=
  if leafKey e = 0 then some none
  else match s.keySlots.find? (fun k => k.1 == leafKey e && k.2.1 == ctx) with
    | some k => some (some k.2.2)
    | none => none

/-- An address that an access fails at: its place in the order of R157, cause and subcode, and the address. -/
structure Miss where
  rank : Nat
  cause : Nat
  sub : Nat
  va : Nat := 0
  deriving DecidableEq, Repr

/-- A stretch of physical bytes of an access. -/
structure Piece where
  pa : Nat
  len : Nat
  key : Option (BitVec 256)
  deriving DecidableEq, Repr

/-- Translate one address of a context (checks 1 and 3 to 7 of R157). `sup` lets a fetch reach the supervisor range. -/
def State.xlate (s : State) (c : Ctx) (die core va : Nat) (a : Acs) (scope : Nat) (sup : Bool) :
    (Miss ⊕ (Nat × Option (BitVec 256))) × State :=
  if 2 ^ 57 ≤ va then (.inl ⟨1, 0x09, 1, 0⟩, s)
  else if supBase ≤ va ∧ !(a == .fetch && sup) then (.inl ⟨4, 0x09, 2, 0⟩, s)
  else match s.leafOf c die core va with
    | (.miss, s) => (.inl ⟨3, 0x08, if a = .fetch then 3 else 1, 0⟩, s)
    | (.entry, s) => (.inl ⟨3, 0x08, 2, 0⟩, s)
    | (.leaf e, s) =>
      if !permOk e a then (.inl ⟨4, 0x09, 2, 0⟩, s)
      else match s.keyFor c.num e with
        | none => (.inl ⟨5, 0x09, 4, 0⟩, s)
        | some key =>
          let pa := leafFrame e + va % 2 ^ pageLog (leafSize e)
          match s.region pa with
          | none => (.inl ⟨6, 0x09, 1, 0⟩, s)
          | some r =>
            if r = .aperture ∧ scope < 9 then (.inl ⟨7, 0x09, 5, 0⟩, s)
            else (.inr (pa, if r.crypts then key else none), s)

/-- Cut n bytes at 64-byte boundaries. -/
def cut : Nat → Nat → Nat → List (Nat × Nat)
  | 0, _, _ => []
  | fuel + 1, va, n =>
    if n = 0 then [] else
    let k := min n (64 - va % 64)
    (va, k) :: cut fuel (va + k) (n - k)

/-- Of two pieces' failures, the one whose cause comes first in the order of R157, the lower address on a tie. -/
def Miss.first (m n : Miss) : Miss := if n.rank < m.rank then n else m
/-- Translate every piece of an access: where they lie, or the first cause in the order of R157 that one of them meets. -/
def State.xlateAll (s : State) (c : Ctx) (die core : Nat) (a : Acs) (scope : Nat) :
    List (Nat × Nat) → (Miss ⊕ List Piece) × State
  | [] => (.inr [], s)
  | (va, k) :: rest =>
    let (x, s) := s.xlate c die core va a scope false
    let (y, s) := State.xlateAll s c die core a scope rest
    (match x, y with
      | .inl m, .inl n => .inl (Miss.first { m with va := va } n)
      | .inl m, .inr _ => .inl { m with va := va }
      | .inr _, .inl n => .inl n
      | .inr (pa, key), .inr ps => .inr ({ pa := pa, len := k, key := key } :: ps), s)

/-- The n bytes at a virtual address: where they lie, or what fails (R157). -/
def State.reach (s : State) (c : Ctx) (die core va n : Nat) (a : Acs) (scope : Nat := 7) :
    (Miss ⊕ List Piece) × State :=
  s.xlateAll c die core a scope (cut (n / 64 + 2) va n)

/-- Whether a piece lies in the domain aperture. -/
def State.inAperture (s : State) (p : Piece) : Bool := s.region p.pa == some .aperture
/-- Ports that carry traffic (R375). -/
def State.activePort (s : State) : Bool := s.ports.any fun p => p.st == .up || p.st == .degraded
/-- Whether no port has carried traffic for 10 ms (R375). -/
def State.linkFailed (s : State) : Bool := !s.activePort && s.linkDown.any fun t => decide (t + 10000000 ≤ s.ct)

/-- Read pieces: the bytes, and whether some of them are poisoned (R160) or lie behind a port that is down, which firmware logs
(R372). What another package holds is a free value, until its answer gives it (DESIGN CHOICE, log 21). -/
def State.readPieces (s : State) : List Piece → (List Byte × Bool) × State
  | [] => (([], false), s)
  | p :: ps =>
    let (bs, s) := if s.inAperture p then s.freeBytes p.len else (s.readPhys p.key p.pa p.len, s)
    let bad := if s.inAperture p then s.linkFailed else s.poisoned p.pa p.len || s.cxlIsDown p.pa
    let s := if s.cxlIsDown p.pa then s.logEvent 6 0xFFFF 0 0 p.pa 0 else s
    let ((rest, bad'), s) := State.readPieces s ps
    ((bs ++ rest, bad || bad'), s)

/-- Write bytes over pieces. Bytes of the domain aperture leave the package (R379). -/
def State.writePieces (s : State) : List Piece → List Byte → State
  | [], _ => s
  | p :: ps, bs =>
    let s := if s.inAperture p then s else s.writePhys p.key p.pa (bs.take p.len)
    State.writePieces s ps (bs.drop p.len)

/-! ## Flits to other packages (R374 to R376, R379) -/

/-- An active port, chosen by the device: each as often as it has lanes (R375). -/
def State.pickPort (s : State) : Option Nat × State :=
  let act := (List.range s.ports.length).flatMap fun i => match s.ports[i]? with
    | some p => if p.st == .up || p.st == .degraded then List.replicate (max 1 p.lanes) i else []
    | none => []
  if act.isEmpty then (none, s) else let (i, s) := s.pick act; (some i, s)
/-- Queue a flit on a port; it returns the receive buffers that are free again (R374). -/
def State.sendOn (s : State) (port : Nat) (f : Flit) : State :=
  match s.ports[port]? with
  | some p =>
    let f := { f with seq := p.txSeq, ack := if f.nak then f.ack else (p.rxSeq + 4095) % 4096, cred := min 255 p.freed }
    let p := { p with txSeq := (p.txSeq + 1) % 4096, out := p.out ++ [f], freed := p.freed - min 255 p.freed,
                      replay := (p.replay ++ [f]).drop (p.replay.length - 511) }
    { s with ports := s.ports.set port p }
  | none => s
/-- Send a flit on a port, or let it wait for one (R375). -/
def State.sendVia (s : State) (port : Option Nat) (f : Flit) : State := match port with
  | some i => s.sendOn i f
  | none => { s with unsent := s.unsent ++ [f] }
/-- Send a flit on an active port; without one it waits (R375). -/
def State.send (s : State) (f : Flit) : State := let (i, s) := s.pickPort; s.sendVia i f
/-- A flit of this package. -/
def State.flit (s : State) (kind dest tag : Nat) (bs : List Byte) : Flit :=
  { seq := 0, ack := 0, nak := false, kind := kind, cred := 0, dest := dest, src := s.pkgNo, tag := tag, payload := bs,
    ok := true }
/-- An operation of Table MEM-2 as a request names it. -/
def amCode : AmOp → Nat
  | .add => 0 | .min _ => 1 | .max _ => 2 | .and => 3 | .or => 4 | .xor => 5 | .xch => 6 | .cas => 7 | .fadd _ => 8 | .inc => 9
/-- What a request asks for: 0 a read, 1 a write, from 2 on an atomic; its length, its data and its data's poison (DESIGN CHOICE,
log 21). -/
structure Asking where
  code : Nat := 0
  data : List Byte := []
  bad : List Bool := []
  deriving DecidableEq, Repr
/-- A mask of the positions that hold. -/
def boolMask (bs : List Bool) : Nat := (bs.mapIdx fun i b => if b then 2 ^ i else 0).sum
/-- The payload of a request: export and offset, what it asks for, its length, the poison of its data, its data (DESIGN CHOICE,
log 21). -/
def reqBytes (exp off len : Nat) (a : Asking) : List Byte :=
  leBytes 8 (exp + 2 ^ 16 * off) ++ leBytes 1 a.code ++ leBytes 1 len ++ leBytes 8 (boolMask a.bad) ++ a.data
/-- Request an access of a piece of the domain aperture from the package that holds it: the request's tag. -/
def State.requestVia (s : State) (port : Option Nat) (p : Piece) (q : Asking) : Nat × State :=
  let a := apertureOf p.pa
  let tag := s.uid % 65536
  (tag, ({ s with uid := s.uid + 1 }).sendVia port (s.flit 3 a.1 tag (reqBytes a.2.1 a.2.2 p.len q)))
/-- The same, on a port that the device chooses. -/
def State.request (s : State) (p : Piece) (q : Asking) : Nat × State := let (i, s) := s.pickPort; s.requestVia i p q
/-- The bytes that pieces are written with, piece by piece. -/
def withData {α : Type} : List Piece → List α → List (Piece × List α)
  | [], _ => []
  | p :: ps, bs => (p, bs.take p.len) :: withData ps (bs.drop p.len)
/-- The requests of an engine's writes, with their poison, leave for other packages (R227, R379). -/
def State.askWrites (s : State) (xs : List (Piece × List (Byte × Bool))) : State :=
  if s.linkFailed then s else (xs.filter fun x => s.inAperture x.1).foldl (fun s x =>
    (s.request x.1 { code := 1, data := x.2.map (·.1), bad := x.2.map (·.2) }).2) s
/-- The requests of an engine's reads: the tag of each, and what it reads (R379). -/
def State.askReads (s : State) : List (Nat × Nat) → List (Nat × Nat × Nat) × State
  | [] => ([], s)
  | x :: xs =>
    let (tag, s) := s.request { pa := x.1, len := x.2, key := none } {}
    let (ts, s) := State.askReads s xs
    ((tag, x) :: ts, s)
/-- Read a piece of the domain aperture for an engine: what has been answered; else it is asked for, but where the link has failed
(R375, R379). The bytes of a piece that is asked for come to nothing: the engine reads again when they are there. -/
def State.apRead (s : State) (p : Piece) : (List Byte × Bool) × State :=
  match s.ap.known.find? fun k => decide (k.1 ≤ p.pa) && decide (p.pa + p.len ≤ k.1 + k.2.1.length) with
  | some k => (((k.2.1.drop (p.pa - k.1)).take p.len, k.2.2), s)
  | none =>
    let (bs, s) := s.freeBytes p.len
    if s.ap.lost || s.linkFailed then ((bs, true), s)
    else ((bs, false), { s with ap := { s.ap with wanted := if s.ap.wanted.contains (p.pa, p.len) then s.ap.wanted
                                                           else s.ap.wanted ++ [(p.pa, p.len)] } })
/-- When an operation completes that waits for the answers of some requests: not before the last. -/
def dueAfter {α : Type} (cc : Nat) (tags : List α) : Option Nat := if tags.isEmpty then some (cc + 1) else none

/-- Read n bytes of a context for the device itself; none where an access check fails. -/
def State.vread (s : State) (c : Ctx) (die core va n : Nat) : Option (List Byte) × State :=
  match s.reach c die core va n .read with
  | (.inr ps, s) => let ((bs, _), s) := s.readPieces ps; (some bs, s)
  | (.inl _, s) => (none, s)
/-- Write bytes of a context for the device itself; nothing is written where an access check fails. -/
def State.vwrite (s : State) (c : Ctx) (die core va : Nat) (bs : List Byte) : Option State × State :=
  match s.reach c die core va bs.length .write with
  | (.inr ps, s) => (some (s.writePieces ps bs), s)
  | (.inl _, s) => (none, s)
/-- A word that the device reads; 0 where it cannot. -/
def State.vword (s : State) (c : Ctx) (die core va n : Nat) : Nat := match (s.vread c die core va n).1 with
  | some bs => leVal bs
  | none => 0
/-- A word that the device writes, where it can. -/
def State.vset (s : State) (c : Ctx) (die core va n v : Nat) : State :=
  match s.vwrite c die core va (leBytes n v) with
  | (some s, _) => s
  | (none, s) => s

/-! ## Registers -/

/-- A register operand as an instruction names it: group or vector, first register, how many, pattern, parameter, last use,
and the STALE_READ subcode of its field (R114). -/
structure Src where
  grp : Bool
  num : Nat
  n : Nat := 1
  x : Nat := 0
  par : Nat := 0
  l : Bool := false
  field : Nat := 4
  map : List Nat := []       -- source lanes that another operand names (R144); empty: by the pattern
  deriving DecidableEq, Repr

/-- The source lane of lane i (Table REG-4). -/
def srcLane (x par i : Nat) : Nat :=
  if x = 0 then i
  else if x = 1 then par % 32
  else if x = 2 then (i + 32 - par % 32) % 32
  else if par < 32 then i ^^^ par
  else let z := 2 ^ (par % 8); i - i % z + z - 1 - i % z

/-- The source lane that an operand gives lane i. -/
def Src.lane (o : Src) (i : Nat) : Nat := match o.map with
  | [] => srcLane o.x o.par i
  | m => m.getD i 0

/-- A vector operand from its field and parameter. -/
def vsrc (x : BitVec 9) (par : BitVec 6) (n field : Nat) : Src :=
  { grp := false, num := opReg x, n := n, x := opX x, par := par.toNat, l := opL x, field := field }
/-- A group operand from its field. -/
def gsrc (x : BitVec 9) (n field : Nat) : Src :=
  { grp := true, num := opReg x, n := n, l := opL x, field := field }
/-- An operand that is a group register under U = 1. -/
def usrc (u : Bool) (x : BitVec 9) (par : BitVec 6) (n field : Nat) : Src :=
  if u then gsrc x 1 field else vsrc x par n field
/-- A group register named by a 6-bit field. -/
def gfld (d : BitVec 6) : Src := { grp := true, num := d.toNat }

/-- The value of a lane of a vector register; none where unmapped or dead (R114). -/
def Group.lane? (g : Group) (n l : Nat) : Option Nat :=
  match (g.v[n]?).join with
  | some r => if r.dead.getLsbD l then none else some (r.val.getD l 0).toNat
  | none => none
/-- A group register's value; g0 reads 0 (R108); none where unmapped. -/
def Group.gval? (g : Group) (n : Nat) : Option Nat :=
  if n = 0 then some 0 else ((g.g[n]?).join).map (·.toNat)
/-- A group register, 0 where unmapped (R114). -/
def Group.gval (g : Group) (n : Nat) : Nat := (g.gval? n).getD 0

/-- The registers of an operand. -/
def Src.regs (o : Src) : List Nat := (List.range o.n).map (o.num + ·)
/-- `ReadV` of a lane through the crossbar, or `ReadG`; members of a pair and more, low first (R120, R133). -/
def Group.read (g : Group) (o : Src) (i : Nat) : Nat :=
  if o.grp then g.gval o.num
  else o.regs.foldr (fun r acc => ((g.lane? r (o.lane i)).getD 0) + 2 ^ 32 * acc) 0
/-- The lanes of E whose source is absent (R114). -/
def Group.absent (g : Group) (o : Src) (e : Mask) : Mask :=
  if o.grp then (if o.regs.any (fun r => (g.gval? r).isNone) then e else 0)
  else maskOf fun i => e.getLsbD i && o.regs.any fun r => (g.lane? r (o.lane i)).isNone

/-- Mark lanes of a vector register dead; a register without a live lane is unmapped (R113). -/
def VReg.kill (r : VReg) (m : Mask) : Option VReg :=
  if r.dead ||| m = allLanes then none else some { r with dead := r.dead ||| m }
/-- Lanes of a vector register that a completion of the other path wrote in this cc: a kill in the same cc takes effect
before it (R113). -/
def Group.sparedV (g : Group) (slot n : Nat) : Mask :=
  g.landed.foldl (fun m x => match x with
    | (k, .v j e _) => if k != slot && j == n then m ||| e else m
    | _ => m) 0
def Group.sparedG (g : Group) (slot n : Nat) : Bool :=
  g.landed.any fun x => match x with
    | (k, .g j _) => k != slot && j == n
    | _ => false

/-- `Kill` of one operand (R113). -/
def Group.kill (g : Group) (slot : Nat) (e : Mask) (o : Src) : Group :=
  if !o.l then g
  else if o.grp then
    { g with g := o.regs.foldl (fun rs n => if g.sparedG slot n then rs else rs.set n none) g.g }
  else
    let m := maskOf fun j => (lanesOf e).any fun i => o.lane i == j
    { g with v := o.regs.foldl (fun rs n => match (rs[n]?).join with
        | some r => rs.set n (r.kill (m &&& ~~~(g.sparedV slot n)))
        | none => rs) g.v }
/-- `Kill` of every operand, after all reads (R113). -/
def Group.killAll (g : Group) (slot : Nat) (e : Mask) (os : List Src) : Group := os.foldl (fun g o => g.kill slot e o) g

def Wr.isV : Wr → Bool | .v _ _ _ => true | _ => false
def Wr.isG : Wr → Bool | .g _ _ => true | _ => false
/-- Physical vector registers held: mapped, and those of writes not yet visible (R116). -/
def Group.heldV (g : Group) : Nat :=
  (g.v.filter (·.isSome)).length + (g.flights.map fun f => (f.writes.filter Wr.isV).length).sum
def Group.heldG (g : Group) : Nat :=
  (g.g.filter (·.isSome)).length + (g.flights.map fun f => (f.writes.filter Wr.isG).length).sum

/-- Make one register write visible: the merge of R112, discarded for g0, p7 and q7 (R108, R109). -/
def Group.complete (g : Group) : Wr → Group
  | .v n e x =>
    let old := (g.v[n]?).join
    let val := (List.range 32).map fun l =>
      if e.getLsbD l then x.getD l 0 else match old with | some r => r.val.getD l 0 | none => 0
    let dead := maskOf fun l =>
      !e.getLsbD l && (match old with | some r => r.dead.getLsbD l | none => true)
    { g with v := g.v.set n (if dead = allLanes then none else some { val := val, dead := dead }) }
  | .g n x => if n = 0 then g else { g with g := g.g.set n (some x) }
  | .p n e x => { g with p := g.p.set n (((g.p.getD n 0) &&& ~~~e) ||| (x &&& e)) }
  | .q n x => { g with q := g.q.set n x }

/-- `Predicate` of a lane predicate number: p7 is all ones (R108). -/
def Group.pmask (g : Group) (n : Nat) : Mask := if n = 7 then allLanes else g.p.getD n 0
def Group.qbit (g : Group) (n : Nat) : Bool := if n = 7 then true else g.q.getD n false

/-- `ExecMask` under a lane guard (R111). -/
def Cur.maskP (c : Cur) (gp : BitVec 3) (gi : Bool) : Mask :=
  if gp = 7 then c.p.mask else
  c.p.mask &&& (if gi then ~~~(c.g.pmask gp.toNat) else c.g.pmask gp.toNat)
/-- Whether a group guard holds. -/
def Cur.condQ (c : Cur) (gp : BitVec 3) (gi : Bool) : Bool := gp == 7 || (c.g.qbit gp.toNat != gi)
/-- `ExecMask` under a group guard (R111). -/
def Cur.maskQ (c : Cur) (gp : BitVec 3) (gi : Bool) : Mask := if c.condQ gp gi then c.p.mask else 0
/-- `ExecMask` by U (R111). -/
def Cur.mask (c : Cur) (u : Bool) (gp : BitVec 3) (gi : Bool) : Mask :=
  if u then c.maskQ gp gi else c.maskP gp gi

/-! ## Classes (R232, R240) -/

/-- The largest class of some references; 0 if there is none. -/
def refMax (rs : List Ref) : Nat := rs.foldl (fun m r => max m r.cls) 0
/-- Whether a reference is held on work of a context that lies in the levels of some records and counts in a join record (R238,
R246, R361). -/
def Ref.covers (r : Ref) (ctx : Nat) (lvl : List Nat) (jrec : Nat) : Bool :=
  (r.join == some (ctx, jrec) && jrec != 0) ||
    match r.launch with | some x => x.1 == ctx && x.2 != 0 && lvl.contains x.2 | none => false
/-- The class of the references held on a block. -/
def State.refClass (s : State) (b : Block) : Nat :=
  refMax (s.refs.filter fun r => r.block == some b.id || r.covers b.ctx b.lvl b.jrec)
/-- The current class of a block. A promotion to res counts as evt until the target is resident under the res rules. -/
def State.curClass (s : State) (b : Block) : Nat :=
  let own := max b.clsL b.implied
  let r := max own (s.refClass b)
  if r = 2 ∧ own < 2 ∧ !b.resRes then 1 else r

/-- Whether a block is res now and a res reference holds it there (R106, R232). -/
def State.keepsRes (s : State) (b : Block) : Bool := s.curClass b == 2 && s.refClass b == 2
/-- A group's reservation in the vector and group pools (R116). -/
def State.reserve (s : State) (b : Block) (k : Kernel) : Nat × Nat :=
  if s.curClass b = 2 then (k.vmax, k.gmax) else (k.vfloor, k.gfloor)
/-- Whether a group is resident (R82). -/
def Group.isResident (g : Group) : Bool := g.st == .resident
/-- What the resident groups of a core, but one, take of a pool: the larger of held and reserved of each. -/
def State.poolUse (s : State) (die core : Nat) (but : Nat × Nat) (vec : Bool) : Nat :=
  (s.blocks.map fun b =>
    if b.die != die || b.core != core || b.st == .saved then 0 else
    match s.kernel? b.kobj with
    | none => 0
    | some k =>
      let r := s.reserve b k
      (b.groups.map fun g =>
        if !g.isResident || (b.id, g.index) == but then 0
        else if vec then max g.heldV r.1 else max g.heldG r.2).sum).sum

/-- The answer to an allocation: it succeeds, the path stalls, or a res group exceeds its max-live (R112, R116, R117). -/
inductive Alloc | ok | stall | maxLive
  deriving DecidableEq, Repr

/-- Ask for nv vector and ng group registers for a group that holds the given counts (R116, R117). -/
def State.allocFor (s : State) (b : Block) (k : Kernel) (gi heldV heldG nv ng : Nat) : Alloc :=
  let r := s.reserve b k
  if nv = 0 ∧ ng = 0 then .ok
  else if s.curClass b = 2 then
    (if (nv = 0 ∨ heldV + nv ≤ r.1) ∧ (ng = 0 ∨ heldG + ng ≤ r.2) then .ok else .maxLive)
  else
    let fits (vec : Bool) (held n res : Nat) : Bool :=
      n == 0 || held + n ≤ res || s.poolUse b.die b.core (b.id, gi) vec + (held + n) ≤ 4096
    if fits true heldV nv r.1 && fits false heldG ng r.2 then .ok else .stall

/-! ## Paths, tokens and exits -/

/-- Stack entries that the running code may pop: those above SDEPTH in a handler (R305). -/
def Group.floor (g : Group) : Nat := match g.traps with | t :: _ => t.sdepth | [] => 0
/-- Tokens that the running code may merge: in a handler, those that were closed at entry. -/
def Group.mayMerge (g : Group) (k : Nat) : Bool := match g.traps with
  | t :: _ => !(t.tokOpen.testBit k)
  | [] => true

/-- Let a token whose lanes have all arrived close or hold its merged path (R92). -/
def Tok.settle (t : Tok) : Tok :=
  if t.isOpen ∧ t.mask &&& ~~~t.arrived = 0 then (if t.parked = 0 then {} else { t with held := true }) else t

/-- Fill a free slot: with the merged path of the lowest token that holds one, else from the stack (R90, R92). A merged path
parks where a `join` that made it had S = 1 (R86; DEDUCED, log 56). -/
def Group.fill (g : Group) (slot : Nat) : Group :=
  if (g.path? slot).isSome then g
  else match (List.range 16).find? (fun k => (g.toks.getD k {}).held && g.mayMerge k) with
    | some k =>
      let t := g.toks.getD k {}
      ({ g with toks := g.toks.set k {} }).setPath slot
        (some { clause := t.resumeClause, index := t.resumeIndex, mask := t.parked, board := t.board,
                cond := if t.sbit && !t.board.isEmpty then .park [] else .ready })
    | none =>
      if g.floor < g.stack.length then match g.stack.getLast? with
        | some e => ({ g with stack := g.stack.dropLast }).setPath slot
            (some { clause := e.clause, index := e.index, mask := e.mask, board := e.board })
        | none => g
      else g

/-- Merge tokens and fill the slots (R90, R92). -/
def Group.settle (g : Group) : Group :=
  let g := { g with toks := g.toks.map Tok.settle }
  (g.fill 0).fill 1

/-- Take lanes out of a path; a path without lanes is gone (R104). -/
def Path.without (p : Path) (m : Mask) : Option Path :=
  if p.mask &&& ~~~m = 0 then none else some { p with mask := p.mask &&& ~~~m }

/-- Lanes leave the group: dead in every vector register, arrived at every open token, in no path (R104). The group is
EXITED when no lane remains, and its registers are released. -/
def Group.exitLanes (g : Group) (m : Mask) : Group :=
  let ex := g.exited ||| m
  let g := { g with
    exited := ex
    v := g.v.map fun (r : Option VReg) => r.bind (VReg.kill · m)
    toks := g.toks.map fun (t : Tok) => if t.isOpen then { t with arrived := t.arrived ||| (t.mask &&& m) } else t
    slot0 := g.slot0.bind (Path.without · m)
    slot1 := g.slot1.bind (Path.without · m) }
  let g := g.settle
  if ex = allLanes then
    { g with st := .exited, v := List.replicate 64 none, g := List.replicate 64 none, slot0 := none, slot1 := none,
             stack := [], toks := List.replicate 16 {}, traps := [], slotNo := none }
  else g

/-- Blocks that no res reference holds any more lose their residency under the res rules (R242). -/
def State.settleRefs (s : State) : State :=
  { s with blocks := s.blocks.map fun b => if b.resRes && s.refClass b < 2 then { b with resRes := false } else b }
/-- Release the references of a path, or of every path of a group (R242). -/
def State.dropRefs (s : State) (bid gid : Nat) (slot : Option Nat) : State :=
  if s.refs.isEmpty then s else
  State.settleRefs { s with refs := s.refs.filter fun r => match r.waiter with
    | some w => !(w.blk == bid && w.grp == gid && (match slot with | some x => w.slot == x | none => true))
    | none => true }

/-- A BINDING value (Table GRP-7). -/
def bindingOf (tag : Nat) : Nat := 4 * tag + 1

/-- A group that ends resets the binding slots it was resolving (R101). -/
def State.unbind (s : State) (c : Ctx) (die core : Nat) (k : Kernel) (tag : Nat) : Nat → State
  | 0 => s
  | n + 1 =>
    let a := k.bindBase + 8 * n
    let s := if s.vword c die core a 8 = bindingOf tag then s.vset c die core a 8 0 else s
    State.unbind s c die core k tag n

/-- The end of a group: its references go, and its binding slots (R101, R238). -/
def State.groupEnded (s : State) (bid gid : Nat) : State :=
  let s := s.dropRefs bid gid none
  match s.block? bid with
  | some b => match s.kernel? b.kobj, s.ctx? b.ctx, b.groups[gid]? with
    | some k, some c, some g => s.unbind c b.die b.core k g.tag k.nbind
    | _, _, _ => s
  | none => s

/-- Lanes of a group exit (R104). -/
def State.exitLanes (s : State) (bid gid : Nat) (m : Mask) : State :=
  let s := s.updGroup bid gid (·.exitLanes m)
  match s.group? bid gid with
  | some g => if g.st = .exited then s.groupEnded bid gid else s
  | none => s

/-- The Kill action (R307) and the end of DOUBLE_TRAP (R306): the group ends, its block is marked failed. -/
def State.killGroup (s : State) (bid gid cause sub : Nat) : State :=
  let s := s.updBlock bid fun b => if b.failed.isNone then { b with failed := some (cause, sub) } else b
  s.exitLanes bid gid allLanes

/-- The code of a context state (Table CTX-3). -/
def CState.code : CState → Nat
  | .free => 0 | .creating => 1 | .ready => 2 | .running => 3 | .switching => 4 | .suspended => 5 | .faulted => 6
  | .destroying => 7
/-- The physical address of a bus address that the device reaches through the host port. -/
def busAddr (a : Nat) : Nat := 2 ^ 50 + a
/-- Write the fields marked "device" of a context's record into the staging copy (R341). -/
def State.stageCtx (s : State) (ctx : Nat) : State :=
  match s.ctx? ctx with
  | none => s
  | some c =>
    let s := s.writePhys none (busAddr c.staging + 0x340) (leBytes 8 c.napMiss ++ leBytes 8 c.cpMiss ++ leBytes 4 c.st.code)
    (List.range 16).foldl (fun s k => match c.rqs[k]? with
      | some q => s.writePhys none (busAddr c.staging + 0x4A + 32 * k) (leBytes 2 q.errCnt)
      | none => s) s
/-- A context changes its state. -/
def State.setCtxState (s : State) (ctx : Nat) (st : CState) : State :=
  (s.updCtx ctx fun c => { c with st := st }).stageCtx ctx
/-- A fault of the save area: the context is FAULTED (R342). -/
def State.faultCtx (s : State) (ctx : Nat) : State := s.setCtxState ctx .faulted
/-- A counter that saturates at 64 bits. -/
def sat64 (n : Nat) : Nat := min (n + 1) (2 ^ 64 - 1)

/-! ## Taking an exception (R303 to R307) -/

/-- Address of a block record (R345). -/
def Ctx.record (c : Ctx) (rec : Nat) : Nat := c.savebase + 0x90000 * rec
/-- Address of a group's save slot (Table CTX-4). -/
def slotAddr (c : Ctx) (b : Block) (gi : Nat) : Nat := c.record b.recNo + 0x23000 + 0x3400 * gi
/-- Address of its trap bank (Table CTX-4). -/
def bankAddr (c : Ctx) (b : Block) (gi : Nat) : Nat := c.record b.recNo + 0x25C00 + 0x3400 * gi
/-- RINGBASE (R262). -/
def ringBase (c : Ctx) (b : Block) : Nat := c.record b.recNo + 0x1000

/-- A program counter as records hold it: clause and index (Table GRP-3). -/
def pcWord (clause index : Nat) : Nat := clause % 2 ^ 57 + index * 2 ^ 57
/-- A path slot or stack entry (Table GRP-3). -/
def pathBytes (clause index : Nat) (m : Mask) : List Byte :=
  leBytes 8 (pcWord clause index) ++ leBytes 4 m.toNat ++ leBytes 4 0
def pathBytes? : Option Path → List Byte
  | some p => pathBytes p.clause p.index p.mask
  | none => leBytes 16 0

/-- Registers 56 to 63 that are mapped, as a mask. -/
def bankMap (mapped : Nat → Bool) : Nat := ((List.range 8).map fun i => if mapped (56 + i) then 2 ^ i else 0).sum
/-- Open tokens as a mask. -/
def tokMap (g : Group) : Nat := ((List.range 16).map fun i => if (g.toks.getD i {}).isOpen then 2 ^ i else 0).sum

/-- The frame of Table TRP-3. -/
def frameBytes (g : Group) (p : Path) (slot : Nat) (f : Fault2) (w : Words) (clause index ct bank : Nat) (nest : Bool) :
    List Byte :=
  let other := if slot = 0 then g.slot1 else g.slot0
  let me := pathBytes clause index p.mask
  let fm := if f.lane then f.fmask else p.mask
  leBytes 1 f.cause ++ leBytes 1 f.sub ++
    leBytes 1 ((if f.lane then 1 else 0) + (if f.exta then 2 else 0) + (if nest then 4 else 0)) ++
    leBytes 1 g.stack.length ++ leBytes 4 fm.toNat ++ leBytes 4 p.mask.toNat ++ leBytes 4 w.hdr.toNat ++
    leBytes 4 w.iw0.toNat ++ leBytes 4 w.iw1.toNat ++ leBytes 8 (pcWord clause index + slot * 2 ^ 61) ++
    leBytes 8 f.faddr ++ leBytes 8 f.detail ++ leBytes 8 ct ++
    leBytes 1 (bankMap fun n => ((g.g[n]?).join).isSome) ++ leBytes 1 (bankMap fun n => ((g.v[n]?).join).isSome) ++
    leBytes 2 (tokMap g) ++ leBytes 4 0 ++
    (if slot = 0 then me ++ pathBytes? other else pathBytes? other ++ me) ++
    leBytes 8 bank ++ leBytes 24 0 ++ ((List.range 32).map fun i => leBytes 8 (f.ext.getD i 0)).flatten

/-- The trap bank of Table TRP-4: registers that are not mapped keep whatever bytes the bank held; reserved bytes are 0 (R5). -/
def bankWrites (g : Group) (bank : Nat) : List (Nat × List Byte) :=
  (bank + 0x60, leBytes 0x20 0) :: (bank + 0x480, leBytes 0x380 0) ::
  ((List.range 8).filterMap fun i => ((g.g[56 + i]?).join).map fun x => (bank + 8 * i, leBytes 8 x.toNat)) ++
  ((List.range 8).filterMap fun i => ((g.v[56 + i]?).join).map fun r => (bank + 0x40 + 4 * i, leBytes 4 r.dead.toNat)) ++
  ((List.range 8).filterMap fun i => ((g.v[56 + i]?).join).map fun r =>
    (bank + 0x80 + 128 * i, (r.val.map fun x => leBytes 4 x.toNat).flatten))

/-- Write several stretches; none where one cannot be written. -/
def State.vwriteAll (s : State) (c : Ctx) (die core : Nat) : List (Nat × List Byte) → Option State
  | [] => some s
  | (a, bs) :: rest => match s.vwrite c die core a bs with
    | (some s, _) => State.vwriteAll s c die core rest
    | (none, _) => none

/-- The handler of a cause: the supervisor's for PAGE_FAULT (R333, DESIGN CHOICE, log 19), the kernel's, or none for the default
action. -/
def Kernel.handler (k : Kernel) (cause : Nat) : Option Nat :=
  if cause = 8 then some supBase
  else if k.handlers.getD cause 0xFFFFFFFF = 0xFFFFFFFF then none
  else some (k.textBase + k.handlers.getD cause 0)

/-- The lanes the handler runs on: FMASK of a lane fault, AMASK of a group fault (R305). -/
def Fault2.lanes (f : Fault2) (p : Path) : Mask := if f.lane then f.fmask else p.mask

/-- Enter a handler with the frame at `frame` and the bank at `bank` (R305). None where the save area cannot be written.
The references of the interrupted path of the other slot go on under the slot's number plus twice the handler's level. -/
def State.enter (s : State) (c : Ctx) (b : Block) (g : Group) (p : Path) (slot : Nat) (f : Fault2) (w : Words)
    (clause index frame bank : Nat) (nest : Bool) (target : Nat) : Option State :=
  let fr := frameBytes g p slot f w clause index s.ct bank nest
  match s.vwriteAll c b.die b.core ((frame, fr) :: bankWrites g bank) with
  | none => none
  | some s =>
    let other := if slot = 0 then g.slot1 else g.slot0
    let t : TrapSt :=
      { frame := frame, bank := bank, nest := nest, cause := f.cause, amask := p.mask, start := s.ct, guarded := true,
        sdepth := g.stack.length, tokOpen := tokMap g, slot := slot, other := other,
        otherAt := other.map fun o => (o.clause, o.index, o.mask), trapped := { p with clause := clause, index := index } }
    let gs := (List.range 64).map fun i => if 56 ≤ i then none else (g.g[i]?).join
    let vs := (List.range 64).map fun i => if 56 ≤ i then none else (g.v[i]?).join
    let off := 2 * (g.traps.length + 1)
    let oref (k : Nat) : PRef := { blk := b.id, grp := g.index, slot := 1 - slot + k }
    let s := { s with refs := s.refs.map fun (x : Ref) =>
      if x.waiter = some (oref 0) then { x with waiter := some (oref off) } else x }
    let g := { g with
      g := gs.set 63 (some (BitVec.ofNat 64 frame)), v := vs, traps := t :: g.traps,
      trapnest := if nest then g.trapnest &&& ~~~(1 : W64) else g.trapnest,
      slot0 := some { clause := target, index := 15, mask := f.lanes p }, slot1 := none }
    some (s.setGroup b.id g.index g)

/-- DOUBLE_TRAP (R306). -/
def State.doubleTrap (s : State) (b : Block) (gi : Nat) (cause : Nat) : State :=
  (s.killGroup b.id gi 0x30 cause).logEvent 5 b.ctx 0x30 cause 0 0

/-- The default action of a cause (R307). -/
def State.defaultAction (s : State) (c : Ctx) (b : Block) (gi slot : Nat) (p : Path) (f : Fault2) (w : Words) : State :=
  if f.cause = 0x22 then s.exitLanes b.id gi p.mask
  else if f.cause = 0x11 then
    s.updPath { blk := b.id, grp := gi, slot := slot } fun p =>
      { p with cond := .wait (.tl f.detail (f.ext.headD 0) 0 3) w }
  else if f.cause = 0x16 ∧ f.sub = 0 then (s.vset c b.die b.core f.faddr 8 2).killGroup b.id gi f.cause f.sub
  else s.killGroup b.id gi f.cause f.sub

/-- TAKING AN EXCEPTION (R302 to R307): the path in a slot of a group traps with a fault; its frame records the words and
the resume point given. -/
def State.trapAt (s : State) (r : PRef) (f : Fault2) (w : Words) (clause index : Nat) : State :=
  match s.block? r.blk with
  | none => s
  | some b => match b.groups[r.grp]?, s.kernel? b.kobj, s.ctx? b.ctx with
    | some g, some k, some c => match g.path? r.slot with
      | none => s
      | some p =>
        let s := s.dropRefs r.blk r.grp (some r.slot)
        match g.traps with
        | [] => match k.handler f.cause with
          | none =>
            let fr := frameBytes g p r.slot f w clause index s.ct (bankAddr c b r.grp) false
            match s.vwriteAll c b.die b.core [(slotAddr c b r.grp, fr)] with
            | some s => s.defaultAction c b r.grp r.slot p f w
            | none => s.faultCtx b.ctx
          | some target =>
            match s.enter c b g p r.slot f w clause index (slotAddr c b r.grp) (bankAddr c b r.grp) false target with
            | some s => s
            | none => s.faultCtx b.ctx
        | [_] =>
          if g.trapnest.getLsbD 0 then
            let area := g.trapnest.toNat / 4096 % 2 ^ 45 * 4096
            match (s.reach c b.die b.core area 4096 .write).1 with
            | .inl _ => s.doubleTrap b r.grp f.cause
            | .inr _ => match k.handler f.cause with
              | none =>
                let fr := frameBytes g p r.slot f w clause index s.ct (area + 0x800) true
                match s.vwriteAll c b.die b.core [(area, fr)] with
                | some s => s.defaultAction c b r.grp r.slot p f w
                | none => s.doubleTrap b r.grp f.cause
              | some target =>
                match s.enter c b g p r.slot f w clause index area (area + 0x800) true target with
                | some s => s
                | none => s.doubleTrap b r.grp f.cause
          else s.doubleTrap b r.grp f.cause
        | _ => s.doubleTrap b r.grp f.cause
    | _, _, _ => s

/-- STALE stays set where the instruction that issues has read an absent lane, also where it then traps (R114). -/
def State.keepStale (s : State) (c : Cur) : State :=
  s.updGroup c.ref.blk c.ref.grp fun g => { g with stale := g.stale || c.g.stale }
/-- A fault of the instruction that issues: the frame records it, and `rfe` reissues it (R304). It does not move the group's
turn (DESIGN CHOICE, log 77: the spec says only of the traps of R53 and R54 that nothing issues). -/
def State.trap (s : State) (c : Cur) (f : Fault2) : State :=
  (s.keepStale c).trapAt c.ref f c.w c.p.clause c.p.index

/-- A group fault of a cause and subcode. -/
def grpFault (cause sub : Nat) : Fault2 := { cause := cause, sub := sub }

end Sys2Proof.Machine
end

