-- ==== Sys2Proof/Machine/Operands.lean ====
section
/-!
DEFINITION. How an instruction issues: checks 9 and 10 of Table MAP-13, the execution mask, the reads of R113 and R114, the
kills, the allocation of R112, the flight that carries its results, and the path's next position (R33, R85, R94).
-/
namespace Sys2Proof.Machine

/-- Check 9 (R54): a register at or above the kernel's arch count of its class. -/
def archBad (k : Kernel) (uses : List Src) : Option Fault2 :=
  if uses.any fun o => !o.grp && k.vregs < o.num + o.n then some (grpFault 0x03 1)
  else if uses.any fun o => o.grp && k.gregs < o.num + o.n then some (grpFault 0x03 2)
  else none

/-- The path after its instruction: where it stands next, and parked where S is set and results are outstanding. -/
def Path.stepped (p : Path) (next : Nat × Nat) (sbit : Bool) : Path :=
  { p with clause := next.1, index := next.2, hdrDone := false,
           cond := if sbit && !p.board.isEmpty then .park [] else .ready }

/-- The group after an issue of a path: its slot holds the path, the turn names the other slot (R85). -/
def Group.issuedBy (g : Group) (slot : Nat) (p : Option Path) : Group :=
  { g.setPath slot p with turn := 1 - slot }

/-- The instruction has issued and its path goes on to the next one. -/
def State.advance (s : State) (c : Cur) (g : Group) (sbit : Bool) : State :=
  s.setGroup c.ref.blk c.ref.grp (g.issuedBy c.ref.slot ((g.path? c.ref.slot).map (·.stepped c.after sbit)))

/-- The path stalls before issuing (R112). -/
def State.stall (s : State) (c : Cur) (n : Need) : State := s.updPath c.ref fun p => { p with cond := .stalled n }

/-- The operands whose source lanes are absent, of those that R114 watches. -/
def Cur.absents (c : Cur) (e : Mask) (srcs : List Src) : List (Nat × Mask) :=
  (srcs.filter (·.field != 0)).filterMap fun o => let m := c.g.absent o e; if m = 0 then none else some (o.field, m)

/-- The STALE_READ fault of R114. -/
def staleFault (abs : List (Nat × Mask)) : Fault2 :=
  { cause := 0x05, sub := abs.foldl (fun m x => min m x.1) 4, lane := true, fmask := abs.foldl (fun m x => m ||| x.2) 0 }

/-- The reads of R114: with none absent the effect follows; otherwise STALE is set, or with STALEEN set the instruction
faults and has no effect. -/
def State.gate (s : State) (c : Cur) (e : Mask) (srcs : List Src) (effect : Cur → Out) : Out :=
  let abs := c.absents e srcs
  if abs.isEmpty then effect c
  else if c.g.staleEn then .next (s.trap { c with g := { c.g with stale := true } } (staleFault abs))
  else effect { c with g := { c.g with stale := true } }

/-- Issue an instruction: checks 9 and 10 of Table MAP-13, the execution mask, then its effect. With E empty it has no
effect and the path goes on (R111). -/
def State.begin (s : State) (role : Option Nat) (uses : List Src) (mask : Cur → Mask) (sbit : Bool)
    (effect : Cur → Mask → Out) : Out :=
  match s.cursor with
  | none => .fault .noIssuer
  | some c =>
    match archBad c.k uses with
    | some f => .next (s.trap c f)
    | none =>
      if role.any (· != c.g.role) then .next (s.trap c (grpFault 0x04 0))
      else if mask c = 0 then .next (s.advance c c.g sbit)
      else effect c (mask c)

/-- Issue an instruction whose operands are read at once: `begin`, then `gate`. -/
def State.issue (s : State) (role : Option Nat) (uses srcs : List Src) (mask : Cur → Mask) (sbit : Bool)
    (effect : State → Cur → Mask → Out) : Out :=
  s.begin role uses mask sbit fun c e => s.gate c e srcs fun c => effect s c e

/-- The result writes of the vector registers from n on, one per 32 bits of the lane values. -/
def wrV (n regs : Nat) (e : Mask) (val : Nat → Nat) : List Wr :=
  (List.range regs).map fun j =>
    .v (n + j) e ((List.range 32).map fun l => if e.getLsbD l then BitVec.ofNat 32 (val l / 2 ^ (32 * j)) else 0)
/-- The write of a group register. -/
def wrG (n val : Nat) : List Wr := if n = 0 then [] else [.g n (BitVec.ofNat 64 val)]

/-- Ask for nv vector and ng group registers, after the kills (R112, R113, R117): the path stalls before issuing, or takes
ILLEGAL_REG MAX_LIVE, or goes on. -/
def State.allocate (s : State) (c : Cur) (e : Mask) (srcs : List Src) (nv ng : Nat) (k : State → Out) : Out :=
  let g := c.g.killAll c.ref.slot e srcs
  match s.allocFor c.b c.k c.ref.grp g.heldV g.heldG nv ng with
  | .maxLive => .next (s.trap c (grpFault 0x03 3))
  | .stall => .next (s.stall c (.regs nv ng (c.g.heldV - g.heldV) (c.g.heldG - g.heldG)))
  | .ok => k s

/-- Put a flight into the group, its kills done, and let the path go on. -/
def State.putFlight (s : State) (c : Cur) (e : Mask) (srcs : List Src) (fl : Flight) (sbit : Bool) : State :=
  let id := s.uid
  let s := { s with uid := s.uid + 1 }
  let g := c.g.killAll c.ref.slot e srcs
  let g := { g with flights := g.flights ++ [{ fl with id := id, slot := c.ref.slot, words := c.w }] }
  let g := match g.path? c.ref.slot with
    | some p => g.setPath c.ref.slot (some { p with board := if fl.board then p.board ++ [id] else p.board })
    | none => g
  s.advance c g sbit

/-- Ask for the registers that a flight's writes need; then put the flight into the group. -/
def State.launchFlight (s : State) (c : Cur) (e : Mask) (srcs : List Src) (fl : Flight) (sbit : Bool) : Out :=
  s.allocate c e srcs (fl.writes.filter Wr.isV).length (fl.writes.filter Wr.isG).length fun s =>
    .next (s.putFlight c e srcs fl sbit)

/-- A fixed-latency result, visible L cc after issue (R56). -/
def State.fixed (s : State) (c : Cur) (e : Mask) (srcs : List Src) (ws : List Wr) (lat flags : Nat) (sbit : Bool) : Out :=
  s.launchFlight c e srcs { id := 0, slot := 0, due := some (s.cc + lat), fixed := true, writes := ws, flags := flags } sbit

/-- A flight that completes after a latency the manual does not give (R57). It stands on the scoreboard when it returns a
result, or may return a fault in its place. -/
def State.putLater (s : State) (c : Cur) (e : Mask) (srcs : List Src) (fl : Flight) (sbit : Bool) : State :=
  let (d, s) := s.delay
  s.putFlight c e srcs { fl with due := some (s.cc + d), board := fl.board || !fl.writes.isEmpty || fl.poison.isSome } sbit

/-- A variable-latency result (R57), under a DRAIN class. -/
def State.variable (s : State) (c : Cur) (e : Mask) (srcs : List Src) (ws : List Wr) (cls : Drn) (sbit : Bool) : Out :=
  s.allocate c e srcs (ws.filter Wr.isV).length (ws.filter Wr.isG).length fun s =>
    .next (s.putLater c e srcs { id := 0, slot := 0, due := none, cls := cls, writes := ws } sbit)

/-- An instruction without a result has issued: its kills, and the path goes on. -/
def State.done (s : State) (c : Cur) (e : Mask) (srcs : List Src) (sbit : Bool) : State :=
  s.advance c (c.g.killAll c.ref.slot e srcs) sbit

end Sys2Proof.Machine

namespace Sys2Proof
open Sys2Proof.Machine

/-! ## Operands of the V3 and VI forms -/

/-- Operands A, B and C of a V3 word, of n registers each; 0 for an operand not used. -/
def V3.srcs (f : V3) (na nb nc : Nat) : List Src :=
  (if na = 0 then [] else [usrc f.u f.a f.x.pa na 1]) ++
  (if nb = 0 then [] else [usrc f.u f.b f.x.pb nb 2]) ++
  (if nc = 0 then [] else [usrc f.u f.x.c (paramShort f.x.c) nc 3])
/-- The destination of a V3 word as a register use. -/
def V3.dst (f : V3) (n : Nat) : Src := { grp := f.u, num := f.d.toNat, n := if f.u then 1 else n }
def V3.srcA (f : V3) (n : Nat) : Src := usrc f.u f.a f.x.pa n 1
def V3.srcB (f : V3) (n : Nat) : Src := usrc f.u f.b f.x.pb n 2
def V3.srcC (f : V3) (n : Nat) : Src := usrc f.u f.x.c (paramShort f.x.c) n 3
/-- ExecMask of a V3 word by U. -/
def V3.mask (f : V3) (c : Cur) : Mask := c.mask f.u f.x.gp f.x.gi

/-- Group-operand instructions of ENG, CTL and SYS on a V3 word. -/
def V3.ga (f : V3) : Src := gsrc f.a 1 1
def V3.gb (f : V3) : Src := gsrc f.b 1 2
/-- The lane guard of a V3 word. -/
def V3.maskP (f : V3) (c : Cur) : Mask := c.maskP f.x.gp f.x.gi
/-- The group guard of a V3 word. -/
def V3.maskQ (f : V3) (c : Cur) : Mask := c.maskQ f.x.gp f.x.gi

end Sys2Proof

namespace Sys2Proof.Machine

/-- `Compute` of R133: read, kill, apply Fn to each lane of E or once for the group, write d after the latency. Fn gets the
width w. -/
def State.compute (s : State) (f : V3) (nd na nb nc lat : Nat) (fn : Nat → Nat → Nat → Nat → Nat) : Out :=
  let srcs := f.srcs na nb nc
  s.issue none (srcs ++ [f.dst nd]) srcs f.mask f.s fun s c e =>
    let val := fun l => fn (if f.u then 64 else 32)
      (if na = 0 then 0 else c.g.read (f.srcA na) l) (if nb = 0 then 0 else c.g.read (f.srcB nb) l)
      (if nc = 0 then 0 else c.g.read (f.srcC nc) l)
    s.fixed c e srcs (if f.u then wrG f.d.toNat (val 0) else wrV f.d.toNat nd e val) lat 0 f.s

/-- Latency by U (Table MAP-14). -/
def latU (u : Bool) (v g : Nat) : Nat := if u then g else v

/-- A VI form: Fn of the width, a and the immediate (R146). -/
def State.computeVI (s : State) (f : VI) (useA : Bool) (fn : Nat → Nat → Int → Nat) : Out :=
  let a := usrc f.u f.a (paramShort f.a) 1 1
  let srcs := if useA then [a] else []
  s.issue none (srcs ++ [{ grp := f.u, num := f.d.toNat }]) srcs (·.mask f.u f.gp f.gi) f.s fun s c e =>
    let val := fun l => fn (if f.u then 64 else 32) (if useA then c.g.read a l else 0) f.val
    s.fixed c e srcs (if f.u then wrG f.d.toNat (val 0) else wrV f.d.toNat 1 e val) (latU f.u 4 2) 0 f.s

end Sys2Proof.Machine
end

