-- ==== Sys2Proof/Machine/Flags.lean ====
section
/-!
DEFINITION. Floating operands, flags and random bits: the elements of a FLT format (R135), the bits of SR (R72, R73), the
flags of each operation (R64, R65, R149 to R155), and how a FLT instruction computes.
-/
namespace Sys2Proof.Machine
open Sys2Proof.Num

/-- A FLT format code (R38): its elements' format, and whether it is packed. -/
def fltFmt (sub : Nat) : FFmt := match sub with | 0 => f32 | 1 => f64 | 2 => f16 | _ => bf16
def fltPacked (sub : Nat) : Bool := 2 ≤ sub
/-- Registers of a FLT operand under U = 0 (R135). -/
def fltRegs (sub : Nat) : Nat := if sub = 1 then 2 else 1

/-- Step a hardware sequence (R73). -/
def seqStep (z : W32) : W32 :=
  let z := z ^^^ (z <<< 13)
  let z := z ^^^ (z >>> 17)
  z ^^^ (z <<< 5)

end Sys2Proof.Machine

namespace Sys2Proof
open Sys2Proof.Machine

/-- The operand that supplies SR bits, if it is a register that the lane holds or R114 watches: v0 with X = 00 and g0 stand
for the hardware sequence (R72). -/
def V3.srSrc (f : V3) : List Src :=
  if f.x.rm != 5 then []
  else if f.u then [gsrc f.x.c 1 3]
  else [{ vsrc f.x.c (paramShort f.x.c) 1 3 with field := if opReg f.x.c = 0 ∧ opX f.x.c = 0 then 0 else 3 }]

/-- Whether lane l takes its random bits from its hardware sequence (R72). -/
def V3.usesSeq (f : V3) (g : Group) (l : Nat) : Bool :=
  f.x.rm == 5 && opReg f.x.c == 0 && (f.u || (opX f.x.c == 0 && (g.lane? 0 l).isNone))

/-- The 32 random bits of lane l (R72): the low 16 for the low or only element. -/
def V3.rand (f : V3) (g : Group) (l : Nat) : Nat :=
  if f.x.rm != 5 then 0
  else if f.usesSeq g l then (g.seq.getD l 0).toNat
  else g.read (f.srcC 1) l

/-- Step the sequences that an instruction used: of the lanes of E, or lane 0's under U = 1 (R73). -/
def V3.stepSeq (f : V3) (g : Group) (e : Mask) : Group :=
  { g with seq := (List.range 32).map fun l =>
      let z := g.seq.getD l 0
      if (if f.u then l == 0 else e.getLsbD l) && f.usesSeq g l then seqStep z else z }

/-- The format number of a V3 word. -/
def V3.fmt (f : V3) : Nat := f.x.sub.toNat

end Sys2Proof

namespace Sys2Proof.Machine
open Sys2Proof.Num

/-- Apply an element function to a packed or single value: the result and the flags (R135). -/
def elems (packed : Bool) (fn : Nat → Nat × Nat) : Nat × Nat :=
  if packed then
    let lo := fn 0
    let hi := fn 1
    (lo.1 % 2 ^ 16 + 2 ^ 16 * (hi.1 % 2 ^ 16), orFlags lo.2 hi.2)
  else fn 0

/-- Element j of a value in a FLT format. -/
def elem (sub j v : Nat) : Nat := if fltPacked sub then v / 2 ^ (16 * j) % 2 ^ 16 else v % 2 ^ (fltFmt sub).w
/-- The 16 random bits of element j. -/
def randElem (r j : Nat) : Nat := r / 2 ^ (16 * j) % 2 ^ 16

/-- A FLT instruction: operands of na, nb, nc registers (0 unused) and a lane function of a, b, c and the random bits that
gives the result and its flags. Flags are those of the lanes of E (R65). -/
def State.computeF (s : State) (f : V3) (nd na nb nc lat : Nat) (fn : Nat → Nat → Nat → Nat → Nat × Nat) : Out :=
  let srcs := f.srcs na nb nc ++ f.srSrc
  s.issue none (srcs ++ [f.dst nd]) srcs f.mask f.s fun s c e =>
    let val := fun l => fn (if na = 0 then 0 else c.g.read (f.srcA na) l) (if nb = 0 then 0 else c.g.read (f.srcB nb) l)
      (if nc = 0 then 0 else c.g.read (f.srcC nc) l) (f.rand c.g l)
    let lanes := if f.u then [0] else lanesOf e
    let flags := lanes.foldl (fun acc l => orFlags acc (val l).2) 0
    let ws := if f.u then wrG f.d.toNat (val 0).1 else wrV f.d.toNat nd e fun l => (val l).1
    s.fixed { c with g := f.stepSeq c.g e } e srcs ws lat flags f.s

/-- NV where an operand is a signaling NaN (R64). -/
def sigFlag (vs : List FV) : Nat := nvIf (vs.any FV.isSig)

/-- Latency of FLT arithmetic by format (Table MAP-14). -/
def fltLat (f : V3) : Nat := if f.x.sub = 1 then 10 else 6
/-- An element-wise instruction on format F: fn gets F, the elements of a, b and c, and the element's random bits. -/
def State.fltElem (s : State) (f : V3) (nb nc : Bool) (lat : Nat)
    (fn : FFmt → Nat → Nat → Nat → Nat → Nat × Nat) : Out :=
  let n := fltRegs f.fmt
  s.computeF f n n (if nb then n else 0) (if nc then n else 0) lat fun a b c r =>
    elems (fltPacked f.fmt) fun j =>
      fn (fltFmt f.fmt) (elem f.fmt j a) (elem f.fmt j b) (elem f.fmt j c) (randElem r j)

/-- Narrow one exact value; a NaN that counts as signaling raises NV (R64, R79). -/
def narrow (F : FFmt) (rm : Nat) (sat : Bool) (r : Nat) (v : FV) : Nat × Nat :=
  let (c, fl) := encodeF F rm sat r v
  (c, orFlags fl (nvIf v.isSig))

/-- The larger or smaller of two values by `fmin` and `fmax` with SAT (R149): the bits and flags. -/
def minMaxBits (F : FFmt) (isMax sat : Bool) (a b : Nat) : Nat × Nat :=
  let x := decodeF F a
  let y := decodeF F b
  let fl := sigFlag [x, y]
  if x.isNan && y.isNan then (F.nan, fl)
  else if x.isNan then (if sat then F.nan else b, fl)
  else if y.isNan then (if sat then F.nan else a, fl)
  else
    let d := cmpFV x y
    let d := if d = 0 then (if signOf F a && !signOf F b then -1 else if !signOf F a && signOf F b then 1 else 0) else d
    (if isMax then (if d < 0 then b else a) else (if 0 < d then b else a), fl)

/-- A binary32 sum of two codes rounded by rm, as the `.fadd` nodes of `red` and `scan` form it (R145). -/
def faddNode (rm : Nat) (sat : Bool) (a b : Nat × Nat) : Nat × Nat :=
  let (c, fl) := encodeSum f32 rm sat 0 [decodeF f32 a.1, decodeF f32 b.1]
  (c, orFlags fl (orFlags a.2 b.2))

/-- The condition COND of a comparison of two floating values (R50). -/
def condF (cond : Nat) (x y : FV) : Bool :=
  let un := x.isNan || y.isNan
  let d := cmpFV x y
  let rel (k : Nat) : Bool := match k with
    | 0 => d == 0 | 1 => d != 0 | 2 => d < 0 | 3 => d ≤ 0 | 4 => 0 < d | _ => 0 ≤ d
  if cond < 6 then !un && rel cond
  else if cond = 6 then !un
  else if cond = 7 then un
  else un || rel (cond - 8)
/-- Conditions that raise no NV for a signaling NaN (R64). -/
def condQuiet (cond : Nat) : Bool := [0, 1, 6, 7, 8, 9].contains cond

/-- The condition COND of an integer comparison (R50). -/
def condI (cond : Nat) (a b : Int) : Bool := match cond with
  | 0 => a == b | 1 => a != b | 2 => a < b | 3 => a ≤ b | 4 => b < a | _ => b ≤ a

/-- The combining types of Table MAP-4: new pd1 from the old one and c. -/
def ctNew (ct : Nat) (old c : Bool) : Bool := match ct % 4 with
  | 0 => c | 1 => old && c | 2 => old || c | _ => old != c

/-- The writes of a compare (R51): for each lane of the active mask, from the condition and the guard. Where pd1 and pd2 name the
same predicate the rules do not say which write stays: pd1 is written first and pd2 last, so the complement stays (DESIGN CHOICE,
log 85). -/
def cmpWrites (u : Bool) (pd1 pd2 : Nat) (ct : Nat) (m : Mask) (guard : Nat → Bool) (old cond : Nat → Bool) : List Wr :=
  let z := 4 ≤ ct
  let new := fun l => if guard l then ctNew ct (old l) (cond l) else false
  if u then
    (if guard 0 || z then
      (if pd1 = 7 then [] else [Wr.q pd1 (new 0)]) ++ (if pd2 = 7 then [] else [Wr.q pd2 (!new 0)]) else [])
  else
    let w := maskOf fun l => m.getLsbD l && (guard l || z)
    (if pd1 = 7 then [] else [Wr.p pd1 w (maskOf new)]) ++
    (if pd2 = 7 then [] else [Wr.p pd2 w (maskOf fun l => !new l)])

end Sys2Proof.Machine
end

