-- ==== Sys2Proof/Machine/Alu.lean ====
section
/-!
DEFINITION. Class ALU (R133 to R148, R122): one meaning per instruction.
-/
namespace Sys2Proof.Machine
open Sys2Proof.Num

/-- `Sx` of R137. -/
def sx (signed : Bool) (w x : Nat) : Int := if signed then signExt w x else x
/-- Signedness S: SUB bit 0 (R134). -/
def sgn (f : V3) : Bool := f.x.sub.getLsbD 0
/-- A two-operand instruction of latency 4, or 2 under U = 1. -/
def State.alu2 (s : State) (f : V3) (fn : Nat → Nat → Nat → Nat) : Out :=
  s.compute f 1 1 1 0 (latU f.u 4 2) fun w a b _ => fn w a b
/-- A one-operand instruction of that latency. -/
def State.alu1 (s : State) (f : V3) (fn : Nat → Nat → Nat) : Out :=
  s.compute f 1 1 0 0 (latU f.u 4 2) fun w a _ _ => fn w a

/-! ## Integer arithmetic (Table ALU-2) -/

def execMov (f : V3) (s : State) : Out := s.alu1 f fun _ a => a
def execAdd (f : V3) (s : State) : Out := s.alu2 f fun _ a b => a + b
def execSub (f : V3) (s : State) : Out := s.alu2 f fun w a b => a + 2 ^ w - b
def execMul (f : V3) (s : State) : Out := s.compute f 1 1 1 0 (latU f.u 6 4) fun _ a b _ => a * b
def execMulhi (f : V3) (s : State) : Out :=
  s.compute f 1 1 1 0 (latU f.u 6 4) fun w a b _ => wrapN w (sx (sgn f) w a * sx (sgn f) w b / 2 ^ w)
def execMad (f : V3) (s : State) : Out := s.compute f 1 1 1 1 (latU f.u 6 4) fun _ a b c => a * b + c
def execAddw (f : V3) (s : State) : Out := s.compute f 2 2 2 0 5 fun _ a b _ => a + b
def execSubw (f : V3) (s : State) : Out := s.compute f 2 2 2 0 5 fun _ a b _ => a + 2 ^ 64 - b
def execMulw (f : V3) (s : State) : Out :=
  s.compute f 2 1 1 0 10 fun _ a b _ => wrapN 64 (sx (sgn f) 32 a * sx (sgn f) 32 b)
def execAbs (f : V3) (s : State) : Out :=
  s.alu1 f fun w a =>
    let m := (signExt w a).natAbs
    if f.x.sat && m == 2 ^ (w - 1) then m - 1 else m
def execMin (f : V3) (s : State) : Out := s.alu2 f fun w a b => if sx (sgn f) w a ≤ sx (sgn f) w b then a else b
def execMax (f : V3) (s : State) : Out := s.alu2 f fun w a b => if sx (sgn f) w a ≤ sx (sgn f) w b then b else a
/-- `SatS` or `SatN` at w bits. -/
def satN (signed : Bool) (w : Nat) (x : Int) : Nat := wrapN w (clampInt (intMin w signed) (intMax w signed) x)
def execAdds (f : V3) (s : State) : Out := s.alu2 f fun w a b => satN (sgn f) w (sx (sgn f) w a + sx (sgn f) w b)
def execSubs (f : V3) (s : State) : Out := s.alu2 f fun w a b => satN (sgn f) w (sx (sgn f) w a - sx (sgn f) w b)

/-! ## Logic, shifts and bit counts (Table ALU-3) -/

def execAnd (f : V3) (s : State) : Out := s.alu2 f fun _ a b => a &&& b
def execOr (f : V3) (s : State) : Out := s.alu2 f fun _ a b => a ||| b
def execXor (f : V3) (s : State) : Out := s.alu2 f fun _ a b => a ^^^ b
def execAndn (f : V3) (s : State) : Out := s.alu2 f fun w a b => a &&& (2 ^ w - 1 - b)
def execOrn (f : V3) (s : State) : Out := s.alu2 f fun w a b => a ||| (2 ^ w - 1 - b)
/-- Shift right arithmetically by n (R138). -/
def sarN (w a n : Nat) : Nat := if n < w then wrapN w (signExt w a / 2 ^ n) else if signExt w a < 0 then 2 ^ w - 1 else 0
/-- Count of leading zero bits. -/
def clzN (w a : Nat) : Nat := if a = 0 then w else w - 1 - Nat.log2 a
def execShl (f : V3) (s : State) : Out := s.alu2 f fun w a b => if b < w then a * 2 ^ b else 0
def execShr (f : V3) (s : State) : Out := s.alu2 f fun w a b => if b < w then a / 2 ^ b else 0
def execSar (f : V3) (s : State) : Out := s.alu2 f fun w a b => sarN w a b
def execRotl (f : V3) (s : State) : Out :=
  s.alu2 f fun w a b => let n := b % w; a * 2 ^ n % 2 ^ w + a / 2 ^ (w - n)
def execClz (f : V3) (s : State) : Out := s.alu1 f clzN
def execCtz (f : V3) (s : State) : Out := s.alu1 f fun w a => ((List.range w).find? a.testBit).getD w
def execPopc (f : V3) (s : State) : Out := s.alu1 f fun w a => ((List.range w).filter a.testBit).length
def execBrev (f : V3) (s : State) : Out :=
  s.alu1 f fun w a => ((List.range w).map fun i => if a.testBit i then 2 ^ (w - 1 - i) else 0).sum

/-! ## Fields, selection and addresses (R139 to R141) -/

/-- POS and LEN of a control operand at width w (R139). -/
def posLen (w c : Nat) : Nat × Nat := (c % 64 % w, min (c / 256 % 128) w)
def execBfx (f : V3) (s : State) : Out :=
  s.compute f 1 1 0 1 (latU f.u 4 2) fun w a _ c =>
    let (pos, len) := posLen w c
    let x := a / 2 ^ pos % 2 ^ len
    if len = 0 then 0 else if sgn f then wrapN w (signExt len x) else x
def execBfi (f : V3) (s : State) : Out :=
  s.compute f 1 1 1 1 (latU f.u 4 2) fun w a b c =>
    let (pos, len) := posLen w c
    let m := (2 ^ len - 1) * 2 ^ pos % 2 ^ w
    (a &&& (2 ^ w - 1 - m)) ||| (b * 2 ^ pos &&& m)
/-- R140: the mask is the path's active mask, and the guard selects. -/
def execSel (f : V3) (s : State) : Out :=
  let srcs := f.srcs 1 1 0
  s.issue none (srcs ++ [f.dst 1]) srcs (·.p.mask) f.s fun s c e =>
    let take := if f.u then (if c.condQ f.x.gp f.x.gi then allLanes else 0) else f.mask c
    let val := fun l => if take.getLsbD l then c.g.read (f.srcA 1) l else c.g.read (f.srcB 1) l
    s.fixed c e srcs (if f.u then wrG f.d.toNat (val 0) else wrV f.d.toNat 1 e val) (latU f.u 4 2) 0 f.s
def execLea (f : V3) (s : State) : Out := s.alu2 f fun _ a b => a + b * 2 ^ f.x.sub.toNat
def execLeaw (f : V3) (s : State) : Out :=
  s.compute f 2 2 1 0 5 fun _ a b _ => wrapN 64 (a + sx f.x.sat 32 b * 2 ^ f.x.sub.toNat)

/-! ## Compares and predicate logic (R142, R143) -/

/-- The bits and signedness of a compare TYPE (R50). -/
def cmpTyp (t : Nat) : Nat × Bool := match t with
  | 0 => (32, true) | 1 => (32, false) | 2 => (64, true) | 3 => (64, false) | _ => (32, false)
/-- The guard of a compare by lane; the group's under U = 1. -/
def cmpGuard (c : Cur) (u : Bool) (gp : BitVec 3) (gi : Bool) (l : Nat) : Bool :=
  if u then c.condQ gp gi else (c.maskP gp gi).getLsbD l
/-- The old pd1 that a compare reads at issue. -/
def cmpOld (c : Cur) (u : Bool) (pd1 l : Nat) : Bool := if u then c.g.qbit pd1 else (c.g.pmask pd1).getLsbD l
/-- An integer compare of operand A with b. -/
def State.cmpI (s : State) (u sbit : Bool) (pd1 pd2 ct cond typ : Nat) (gp : BitVec 3) (gi : Bool) (srcs : List Src)
    (av bv : Group → Nat → Nat) : Out :=
  s.issue none srcs srcs (·.p.mask) sbit fun s c e =>
    let (w, sg) := cmpTyp typ
    let rd := fun x => sx sg w (x % 2 ^ w)
    s.fixed c e srcs
      (cmpWrites u pd1 pd2 ct e (cmpGuard c u gp gi) (cmpOld c u pd1) fun l => condI cond (rd (av c.g l)) (rd (bv c.g l)))
      (latU u 4 2) 0 sbit
def execCmp (f : Cmp) (s : State) : Out :=
  let n := cmpRegs f.x.typ
  let a := usrc f.u f.a f.x.pa n 1
  let b := usrc f.u f.b f.x.pb n 2
  s.cmpI f.u f.s f.pd1.toNat f.pd2.toNat f.x.ct.toNat f.x.cond.toNat f.x.typ.toNat f.x.gp f.x.gi [a, b]
    (fun g l => g.read a l) (fun g l => g.read b l)
def execCmpi (f : Cmpi) (s : State) : Out :=
  let a := usrc f.u f.a (paramShort f.a) (cmpRegs f.x.typ) 1
  s.cmpI f.u f.s f.pd1.toNat f.pd2.toNat f.x.ct.toNat f.x.cond.toNat f.x.typ.toNat f.x.gp f.x.gi [a]
    (fun g l => g.read a l) (fun _ _ => wrapN 64 f.x.imm.toInt)
/-- A predicate selector of `plog`, in lane l (R143). -/
def plogSel (g : Group) (sel l : Nat) : Bool := if sel < 8 then (g.pmask sel).getLsbD l else g.qbit (sel - 8)
def execPlog (f : Plog) (s : State) : Out :=
  s.issue none [] [] (fun c => c.mask f.u f.x.gp f.x.gi) f.s fun s c e =>
    let val := fun l => f.tt.getLsbD ((if plogSel c.g f.pa.toNat l then 2 else 0) + (if plogSel c.g f.pb.toNat l then 1 else 0))
    let pd := f.pd.toNat
    let ws := if pd = 7 then [] else if f.u then [Wr.q pd (val 0)] else [Wr.p pd e (maskOf val)]
    s.fixed c e [] ws 2 0 f.s

/-! ## Lane and group transfers (R144, R145) -/

def execLaneid (f : V3) (s : State) : Out :=
  s.issue none [f.dst 1] [] f.mask f.s fun s c e => s.fixed c e [] (wrV f.d.toNat 1 e id) 2 0 f.s
def execBallot (f : V3) (s : State) : Out :=
  s.issue none [f.dst 1] [] f.mask f.s fun s c e =>
    s.fixed c e [] (wrG f.d.toNat (c.p.mask &&& c.g.pmask (opReg f.a)).toNat) 4 0 f.s
def execMkpred (f : V3) (s : State) : Out :=
  let srcs := f.srcs 1 0 0
  s.issue none srcs srcs f.mask f.s fun s c e =>
    let a := fun l => c.g.read (f.srcA 1) l
    let m := maskOf fun l => if f.u then (a 0).testBit l else a l != 0
    s.fixed c e srcs (if f.d = 7 then [] else [.p f.d.toNat e m]) 4 0 f.s
def execVote (f : V3) (s : State) : Out :=
  s.issue none [] [] f.mask f.s fun s c e =>
    let v := if f.u then c.p.mask else e
    let hit := v &&& c.g.pmask (opReg f.a)
    let r := match f.x.sub.toNat with | 0 => hit != 0 | 1 => hit == v | _ => hit == v || hit == 0
    let ws := if f.d = 7 then [] else if f.u then [Wr.q f.d.toNat r] else [.p f.d.toNat e (if r then allLanes else 0)]
    s.fixed c e [] ws 4 0 f.s
/-- Operand A of `rdlane`: lane n of a vector register. -/
def rdlaneSrc (f : V3) (n : Nat) : Src := { grp := false, num := opReg f.a, l := opL f.a, field := 1, map := List.replicate 32 n }
def execRdlane (f : V3) (s : State) : Out :=
  s.begin none [rdlaneSrc f 0, f.srcB 1, f.dst 1] f.mask f.s fun c e =>
    let a := rdlaneSrc f (c.g.read (f.srcB 1) 0 % 32)
    let srcs := [a, f.srcB 1]
    s.gate c e srcs fun c =>
      let x := c.g.read a 0
      s.fixed c e srcs (wrG f.d.toNat (if sgn f then wrapN 64 (signExt 32 x) else x)) 6 0 f.s
def execWrlane (f : V3) (s : State) : Out :=
  let a := gsrc f.a 1 1
  let b := gsrc f.b 1 2
  s.issue none [a, b, f.dst 1] [a, b] f.mask f.s fun s c e =>
    let m : Mask := BitVec.ofNat 32 (2 ^ (c.g.read b 0 % 32)) &&& e
    s.fixed c e [a, b] (if m = 0 then [] else wrV f.d.toNat 1 m fun _ => c.g.read a 0) 6 0 f.s
/-- `perm`: lane l takes what operand A gives lane b[l] and 31, through A's own pattern (DEDUCED, log 84). -/
def execPerm (f : V3) (s : State) : Out :=
  s.begin none [f.srcA 1, f.srcB 1, f.dst 1] f.mask f.s fun c e =>
    let a := { f.srcA 1 with map := (List.range 32).map fun l => (f.srcA 1).lane (c.g.read (f.srcB 1) l % 32) }
    let srcs := [a, f.srcB 1]
    s.gate c e srcs fun c => s.fixed c e srcs (wrV f.d.toNat 1 e fun l => c.g.read a l) 8 0 f.s

/-- `PairTree` over 2^k lanes from lo (R77). -/
def pairTree {α : Type} (op : α → α → α) (v : Nat → α) : Nat → Nat → α
  | 0, lo => v lo
  | k + 1, lo => op (pairTree op v k lo) (pairTree op v k (lo + 2 ^ k))
/-- The blocks of R78 from lane `lo` on for the low k bits of n, joined to what stands before them. -/
def prefixFrom {α : Type} (op : α → α → α) (v : Nat → α) (n : Nat) : Nat → Nat → Option α → Option α
  | 0, _, acc => acc
  | k + 1, lo, acc =>
    if n.testBit k then
      let x := pairTree op v k lo
      prefixFrom op v n k (lo + 2 ^ k) (some (match acc with | some y => op y x | none => x))
    else prefixFrom op v n k lo acc
/-- `Prefix(v, i)` (R78). -/
def prefixAt {α : Type} (op : α → α → α) (v : Nat → α) (i : Nat) : α := (prefixFrom op v (i + 1) 6 0 none).getD (v i)

/-- The operation of Table ALU-6 on values with their flags. -/
def redOp (sub rm : Nat) (sat : Bool) (a b : Nat × Nat) : Nat × Nat :=
  match sub with
  | 0 => ((a.1 + b.1) % 2 ^ 32, 0)
  | 1 => (if sx sat 32 a.1 ≤ sx sat 32 b.1 then a.1 else b.1, 0)
  | 2 => (if sx sat 32 a.1 ≤ sx sat 32 b.1 then b.1 else a.1, 0)
  | 3 => (a.1 &&& b.1, 0)
  | 4 => (a.1 ||| b.1, 0)
  | 5 => (a.1 ^^^ b.1, 0)
  | _ => faddNode rm sat a b
/-- Its identity (R79). -/
def redId (sub : Nat) (sat : Bool) : Nat :=
  match sub with
  | 1 => if sat then 0x7FFFFFFF else 0xFFFFFFFF
  | 2 => if sat then 0x80000000 else 0
  | 3 => 0xFFFFFFFF
  | 6 => 0x80000000
  | _ => 0
/-- The values `red` and `scan` combine: of the lanes of e, the identity elsewhere. -/
def redVals (f : V3) (c : Cur) (e : Mask) (l : Nat) : Nat × Nat :=
  (if e.getLsbD l then c.g.read (vsrc f.a f.x.pa 1 1) l else redId f.x.sub.toNat f.x.sat, 0)
def execRed (f : V3) (s : State) : Out :=
  let srcs := [vsrc f.a f.x.pa 1 1]
  s.issue none (srcs ++ [f.dst 1]) srcs f.mask f.s fun s c e =>
    let (r, fl) := pairTree (redOp f.x.sub.toNat f.x.rm.toNat f.x.sat) (redVals f c e) 5 0
    let r := if f.x.sat && f.x.sub.toNat ≤ 2 then wrapN 64 (signExt 32 r) else r
    s.fixed c e srcs (wrG f.d.toNat r) 10 fl f.s
/-- A binary32 code whose NaN is the canonical one (R63). -/
def canonF32 (x : Nat) : Nat := if (decodeF f32 x).isNan then f32.nan else x
/-- `scan`. The prefix of lane 0 is one value and no node: a NaN there is written as the canonical NaN (R63), and a signaling one
raises no NV, since R145 takes flags from the combinations alone (DEDUCED, log 55). -/
def execScan (f : V3) (s : State) : Out :=
  let srcs := [vsrc f.a f.x.pa 1 1]
  s.issue none (srcs ++ [f.dst 1]) srcs f.mask f.s fun s c e =>
    let canon := fun (x : Nat × Nat) => if f.x.sub = 6 then (canonF32 x.1, x.2) else x
    let val := fun l => canon (prefixAt (redOp f.x.sub.toNat f.x.rm.toNat f.x.sat) (redVals f c e) l)
    let fl := (lanesOf e).foldl (fun acc l => orFlags acc (val l).2) 0
    s.fixed c e srcs (wrV f.d.toNat 1 e fun l => (val l).1) 12 fl f.s

/-! ## Immediates and byte permutes (R146, R147) -/

def execMovi (f : VI) (s : State) : Out := s.computeVI f false fun w _ imm => wrapN w imm
def execAddi (f : VI) (s : State) : Out := s.computeVI f true fun w a imm => a + wrapN w imm
def execAndi (f : VI) (s : State) : Out := s.computeVI f true fun w a imm => a &&& wrapN w imm
def execOri (f : VI) (s : State) : Out := s.computeVI f true fun w a imm => a ||| wrapN w imm
def execXori (f : VI) (s : State) : Out := s.computeVI f true fun w a imm => a ^^^ wrapN w imm
def execShli (f : VI) (s : State) : Out := s.computeVI f true fun _ a imm => a * 2 ^ imm.toNat
def execShri (f : VI) (s : State) : Out := s.computeVI f true fun _ a imm => a / 2 ^ imm.toNat
def execSari (f : VI) (s : State) : Out := s.computeVI f true fun w a imm => sarN w a imm.toNat
def execMovhi (f : VI) (s : State) : Out :=
  s.computeVI f true fun w a imm => if w = 32 then a % 2 ^ 16 + wrapN 16 imm * 2 ^ 16 else a % 2 ^ 32 + wrapN 32 imm * 2 ^ 32
def execPrmt (f : V3) (s : State) : Out :=
  s.compute f 1 1 1 1 (latU f.u 4 2) fun w a b c =>
    let n := w / 8
    let pool := a % 2 ^ w + b * 2 ^ w
    let byte := fun i =>
      let sl := c / 2 ^ (8 * i) % 256
      let src := pool / 2 ^ (8 * (sl % (2 * n))) % 256
      if sl.testBit 4 then 0 else if sl.testBit 5 then (if src.testBit 7 then 255 else 0) else src
    ((List.range n).map fun i => byte i * 2 ^ (8 * i)).sum

/-! ## vget and vput (R122) -/

/-- The registers that the index operand names, by lane. -/
def vIndex (f : V3) (g : Group) (l : Nat) : Nat := g.read (f.srcA 1) l % 64
/-- The range check: the lanes whose index is at or above the arch count. -/
def vIndexBad (f : V3) (c : Cur) (e : Mask) : Mask := maskOf fun l => e.getLsbD l && c.k.vregs ≤ vIndex f c.g l
/-- The trap of the range check: R122 gives it a mask of faulting lanes, though Table TRP-1 lists ILLEGAL_REG among the group faults;
it is a lane fault, and the handler runs on those lanes (DESIGN CHOICE, log 75). -/
def vRangeFault (m : Mask) : Fault2 := { cause := 0x03, sub := 1, lane := true, fmask := m }
/-- The indirect read of `vget`, as an operand that names a register in each lane: absent lanes, subcode 4. -/
def vIndirectAbsent (f : V3) (c : Cur) (e : Mask) : Mask :=
  maskOf fun l => e.getLsbD l && (c.g.lane? (vIndex f c.g l) l).isNone
/-- `vget` (R122). With STALEEN set, absent index operands trap before the indirect read is looked at, so that the fault's mask holds
their lanes alone (DESIGN CHOICE, log 75). -/
def execVget (f : V3) (s : State) : Out :=
  let srcs := f.srcs 1 0 0
  s.issue none (srcs ++ [f.dst 1]) srcs f.mask f.s fun s c e =>
    let bad := vIndexBad f c e
    if bad != 0 then .next (s.trap c (vRangeFault bad))
    else
      let ab := vIndirectAbsent f c e
      if ab != 0 && c.g.staleEn then .next (s.trap c (staleFault [(4, ab)]))
      else
        let c := if ab != 0 then { c with g := { c.g with stale := true } } else c
        s.fixed c e srcs (wrV f.d.toNat 1 e fun l => (c.g.lane? (vIndex f c.g l) l).getD 0) 6 0 f.s
def execVput (f : V3) (s : State) : Out :=
  s.begin none (f.srcs 1 1 0) f.mask f.s fun c e =>
    let aAbs := c.absents e [f.srcA 1]
    let bad := vIndexBad f c e
    if bad != 0 && (aAbs.isEmpty || !c.g.staleEn) then
      .next (s.trap { c with g := { c.g with stale := c.g.stale || !aAbs.isEmpty } } (vRangeFault bad))
    else s.gate c e (f.srcs 1 1 0) fun c =>
      let named := (List.range 64).filter fun n => (lanesOf e).any fun l => vIndex f c.g l == n
      let ws := named.flatMap fun n =>
        wrV n 1 (maskOf fun l => e.getLsbD l && vIndex f c.g l == n) fun l => c.g.read (f.srcB 1) l
      s.fixed c e (f.srcs 1 1 0) ws 6 0 f.s

/-! ## ISA 1.1 (R148): VZ9 does not execute them -/

def execBdep (_ : V3) (s : State) : Out := s.begin none [] (·.p.mask) false fun c _ => .next (s.trap c (grpFault 0x01 2))
def execBext (_ : V3) (s : State) : Out := s.begin none [] (·.p.mask) false fun c _ => .next (s.trap c (grpFault 0x01 2))

end Sys2Proof.Machine
end

