-- ==== Sys2Proof/Machine/Flt.lean ====
section
/-!
DEFINITION. Class FLT (R149 to R155): one meaning per instruction.
-/
namespace Sys2Proof.Machine
open Sys2Proof.Num

/-- RM as a number. -/
def rmOf (f : V3) : Nat := f.x.rm.toNat

/-! ## Floating arithmetic (Table ALU-8) -/

/-- A sum of two terms, rounded once. -/
def State.fsum (s : State) (f : V3) (neg : Bool) : Out :=
  s.fltElem f true false (fltLat f) fun F a b _ r =>
    encodeSum F (rmOf f) f.x.sat r [decodeF F a, if neg then negFV (decodeF F b) else decodeF F b]
def execFadd (f : V3) (s : State) : Out := s.fsum f false
def execFsub (f : V3) (s : State) : Out := s.fsum f true
def execFmul (f : V3) (s : State) : Out :=
  s.fltElem f true false (fltLat f) fun F a b _ r => narrow F (rmOf f) f.x.sat r (mulFV (decodeF F a) (decodeF F b))
def execFma (f : V3) (s : State) : Out :=
  s.fltElem f true true (fltLat f) fun F a b c r =>
    encodeSum F (rmOf f) f.x.sat r [mulFV (decodeF F a) (decodeF F b), decodeF F c]
def execFmin (f : V3) (s : State) : Out := s.fltElem f true false (fltLat f) fun F a b _ _ => minMaxBits F false f.x.sat a b
def execFmax (f : V3) (s : State) : Out := s.fltElem f true false (fltLat f) fun F a b _ _ => minMaxBits F true f.x.sat a b
/-- a with another sign; a NaN gives the canonical NaN. -/
def withSign (F : FFmt) (neg : Bool) (a : Nat) : Nat × Nat :=
  if (decodeF F a).isNan then (F.nan, 0) else (a % 2 ^ (F.w - 1) + F.signBit neg, 0)
def execFabs (f : V3) (s : State) : Out := s.fltElem f false false (fltLat f) fun F a _ _ _ => withSign F false a
def execFneg (f : V3) (s : State) : Out := s.fltElem f false false (fltLat f) fun F a _ _ _ => withSign F (!signOf F a) a
def execFsign (f : V3) (s : State) : Out := s.fltElem f true false (fltLat f) fun F a b _ _ => withSign F (signOf F b) a

/-- R150: NV for a signaling NaN in the lanes where the guard holds. -/
def execFcmp (f : Cmp) (s : State) : Out :=
  let typ := f.x.typ.toNat
  let n := if typ = 1 then 2 else 1
  let a := usrc f.u f.a f.x.pa n 1
  let b := usrc f.u f.b f.x.pb n 2
  s.issue none [a, b] [a, b] (·.p.mask) f.s fun s c e =>
    let F := fltFmt typ
    let x := fun l => decodeF F (c.g.read a l % 2 ^ F.w)
    let y := fun l => decodeF F (c.g.read b l % 2 ^ F.w)
    let guard := cmpGuard c f.u f.x.gp f.x.gi
    let lanes := if f.u then [0] else lanesOf e
    let nv := !condQuiet f.x.cond.toNat && lanes.any fun l => guard l && ((x l).isSig || (y l).isSig)
    s.fixed c e [a, b]
      (cmpWrites f.u f.pd1.toNat f.pd2.toNat f.x.ct.toNat e guard (cmpOld c f.u f.pd1.toNat)
        fun l => condF f.x.cond.toNat (x l) (y l)) 4 (nvIf nv) f.s

/-! ## Special functions, division and square root (R151, R152, Table ALU-9) -/

/-- A special function of one value: an exact or sticky value and the flags of its special case. -/
def State.special (s : State) (f : V3) (fn : FV → FV × Nat) : Out :=
  s.fltElem f false false (if f.x.sub = 0 then 16 else 20) fun F a _ _ _ =>
    let x := decodeF F a
    match x with
    | .nan sig => (F.nan, nvIf sig)
    | _ => let (v, fl) := fn x; let (c, fl') := encodeF F 0 false 0 v; (c, orFlags fl fl')
/-- The invalid result. -/
def invalid : FV × Nat := (.nan false, NV)
def recipOf : FV → FV × Nat
  | .zero n => (.inf n, DZ)
  | .inf n => (.zero n, 0)
  | .fin m e => (divFV 1 0 m e, 0)
  | .nan g => (.nan g, 0)
def rsqOf : FV → FV × Nat
  | .zero n => (.inf n, DZ)
  | .inf false => (.zero false, 0)
  | .fin m e => if m < 0 then invalid else (rsqrtD m.natAbs e, 0)
  | _ => invalid
/-- 2^x; beyond 2^12 the result overflows or is tiny whatever x is. -/
def exp2Of : FV → FV × Nat
  | .inf true => (.zero false, 0)
  | .inf false => (.inf false, 0)
  | .fin m e => (if 12 ≤ (Nat.log2 m.natAbs : Int) + e then .fin 1 (if m < 0 then -5000 else 5000) else exp2D m e, 0)
  | _ => (.fin 1 0, 0)
def log2Of : FV → FV × Nat
  | .zero _ => (.inf true, DZ)
  | .inf false => (.inf false, 0)
  | .fin m e => if m < 0 then invalid else (log2D m.natAbs e, 0)
  | _ => invalid
/-- Whether m times 2^e is an integer. -/
def isInteger (m e : Int) : Bool := !(roundInt 1 0 m e).2
def sinpiOf : FV → FV × Nat
  | .zero n => (.zero n, 0)
  | .fin m e => (if isInteger m e then .zero (decide (m < 0)) else sinPi (mod2Fx m e), 0)
  | _ => invalid
def cospiOf : FV → FV × Nat
  | .zero _ => (.fin 1 0, 0)
  | .fin m e => (match sinPi ((mod2Fx m e + 2 ^ FX / 2) % (2 * 2 ^ FX)) with | .zero _ => .zero false | v => v, 0)
  | _ => invalid
def tanhOf : FV → FV × Nat
  | .inf n => (.fin (if n then -1 else 1) 0, 0)
  | .fin m e => (tanhD m e, 0)
  | v => (v, 0)
def execFrcp (f : V3) (s : State) : Out := s.special f recipOf
def execFrsq (f : V3) (s : State) : Out := s.special f rsqOf
def execFexp2 (f : V3) (s : State) : Out := s.special f exp2Of
def execFlog2 (f : V3) (s : State) : Out := s.special f log2Of
def execFsinpi (f : V3) (s : State) : Out := s.special f sinpiOf
def execFcospi (f : V3) (s : State) : Out := s.special f cospiOf
def execFtanh (f : V3) (s : State) : Out := s.special f tanhOf

/-- Round what a function of exact values gives, with its flags. -/
def roundOf (F : FFmt) (rm r : Nat) (x : FV × Nat) : Nat × Nat :=
  let (c, fl) := encodeF F rm false r x.1
  (c, orFlags fl x.2)
def sqrtOf : FV → FV × Nat
  | .nan g => (.nan g, nvIf g)
  | .zero n => (.zero n, 0)
  | .inf false => (.inf false, 0)
  | .fin m e => if m < 0 then invalid else (sqrtD m.natAbs e, 0)
  | _ => invalid
/-- The sign of a value that is no NaN. -/
def negOf : FV → Bool | .inf n | .zero n => n | .fin m _ => decide (m < 0) | .nan _ => false
def divOf (x y : FV) : FV × Nat :=
  let n := negOf x != negOf y
  match x, y with
  | .nan a, .nan b => (.nan false, nvIf (a || b))
  | .nan a, _ => (.nan false, nvIf a)
  | _, .nan b => (.nan false, nvIf b)
  | .inf _, .inf _ => invalid
  | .zero _, .zero _ => invalid
  | .inf _, _ => (.inf n, 0)
  | _, .inf _ => (.zero n, 0)
  | .zero _, _ => (.zero n, 0)
  | _, .zero _ => (.inf n, DZ)
  | .fin m e, .fin k g => (divFV m e k g, 0)
def execFsqrt (f : V3) (s : State) : Out :=
  s.fltElem f false false 28 fun F a _ _ r => roundOf F (rmOf f) r (sqrtOf (decodeF F a))
def execFdiv (f : V3) (s : State) : Out :=
  s.fltElem f true false 28 fun F a b _ r => roundOf F (rmOf f) r (divOf (decodeF F a) (decodeF F b))

/-! ## Conversions (R153, R154) -/

/-- An integral value of the format. -/
def rndOf (F : FFmt) (rm r : Nat) : FV → Nat × Nat
  | .fin m e =>
    let x := (roundInt rm r m e).1
    ((encodeF F 1 false 0 (if x = 0 then .zero (decide (m < 0)) else .fin x 0)).1, 0)
  | v => ((encodeF F 1 false 0 v).1, nvIf v.isSig)
def execFrnd (f : V3) (s : State) : Out :=
  s.fltElem f false false 6 fun F a _ _ r => rndOf F (rmOf f) r (decodeF F a)

/-- The other format or type of a conversion, and HALF (R153). -/
def cvCode (f : V3) : Nat := f.b.toNat % 4
def cvHalf (f : V3) : Nat := if f.b.getLsbD 2 then 1 else 0
/-- The 16-bit value in both halves. -/
def bothHalves (x : Nat × Nat) : Nat × Nat := (x.1 % 2 ^ 16 * (2 ^ 16 + 1), x.2)
/-- `fcvt` (R153). Between the two packed formats both halves are converted and HALF, which the rule leaves without a meaning there,
is not looked at (DESIGN CHOICE, log 86). -/
def execFcvt (f : V3) (s : State) : Out :=
  let g := cvCode f
  let G := fltFmt g
  s.computeF f (fltRegs g) (fltRegs f.fmt) 0 0 6 fun a _ _ r =>
    let cv := fun j k => narrow G (rmOf f) f.x.sat (randElem r k) (decodeF (fltFmt f.fmt) (elem f.fmt j a))
    if fltPacked f.fmt then (if fltPacked g then elems true fun j => cv j j else cv (cvHalf f) 0)
    else if fltPacked g then bothHalves (cv 0 0) else cv 0 0
/-- Width and signedness of an integer type code. -/
def intTyp (t : Nat) : Nat × Bool := (if 2 ≤ t then 64 else 32, t % 2 == 0)
/-- `f2i` (R153). SR takes the low 16 random bits for the one element that HALF selects, the high one too (DESIGN CHOICE, log 86). -/
def execF2i (f : V3) (s : State) : Out :=
  let (n, sg) := intTyp (cvCode f)
  s.computeF f (if n = 64 then 2 else 1) (fltRegs f.fmt) 0 0 6 fun a _ _ r =>
    let j := if fltPacked f.fmt then cvHalf f else 0
    let (x, fl) := toInt n sg (rmOf f) (randElem r 0) (decodeF (fltFmt f.fmt) (elem f.fmt j a))
    (wrapN 64 x, fl)
def execI2f (f : V3) (s : State) : Out :=
  let (n, sg) := intTyp (cvCode f)
  s.computeF f (fltRegs f.fmt) (if n = 64 then 2 else 1) 0 0 6 fun a _ _ r =>
    let x := encodeF (fltFmt f.fmt) (rmOf f) f.x.sat (randElem r 0) (ofInt (sx sg n (a % 2 ^ n)))
    if fltPacked f.fmt then bothHalves x else x

/-- The format code and byte number of a binary8 conversion (R154). -/
def cv8Fmt (f : V3) : B8 := B8.ofCode (f.b.toNat % 32)
def cv8Byte (f : V3) : Nat := f.b.toNat / 32 % 4
/-- R154: the other three bytes are those of d at issue, without STALE. -/
def execCvt8 (f : V3) (s : State) : Out :=
  let srcs := f.srcs 1 0 0 ++ f.srSrc
  s.issue none (srcs ++ [f.dst 1]) srcs f.mask f.s fun s c e =>
    let k := 2 ^ (8 * cv8Byte f)
    let val := fun l =>
      encode8 (cv8Fmt f) (rmOf f) f.x.sat (randElem (f.rand c.g l) 0) (decodeF f32 (c.g.read (f.srcA 1) l))
    let res := fun l =>
      let old := (c.g.lane? f.d.toNat l).getD 0
      old - old / k % 256 * k + (val l).1 * k
    let fl := (lanesOf e).foldl (fun acc l => orFlags acc (val l).2) 0
    s.fixed { c with g := f.stepSeq c.g e } e srcs (wrV f.d.toNat 1 e res) 6 fl f.s
def execExp8 (f : V3) (s : State) : Out :=
  s.compute f 1 1 0 0 6 fun _ a _ _ => (encodeF f32 0 false 0 (decode8 (cv8Fmt f) (a / 2 ^ (8 * cv8Byte f) % 256))).1

/-! ## Scale, class, clamp and dot forms (R155) -/

/-- a times 2^n; beyond 4,200 either way the result overflows or is tiny whatever n is. -/
def scaleFV (n : Int) : FV → FV
  | .fin m e => .fin m (e + clampInt (-4200) 4200 n)
  | v => v
def execFscale (f : V3) (s : State) : Out :=
  let n := fltRegs f.fmt
  s.computeF f n n 1 0 6 fun a b _ r =>
    elems (fltPacked f.fmt) fun j =>
      let F := fltFmt f.fmt
      let k := if fltPacked f.fmt then signExt 16 (elem f.fmt j b) else signExt 32 b
      narrow F (rmOf f) f.x.sat (randElem r j) (scaleFV k (decodeF F (elem f.fmt j a)))
/-- The mask of `fclass`. -/
def classOf (F : FFmt) (v : FV) : Nat :=
  match v with
  | .nan sig => if sig then 256 else 512
  | .inf n => if n then 1 else 128
  | .zero n => if n then 8 else 16
  | .fin m e =>
    let sub := decide ((Nat.log2 m.natAbs : Int) + e < 1 - F.bias)
    if m < 0 then (if sub then 4 else 2) else (if sub then 32 else 64)
def execFclass (f : V3) (s : State) : Out :=
  s.compute f 1 (fltRegs f.fmt) 0 0 6 fun _ a _ _ =>
    let F := fltFmt f.fmt
    (elems (fltPacked f.fmt) fun j => (classOf F (decodeF F (elem f.fmt j a)), 0)).1
def execFclamp (f : V3) (s : State) : Out :=
  s.fltElem f true true 6 fun F a b c _ =>
    let fl := sigFlag [decodeF F a, decodeF F b, decodeF F c]
    if (decodeF F a).isNan then (F.nan, fl)
    else ((minMaxBits F false false (minMaxBits F true false a b).1 c).1, fl)
def execFdot2 (f : V3) (s : State) : Out :=
  s.computeF f 1 1 1 1 8 fun a b c r =>
    let F := fltFmt f.fmt
    let pr := fun j => mulFV (decodeF F (elem f.fmt j a)) (decodeF F (elem f.fmt j b))
    encodeSum f32 (rmOf f) f.x.sat (randElem r 0) [pr 0, pr 1, decodeF f32 c]
/-- Byte i of a value. -/
def byteN (x i : Nat) : Nat := x / 2 ^ (8 * i) % 256
/-- R155: FA and FB come from `b8fmt`. -/
def execFdot4b8 (f : V3) (s : State) : Out :=
  let srcs := f.srcs 1 1 1
  s.issue none (srcs ++ [f.dst 1]) srcs f.mask f.s fun s c e =>
    let fa := B8.ofCode (c.g.b8fmt.toNat % 32)
    let fb := B8.ofCode (c.g.b8fmt.toNat / 256 % 32)
    let val := fun l =>
      if fa.p = 0 ∨ fb.p = 0 then (f32.nan, NV)
      else
        let a := c.g.read (f.srcA 1) l
        let b := c.g.read (f.srcB 1) l
        encodeSum f32 (rmOf f) false 0
          (((List.range 4).map fun i => mulFV (decode8 fa (byteN a i)) (decode8 fb (byteN b i))) ++
            [decodeF f32 (c.g.read (f.srcC 1) l)])
    let fl := (lanesOf e).foldl (fun acc l => orFlags acc (val l).2) 0
    s.fixed c e srcs (wrV f.d.toNat 1 e fun l => (val l).1) 8 fl f.s
def execIdot4 (f : V3) (s : State) : Out :=
  s.compute f 1 1 1 1 8 fun _ a b c =>
    let pr : Nat → Int := fun i => sx (f.x.sub.getLsbD 0) 8 (byteN a i) * sx (f.x.sub.getLsbD 1) 8 (byteN b i)
    let t := pr 0 + pr 1 + pr 2 + pr 3 + signExt 32 c
    if f.x.sat then satN true 32 t else wrapN 32 t

end Sys2Proof.Machine
end

