-- ==== Sys2Proof/Machine/MemI.lean ====
section
/-!
DEFINITION. Class MEM (R156 to R164): loads, stores, atomics, the fence and the cache instructions. Accesses are performed
when they issue, and their results arrive later (DESIGN CHOICE, log 14, 15).
-/
namespace Sys2Proof.Machine
open Sys2Proof.Num

/-! ## Addresses and checks (R156, R157) -/

/-- The address of lane l (R156). -/
def Cur.memAddr (c : Cur) (base : BitVec 6) (a : Src) (imm : Int) (l : Nat) : Nat :=
  wrapN 64 (c.g.gval base.toNat + c.g.read a l + imm)
/-- The alignment an access of n bytes needs (R157). -/
def alignOf (n : Nat) : Nat := if n = 32 then 16 else n

/-- The checks of R157 on one address, in order. -/
def State.checkLane (s : State) (c : Cur) (addr n : Nat) (a : Acs) (scope : Nat) : (Miss ⊕ List Piece) × State :=
  if 2 ^ 57 ≤ addr then (.inl ⟨1, 0x09, 1, 0⟩, s)
  else if addr % alignOf n != 0 then (.inl ⟨2, 0x0A, 0, 0⟩, s)
  else s.reach c.c c.b.die c.b.core addr n a scope

/-- The checks on every lane: the lanes that fail, and where the others' bytes lie. -/
def State.checkLanes (s : State) (c : Cur) (addr : Nat → Nat) (n : Nat) (a : Acs) (scope : Nat) :
    List Nat → (List (Nat × Miss) × List (Nat × List Piece)) × State
  | [] => (([], []), s)
  | l :: ls => match s.checkLane c (addr l) n a scope with
    | (.inl m, s) => let ((ms, ps), s) := State.checkLanes s c addr n a scope ls; (((l, m) :: ms, ps), s)
    | (.inr p, s) => let ((ms, ps), s) := State.checkLanes s c addr n a scope ls; ((ms, (l, p) :: ps), s)

/-- The lane fault of R157: the first cause in its order that some lane meets, on every lane that meets it. -/
def memFault (u : Bool) (e : Mask) (addr : Nat → Nat) (ms : List (Nat × Miss)) : Fault2 :=
  let best := ms.foldl (fun (b : Nat × Miss) x => if x.2.rank < b.2.rank then x else b) (ms.headD (0, ⟨9, 9, 1, 0⟩))
  let fm := if u then e else maskOf fun l => ms.any fun x => x.1 == l && x.2.rank == best.2.rank
  { cause := best.2.cause, sub := best.2.sub, lane := true, fmask := fm, exta := true, faddr := addr (lowLane fm),
    ext := (List.range 32).map fun l => if e.getLsbD l then addr l else 0 }

/-- The lanes that access: those of E in rising order (R158), or one for the group. -/
def accLanes (u : Bool) (e : Mask) : List Nat := if u then [lowLane e] else lanesOf e

/-- Check an access of n bytes in every lane of E; the instruction traps, or goes on with where the bytes lie. -/
def State.access (s : State) (c : Cur) (u : Bool) (e : Mask) (addr : Nat → Nat) (n : Nat) (a : Acs) (scope : Nat)
    (k : State → List (Nat × List Piece) → Out) : Out :=
  match s.checkLanes c addr n a scope (accLanes u e) with
  | (([], ps), s) => k s ps
  | ((ms, _), s) => .next (s.trap c (memFault u e addr ms))

/-- The lanes of a result that has one value for the group under U = 1: E, or the lane itself. -/
def hitLanes (u : Bool) (e : Mask) (ls : List Nat) : Mask :=
  if u then (if ls.isEmpty then 0 else e) else maskOf fun l => ls.contains l
/-- The address of every lane of E (R157). -/
def laneAddrs (e : Mask) (addr : Nat → Nat) : List Nat := (List.range 32).map fun l => if e.getLsbD l then addr l else 0
/-- The lanes whose data was poisoned, for the POISON fault of R160: none if there is none. -/
def poisonOf (u : Bool) (e : Mask) (addr : Nat → Nat) (bad : List Nat) : Option (Mask × List Nat) :=
  if bad.isEmpty then none else some (hitLanes u e bad, laneAddrs e addr)

/-! ## ld and the st forms (R161) -/

/-- Bytes of W (Table MEM-1). -/
def wBytes (w : Nat) : Nat := match w with | 0 | 1 => 1 | 2 | 3 => 2 | 4 => 4 | 5 => 8 | 6 => 16 | _ => 32
/-- `Extend`: to 32 bits a lane, or 64 for the group. -/
def extendW (u : Bool) (w x : Nat) : Nat :=
  if w = 1 then wrapN (if u then 64 else 32) (signExt 8 x)
  else if w = 3 then wrapN (if u then 64 else 32) (signExt 16 x)
  else x
/-- The value of a lane in a list of lane values. -/
def laneVal (xs : List (Nat × Nat)) (l : Nat) : Nat := match xs.find? (·.1 == l) with | some x => x.2 | none => 0

/-- Read every lane's bytes: the values, and the lanes with poisoned data. -/
def State.readLanes (s : State) : List (Nat × List Piece) → (List (Nat × Nat) × List Nat) × State
  | [] => (([], []), s)
  | (l, ps) :: rest =>
    let ((bs, bad), s) := s.readPieces ps
    let ((xs, bads), s) := State.readLanes s rest
    (((l, leVal bs) :: xs, if bad then l :: bads else bads), s)
/-- Write every lane's bytes in order. -/
def State.writeLanes (s : State) (n : Nat) (val : Nat → Nat) : List (Nat × List Piece) → State
  | [] => s
  | (l, ps) :: rest => State.writeLanes (s.writePieces ps (leBytes n (val l))) n val rest

/-- One instruction has written pieces: a granule that they cover whole loses its poison (R160), but one behind a port that is down,
where nothing is written (R372). -/
def State.unpoisonAll (s : State) (ps : List Piece) : State :=
  let ws := (ps.filter fun p => !s.inAperture p && !s.cxlIsDown p.pa).map fun p => (s.home p.pa, p.len)
  { s with poison := s.poison.filter fun g => !coversGranule ws g }
/-- Result writes of a destination by U. -/
def wrD (u : Bool) (d regs : Nat) (e : Mask) (val : Nat → Nat) : List Wr :=
  if u then wrG d (val (lowLane e)) else wrV d regs e val

/-! ## Accesses through the domain aperture (R158, R375, R379) -/

/-- A part of a lane's access that lies in the domain aperture: the lane, the part's first byte, where it lies, what it asks for. -/
abbrev ApPart := Nat × Nat × Piece × Asking
/-- The parts of the lanes' accesses that lie there; `ask` is what a lane asks for, with the bytes that it writes. -/
def State.apParts (s : State) (ask : Nat → Asking) (ps : List (Nat × List Piece)) : List ApPart :=
  ps.flatMap fun x => ((x.2.foldl (fun (acc : List ApPart × Nat) p =>
    let a := ask x.1
    (acc.1 ++ [(x.1, acc.2, p, { a with data := if a.code = 1 then (a.data.drop acc.2).take p.len else a.data })], acc.2 + p.len))
    ([], 0)).1).filter fun y => s.inAperture y.2.2.1
/-- One request for each part, in order. -/
def State.askEach (s : State) (port : Option Nat) : List ApPart → List (Nat × Nat × Nat × Nat × Nat) × State
  | [] => ([], s)
  | (l, off, p, q) :: xs =>
    let (tag, s) := s.requestVia port p q
    let (ys, s) := State.askEach s port xs
    ((l, off, p.len, tag, 0) :: ys, s)
/-- The first byte of the parts in a granule, and the byte after the last. -/
def apHull (xs : List ApPart) (g : Nat) : Nat × Nat :=
  let ps := (xs.map (·.2.2.1)).filter (·.pa / 64 == g)
  (ps.foldl (fun m p => min m p.pa) (64 * g + 63), ps.foldl (fun m p => max m (p.pa + p.len)) 0)
/-- One request for each granule that a load reads, so that every lane reads the same bytes (R158). -/
def State.askGrans (s : State) (port : Option Nat) (xs : List ApPart) : List Nat → List (Nat × Nat × Nat × Nat × Nat) × State
  | [] => ([], s)
  | g :: gs =>
    let (lo, hi) := apHull xs g
    let (tag, s) := s.requestVia port { pa := lo, len := hi - lo, key := none } {}
    let (ys, s) := State.askGrans s port xs gs
    (((xs.filter (·.2.2.1.pa / 64 == g)).map fun x => (x.1, x.2.1, x.2.2.1.len, tag, x.2.2.1.pa - lo)) ++ ys, s)
/-- The requests of the operation that a group has issued last leave for other packages, all on one port, so that they reach a package
in the order of the lanes (R158, R374): the operation completes once its targets have answered (R379), with what they answer. -/
def State.asks (s : State) (r : PRef) (aw : Option Await) (xs : List ApPart) : State :=
  if xs.isEmpty ∨ s.linkFailed then s
  else
    let id := s.uid - 1
    let (port, s) := s.pickPort
    let (parts, s) := if aw.any (·.op.isNone) then s.askGrans port xs ((xs.map (·.2.2.1.pa / 64)).eraseDups) else s.askEach port xs
    s.updGroup r.blk r.grp fun g => { g with flights := g.flights.map fun (f : Flight) =>
      if f.id = id then
        { f with due := none, tags := (parts.map (·.2.2.2.1)).eraseDups, ask := aw.map fun a => { a with parts := parts } }
      else f }

/-- Bytes of a value from byte off on, replaced by others. -/
def patchBytes (v off n x : Nat) : Nat := v - v / 2 ^ (8 * off) % 2 ^ (8 * n) * 2 ^ (8 * off) + x % 2 ^ (8 * n) * 2 ^ (8 * off)
/-- An answer gives its parts their bytes. -/
def Await.take (a : Await) (tag : Nat) (bs : List Byte) (bad : Bool) : Await :=
  { a with lanes := a.lanes.map fun x => (a.parts.filter fun p => p.1 == x.1 && p.2.2.2.1 == tag).foldl (fun x p =>
      (x.1, patchBytes x.2.1 p.2.1 p.2.2.1 (leVal ((bs.drop p.2.2.2.2).take p.2.2.1)), x.2.2 || bad)) x }

def execLd (f : M) (s : State) : Out :=
  let a := usrc f.u f.a (paramShort f.a) 1 1
  let w := f.w.toNat
  let n := if f.u then 1 else wRegs f.w
  let srcs := [a, gfld f.base]
  s.issue none (srcs ++ [{ grp := f.u, num := f.d.toNat, n := n }]) srcs (·.mask f.u f.x.gp f.x.gi) f.s fun s c e =>
    let addr := c.memAddr f.base a f.x.imm.toInt
    s.access c f.u e addr (wBytes w) .read f.x.scope.toNat fun s ps =>
      s.allocate c e srcs (if f.u then 0 else n) (if f.u && f.d != 0 then 1 else 0) fun s =>
        let ((xs, bad), t) := s.readLanes ps
        let away := s.apParts (fun _ => {}) ps
        .next ((t.putLater c e srcs
          { id := 0, slot := 0, due := none, cls := .dl, board := !away.isEmpty, poison := poisonOf f.u e addr bad,
            writes := wrD f.u f.d.toNat n e fun l => extendW f.u w (laneVal xs l) } f.s).asks c.ref
          (some { u := f.u, e := e, w := w, d := some f.d.toNat, regs := n, lanes := xs.map fun x => (x.1, x.2, bad.contains x.1),
                  parts := [], addrs := laneAddrs e addr }) away)

/-- A store of n bytes from n/4 registers, or one. -/
def State.store (s : State) (f : MS) (n : Nat) : Out :=
  let a := usrc f.u f.a (paramShort f.a) 1 1
  let data := usrc f.u f.data (paramShort f.data) (if n < 4 then 1 else n / 4) 4
  let srcs := [a, data, gfld f.base]
  s.issue none srcs srcs (·.mask f.u f.x.gp f.x.gi) f.s fun s c e =>
    let addr := c.memAddr f.base a f.x.imm.toInt
    s.access c f.u e addr n .write f.x.scope.toNat fun s ps =>
      let t := (s.writeLanes n (fun l => c.g.read data l) ps).unpoisonAll (ps.flatMap (·.2))
      .next ((t.putLater c e srcs { id := 0, slot := 0, due := none, cls := .ds, store := true } f.s).asks c.ref none
        (s.apParts (fun l => { code := 1, data := leBytes n (c.g.read data l) }) ps))
def execSt8 (f : MS) (s : State) : Out := s.store f 1
def execSt16 (f : MS) (s : State) : Out := s.store f 2
def execSt32 (f : MS) (s : State) : Out := s.store f 4
def execSt64 (f : MS) (s : State) : Out := s.store f 8
def execSt128 (f : MS) (s : State) : Out := s.store f 16
def execSt256 (f : MS) (s : State) : Out := s.store f 32

/-! ## Atomics (R162, R186) -/

/-- What an operation makes of an old value, data and a compare value of w bits: the new value and flags (Table MEM-2). -/
def amNew (op : AmOp) (w old x y : Nat) : Nat × Nat := match op with
  | .add => ((old + x) % 2 ^ w, 0)
  | .min sg => (if sx sg w old ≤ sx sg w x then old else x, 0)
  | .max sg => (if sx sg w old ≤ sx sg w x then x else old, 0)
  | .and => (old &&& x, 0)
  | .or => (old ||| x, 0)
  | .xor => (old ^^^ x, 0)
  | .xch => (x, 0)
  | .cas => (if old = y then x else old, 0)
  | .fadd fmt => elems (fltPacked fmt) fun j =>
      encodeSum (fltFmt fmt) 0 false 0 [decodeF (fltFmt fmt) (elem fmt j old), decodeF (fltFmt fmt) (elem fmt j x)]
  | .inc => (if x ≤ old then 0 else old + 1, 0)

/-- Read, compute and write in every lane in order: the old values, the flags, the lanes on poisoned bytes, which are not
modified (R160). `new` gets the lane and the old value. -/
def State.atomicLanes (s : State) (n : Nat) (new : Nat → Nat → Nat × Nat) :
    List (Nat × List Piece) → (List (Nat × Nat) × Nat × List Nat) × State
  | [] => (([], 0, []), s)
  | (l, ps) :: rest =>
    let ((bs, bad), s) := s.readPieces ps
    let old := leVal bs
    let (m, fl) := new l old
    let s := if bad then s else s.writePieces ps (leBytes n m)
    let ((xs, fls, bads), s) := State.atomicLanes s n new rest
    (((l, old) :: xs, if bad then fls else orFlags fl fls, if bad then l :: bads else bads), s)

/-- The values of the lanes. -/
def Await.val (a : Await) (l : Nat) : Nat := laneVal (a.lanes.map fun x => (x.1, x.2.1)) l
/-- What an operation writes once it has every answer: a load the extended values, an atomic the old ones. -/
def Await.writes (a : Await) : List Wr := match a.d with
  | none => []
  | some d => wrD a.u d a.regs a.e fun l => if a.op.isNone then extendW a.u a.w (a.val l) else a.val l
/-- The flags that an atomic's lanes raise, of those that are not poisoned (R160). -/
def Await.flags (a : Await) : Nat := match a.op with
  | none => 0
  | some op => (a.lanes.filter (!·.2.2)).foldl (fun fl x => match a.data.find? (·.1 == x.1) with
      | some y => orFlags fl (amNew op (8 * a.w) x.2.1 y.2.1 y.2.2).2
      | none => fl) 0
/-- The POISON of its lanes. -/
def Await.poison (a : Await) : Option (Mask × List Nat) :=
  let bad := (a.lanes.filter (·.2.2)).map (·.1)
  if bad.isEmpty then none else some (hitLanes a.u a.e bad, a.addrs)
/-- An operation that has every answer has its results (R379). -/
def Flight.resolve (f : Flight) : Flight := match f.ask with
  | none => f
  | some a => { f with ask := none, writes := a.writes, flags := a.flags, poison := a.poison }
/-- What an answer makes of an operation that awaits it: it completes with the last. -/
def Flight.answer (cc tag : Nat) (bs : List Byte) (bad : Bool) (f : Flight) : Flight :=
  if !f.tags.contains tag then f
  else
    let left := f.tags.erase tag
    let f := { f with tags := left, due := dueAfter cc left, ask := f.ask.map (·.take tag bs bad) }
    if left.isEmpty then f.resolve else f
/-- Every answer fails: reads and atomics are poisoned there (R375). -/
def Flight.unanswered (cc : Nat) (f : Flight) : Flight := f.tags.foldl (fun f tag => f.answer cc tag [] true) f

/-- Mark the block: SIDE (R316). -/
def State.sided (s : State) (blk : Nat) : State := s.updBlock blk fun b => { b with side := true }

/-- An instruction of class MEM that updates memory by an operation of Table MEM-2. -/
def State.atomic (s : State) (f : At) (op : AmOp) : Out :=
  let cmp := op == .cas
  let a := usrc f.u f.a (paramShort f.a) 1 1
  let regs := if f.u then 1 else wRegs f.w
  let n := wBytes f.w.toNat
  let data := usrc f.u f.x.data (paramShort f.x.data) regs 4
  let cm := usrc f.u f.x.cmp (paramShort f.x.cmp) regs 4
  let srcs := [a, data, gfld f.base] ++ (if cmp then [cm] else [])
  let dst : List Src := if atNr f then [] else [{ grp := f.u, num := f.d.toNat, n := regs }]
  s.issue none (srcs ++ dst) srcs (·.mask f.u f.x.gp f.x.gi) f.s fun s c e =>
    let addr := c.memAddr f.base a 0
    s.access c f.u e addr n .both f.x.scope.toNat fun s ps =>
      let nv := if atNr f || f.u then 0 else regs
      let ng := if atNr f || !f.u || f.d == 0 then 0 else 1
      s.allocate c e srcs nv ng fun s =>
        let low := fun (x : Nat) => x % 2 ^ (8 * n)
        let fn := fun l old => amNew op (8 * n) old (low (c.g.read data l)) (if cmp then low (c.g.read cm l) else 0)
        let ((xs, fl, bad), t) := s.atomicLanes n fn ps
        let x := fun l => low (c.g.read data l)
        let y := fun l => if cmp then low (c.g.read cm l) else 0
        let away := s.apParts (fun l => { code := 2 + amCode op, data := leBytes n (x l) ++ (if cmp then leBytes n (y l) else []) }) ps
        .next (((t.sided c.ref.blk).putLater c e srcs
          { id := 0, slot := 0, due := none, cls := .da, board := !away.isEmpty, flags := fl, poison := poisonOf f.u e addr bad,
            writes := if atNr f then [] else wrD f.u f.d.toNat regs e (laneVal xs) } f.s).asks c.ref
          (some { u := f.u, e := e, w := n, d := if atNr f then none else some f.d.toNat, regs := regs, op := some op,
                  data := ps.map fun p => (p.1, x p.1, y p.1), lanes := xs.map fun x => (x.1, x.2, bad.contains x.1), parts := [],
                  addrs := laneAddrs e addr }) away)

/-- Whether `amin` and `amax` read signed values (Table MEM-2). -/
def atSigned (f : At) : Bool := typLo f == 1
def execAmadd (f : At) (s : State) : Out := s.atomic f .add
def execAmin (f : At) (s : State) : Out := s.atomic f (.min (atSigned f))
def execAmax (f : At) (s : State) : Out := s.atomic f (.max (atSigned f))
def execAmand (f : At) (s : State) : Out := s.atomic f .and
def execAmor (f : At) (s : State) : Out := s.atomic f .or
def execAmxor (f : At) (s : State) : Out := s.atomic f .xor
def execAmxch (f : At) (s : State) : Out := s.atomic f .xch
def execAmcas (f : At) (s : State) : Out := s.atomic f .cas
def execAmfadd (f : At) (s : State) : Out :=
  s.atomic f (.fadd (if typLo f = 2 then 2 else if typLo f = 3 then 3 else if f.w = 5 then 1 else 0))
def execAminc (f : At) (s : State) : Out := s.atomic f .inc

/-! ## fence, pref, cwb and cinv (R163, R164) -/

/-- R163. Every earlier access has been performed at its issue (DESIGN CHOICE, log 14), so the fence's conditions are met. -/
def execFence (f : M) (s : State) : Out :=
  s.issue none [] [] (·.maskP f.x.gp f.x.gi) f.s fun s c e => .next (s.done c e [] f.s)
/-- R164: no architectural effect. -/
def execPref (f : M) (s : State) : Out :=
  let srcs := [vsrc f.a (paramShort f.a) 1 1, gfld f.base]
  s.issue none srcs srcs (·.maskP f.x.gp f.x.gi) f.s fun s c e => .next (s.done c e srcs f.s)
/-- A write-back, counted under DS until it completes. -/
def State.writeBack (s : State) (f : M) : Out :=
  let srcs := [vsrc f.a (paramShort f.a) 1 1, gfld f.base]
  s.issue none srcs srcs (·.maskP f.x.gp f.x.gi) f.s fun s c e =>
    .next (s.putLater c e srcs { id := 0, slot := 0, due := none, cls := .ds, store := true } f.s)
def execCwb (f : M) (s : State) : Out := s.writeBack f
def execCinv (f : M) (s : State) : Out := s.writeBack f

end Sys2Proof.Machine
end

