-- ==== Sys2Proof/Machine/Loc.lean ====
section
/-!
DEFINITION. Class LOC (R165 to R179) without its checked waits: buffers and handles, scratchpad access with its switched-off
lanes, the fault mask, and the hardware queues.
-/
namespace Sys2Proof.Machine
open Sys2Proof.Num

/-! ## Buffers and handles (R165 to R168) -/

/-- Holder ID (Table MEM-4). -/
def holderId (b : Block) (kind : Nat) : Nat := b.core + 64 * b.bslot + 1024 * kind + 4096 * b.bgen
/-- The handle of an entry (Table MEM-3). -/
def Buf.handle (u : Buf) : Nat := u.gen + 65536 * u.index + 2 ^ 26 * u.slice
def State.buf? (s : State) (die slice index : Nat) : Option Buf :=
  s.bufs.find? fun u => u.die == die && u.slice == slice && u.index == index
def State.setBuf (s : State) (u : Buf) : State :=
  { s with bufs := s.bufs.map fun x => if x.die = u.die ∧ x.slice = u.slice ∧ x.index = u.index then u else x }

/-- What a handle names on a die: a bad handle, a stale one, or a buffer (R165, R174). -/
inductive HRes
  | bad
  | stale
  | buf (u : Buf)
  deriving DecidableEq, Repr
def State.handle (s : State) (die h : Nat) : HRes :=
  if 2 ^ 32 ≤ h ∨ h = 0 ∨ 56 ≤ h / 2 ^ 26 then .bad
  else match s.buf? die (h / 2 ^ 26) (h / 65536 % 1024) with
    | none => .bad
    | some u => if u.gen = h % 65536 ∧ u.st ≠ .free then .buf u else .stale

/-- Whether a block itself holds a buffer. -/
def Buf.heldBy (u : Buf) (b : Block) : Bool := u.st == .held && u.holder == b.id && u.holderKind == 0
/-- The block a holder ID names on a die, if it is live and has that context (R166). -/
def State.holderBlock (s : State) (die id : Nat) : Option (Block × Nat) :=
  if 2 ^ 28 ≤ id ∨ id / 1024 % 4 = 3 then none
  else match s.blocks.find? (fun b => b.die == die && b.core == id % 64 && b.bslot == id / 64 % 16 && b.bgen == id / 4096) with
    | some b => if id / 1024 % 4 = 2 ∧ !b.mtx.present then none else some (b, id / 1024 % 4)
    | none => none

/-- A buffer's range in bytes. -/
def roundUp (n unit : Nat) : Nat := (n + unit - 1) / unit * unit
/-- Free an entry: its generation advances by 1, skipping 0, and its range returns to the reservation of the block it belongs
to, while that block is there (Table MEM-5). -/
def State.freeBuf (s : State) (u : Buf) : State :=
  let s := s.setBuf { u with st := .free, gen := if u.gen = 65535 then 1 else u.gen + 1, bytes := [], valid := [],
                             size := 0, writers := [] }
  s.updBlock u.owner fun b => { b with scratchLeft := b.scratchLeft + roundUp u.size 128 }

/-- A HANDLE fault (Table MEM-7). -/
def handleFault (sub h : Nat) : Fault2 := { cause := 0x18, sub := sub, faddr := h }

/-- A LOC instruction that acts once for the group under a lane guard (R168). -/
def State.locGroup (s : State) (f : M) (uses srcs : List Src) (effect : State → Cur → Mask → Out) : Out :=
  s.issue none uses srcs (·.maskP f.x.gp f.x.gi) f.s effect

/-- Entries of a slice that a buffer can take: those never given out, and those FREE. -/
def State.freeEntries (s : State) (die slice : Nat) : List Nat :=
  (List.range 1024).filter fun i => match s.buf? die slice i with
    | none => true
    | some u => u.st == .free

/-- Allocate n bytes for a block: the handle; 0 where there is no room or no entry. -/
def State.allocBuf (s : State) (b : Block) (n : Int) : Nat × State :=
  let free := s.freeEntries b.die b.core
  if n < 1 ∨ b.scratchLeft < roundUp n.toNat 128 ∨ free.isEmpty then (0, s)
  else
    let (i, s) := s.pick free
    let size := n.toNat
    let u : Buf :=
      { die := b.die, slice := b.core, index := i, gen := match s.buf? b.die b.core i with | some u => u.gen | none => 1,
        poison := match s.buf? b.die b.core i with | some u => u.poison | none => []
        st := .held, owner := b.id, holder := b.id, size := size }
    let s := { s with bufs := u :: s.bufs.filter fun x => !(x.die == b.die && x.slice == b.core && x.index == i) }
    (u.handle, s.updBlock b.id fun b => { b with scratchLeft := b.scratchLeft - roundUp size 128 })

def execHalloc (f : M) (s : State) : Out :=
  let a := gsrc f.a 1 1
  s.locGroup f [a, gfld f.d] [a] fun s c e =>
    s.allocate c e [a] 0 (if f.d = 0 then 0 else 1) fun s =>
      let (h, s) := s.allocBuf c.b (c.g.read a 0 + f.x.imm.toInt)
      .next (s.putLater c e [a] { id := 0, slot := 0, due := none, cls := .dl, writes := wrG f.d.toNat h } f.s)
def execHfree (f : M) (s : State) : Out :=
  s.locGroup f [gfld f.base] [gfld f.base] fun s c e =>
    let h := c.g.gval f.base.toNat
    match s.handle c.b.die h with
    | .bad => .next (s.trap c (handleFault 6 h))
    | .stale => .next (s.trap c (handleFault 1 h))
    | .buf u =>
      if !u.heldBy c.b then .next (s.trap c (handleFault 2 h))
      else .next ((s.freeBuf u).putLater c e [] { id := 0, slot := 0, due := none, cls := .ds, store := true } f.s)
/-- A buffer has been passed: a claim by another holder that waits for it ends with HANDLE (R169). -/
def State.passed (s : State) (die h target kind : Nat) : State :=
  s.wake fun b on => match on with
    | .claim k _ _ => if b.die = die ∧ k = h ∧ ¬(b.id = target ∧ kind = 0) then some (some (handleFault 5 h)) else none
    | _ => none
def execHpass (f : M) (s : State) : Out :=
  let a := gsrc f.a 1 1
  s.locGroup f [gfld f.base, a] [a, gfld f.base] fun s c e =>
    let h := c.g.gval f.base.toNat
    match s.handle c.b.die h with
    | .bad => .next (s.trap c (handleFault 6 h))
    | .stale => .next (s.trap c (handleFault 1 h))
    | .buf u =>
      if !u.heldBy c.b then .next (s.trap c (handleFault 2 h))
      else match s.holderBlock c.b.die (c.g.read a 0) with
        | none => .next (s.trap c (handleFault 3 h))
        | some (t, kind) =>
          if t.ctx != c.b.ctx then .next (s.trap c (handleFault 4 h))
          else
            let s := s.setBuf { u with st := .transfer, target := t.id, targetKind := kind }
            let s := (s.sided c.ref.blk).putLater c e [a] { id := 0, slot := 0, due := none, cls := .ds, store := true } f.s
            .next (s.passed c.b.die h t.id kind)
/-- The answer of `hinfo` (Table MEM-8). -/
def State.hinfoVal (s : State) (b : Block) (sel h : Nat) : Nat :=
  if sel = 3 then holderId b 0
  else match s.handle b.die h with
    | .buf u =>
      if sel = 0 then u.size
      else if sel = 1 then (if u.st = .carried then 0 else match s.block? u.holder with | some o => holderId o u.holderKind | none => 0)
      else (if u.st = .transfer then 2 else 1) + (if u.heldBy b then 4 else 0)
    | _ => 0
def execHinfo (f : M) (s : State) : Out :=
  s.locGroup f [gfld f.base, gfld f.d] [gfld f.base] fun s c e =>
    s.variable c e [] (wrG f.d.toNat (s.hinfoVal c.b f.w.toNat (c.g.gval f.base.toNat))) .dl f.s

/-! ## Scratchpad access (R171 to R174) -/

/-- Byte offset of lane l. -/
def Cur.locOff (c : Cur) (a : Src) (imm : Int) (l : Nat) : Int := c.g.read a l + imm
/-- The 64-byte granules that n bytes at an offset touch. -/
def granules (o n : Nat) : List Nat := (List.range (n / 64 + 2)).map (o / 64 + ·) |>.filter fun g => g * 64 < o + n
/-- The first failing check of Table MEM-9; 0 if none. -/
def State.laneKind (s : State) (b : Block) (h : Nat) (o : Int) (n align : Nat) (reads : Bool) : Nat :=
  match s.handle b.die h with
  | .bad => 5
  | .stale => 4
  | .buf u =>
    if !u.heldBy b then 1
    else if o % align != 0 then 6
    else if o < 0 ∨ (u.size : Int) < o + n then 2
    else if reads && (granules o.toNat n).any fun g => !u.valid.contains g then 3
    else 0

/-- The lanes that a scratchpad access switches off, with their kinds, and those that perform (R174). -/
def State.laneKinds (s : State) (c : Cur) (u : Bool) (e : Mask) (h : Nat) (off : Nat → Int) (n align : Nat)
    (reads : Bool) : List (Nat × Nat) :=
  let kinds := (accLanes u e).map fun l => (l, s.laneKind c.b h (off l) n align reads)
  if u then (lanesOf e).map fun l => (l, (kinds.headD (0, 0)).2) else kinds

/-- Record the kinds of lanes switched off, and take the lanes out of the group (R174). -/
def State.switchOff (s : State) (bid gid : Nat) (bad : List (Nat × Nat)) : State :=
  if bad.isEmpty then s else
  let m := maskOf fun l => bad.any (·.1 == l)
  let s := s.updGroup bid gid fun g =>
    { g with fm := g.fm ||| m
             kinds := (List.range 32).map fun l => match bad.find? (·.1 == l) with | some x => x.2 | none => g.kinds.getD l 0 }
  s.exitLanes bid gid m

/-- A scratchpad access: check every lane of E, let those that pass perform, then switch the others off. `perform` gets the
lanes that pass. -/
def State.locAccess (s : State) (c : Cur) (u sbit : Bool) (e : Mask) (h : Nat) (off : Nat → Int) (n align : Nat)
    (reads : Bool) (srcs : List Src) (nv ng : Nat) (perform : State → Buf → Mask → Flight × State) : Out :=
  let kinds := s.laneKinds c u e h off n align reads
  let bad := kinds.filter (·.2 != 0)
  let ok := maskOf fun l => kinds.any fun x => x.1 == l && x.2 == 0
  if ok = 0 then .next ((s.done c e srcs sbit).switchOff c.ref.blk c.ref.grp bad)
  else match s.handle c.b.die h with
    | .buf b => s.allocate c e srcs nv ng fun s =>
      let (fl, s) := perform s b ok
      .next ((s.putLater c e srcs fl sbit).switchOff c.ref.blk c.ref.grp bad)
    | _ => .next (s.done c e srcs sbit)

/-- One instruction or copy request has written stretches: a granule that they cover whole loses its poison (R160). -/
def Buf.unpoison (b : Buf) (ws : List (Nat × Nat)) : Buf := { b with poison := b.poison.filter fun g => !coversGranule ws g }
/-- Write bytes into a buffer at an offset: the granules become valid. -/
def Buf.write (b : Buf) (o : Nat) (bs : List Byte) : Buf :=
  let gs := granules o bs.length
  { b with bytes := Memory.writeN b.bytes o bs, valid := (gs.filter fun g => !b.valid.contains g) ++ b.valid }
/-- Whether n bytes at an offset touch poison. -/
def Buf.poisoned (b : Buf) (o n : Nat) : Bool := (granules o n).any b.poison.contains

/-- The lanes that perform, in order. -/
def perfLanes (u : Bool) (ok : Mask) : List Nat := if u then [lowLane ok] else lanesOf ok

def execSld (f : M) (s : State) : Out :=
  let a := usrc f.u f.a (paramShort f.a) 1 1
  let n := wBytes f.w.toNat
  let regs := if f.u then 1 else wRegs f.w
  let srcs := [a, gfld f.base]
  s.issue none (srcs ++ [{ grp := f.u, num := f.d.toNat, n := regs }]) srcs (·.mask f.u f.x.gp f.x.gi) f.s fun s c e =>
    let off := c.locOff a f.x.imm.toInt
    s.locAccess c f.u f.s e (c.g.gval f.base.toNat) off n n true srcs (if f.u then 0 else regs)
      (if f.u && f.d != 0 then 1 else 0) fun s b ok =>
        let val := fun l => extendW f.u f.w.toNat (leVal (Memory.readN b.bytes (off l).toNat n))
        let bad := (perfLanes f.u ok).filter fun l => b.poisoned (off l).toNat n
        ({ id := 0, slot := 0, due := none, cls := .dl, poison := poisonOf f.u ok (fun l => (off l).toNat) bad,
           writes := wrD f.u f.d.toNat regs ok val }, s)

/-- A scratchpad store of n bytes; `fill` repeats a word over 64 (R173). -/
def State.locStore (s : State) (f : MS) (n : Nat) (fill : Bool) : Out :=
  let a := usrc f.u f.a (paramShort f.a) 1 1
  let data := usrc f.u f.data (paramShort f.data) (if n < 4 || fill then 1 else n / 4) 4
  let srcs := [a, data, gfld f.base]
  s.issue none srcs srcs (·.mask f.u f.x.gp f.x.gi) f.s fun s c e =>
    let off := c.locOff a f.x.imm.toInt
    s.locAccess c f.u f.s e (c.g.gval f.base.toNat) off n n false srcs 0 0 fun s b ok =>
      let bytes := fun l =>
        if fill then (List.replicate 16 (leBytes 4 (c.g.read data l))).flatten else leBytes n (c.g.read data l)
      let b := (perfLanes f.u ok).foldl (fun b l => b.write (off l).toNat (bytes l)) b
      let b := b.unpoison ((perfLanes f.u ok).map fun l => ((off l).toNat, n))
      ({ id := 0, slot := 0, due := none, cls := .ds, store := true }, s.setBuf b)
def execSst8 (f : MS) (s : State) : Out := s.locStore f 1 false
def execSst16 (f : MS) (s : State) : Out := s.locStore f 2 false
def execSst32 (f : MS) (s : State) : Out := s.locStore f 4 false
def execSst64 (f : MS) (s : State) : Out := s.locStore f 8 false
def execSst128 (f : MS) (s : State) : Out := s.locStore f 16 false
def execSfill (f : MS) (s : State) : Out := s.locStore f 64 true

/-- The operation of `samo` (R172). -/
def samoNew (typ w old x y : Nat) : Nat :=
  match typ with
  | 0 => (old + x) % 2 ^ w
  | 1 => old &&& x
  | 2 => old ||| x
  | 3 => old ^^^ x
  | 4 => x
  | 5 => if old = y then x else old
  | 6 => if signExt w old ≤ signExt w x then old else x
  | _ => if signExt w old ≤ signExt w x then x else old
/-- Read, compute and write in each lane in order: the buffer, the old values, the lanes on poisoned bytes. -/
def samoLanes (n : Nat) (off : Nat → Nat) (new : Nat → Nat → Nat) : List Nat → Buf → Buf × List (Nat × Nat) × List Nat
  | [], b => (b, [], [])
  | l :: ls, b =>
    let old := leVal (Memory.readN b.bytes (off l) n)
    let bad := b.poisoned (off l) n
    let b := if bad then b else b.write (off l) (leBytes n (new l old))
    let (b, xs, bads) := samoLanes n off new ls b
    (b, (l, old) :: xs, if bad then l :: bads else bads)
def execSamo (f : At) (s : State) : Out :=
  let a := usrc f.u f.a (paramShort f.a) 1 1
  let regs := if f.u then 1 else wRegs f.w
  let n := wBytes f.w.toNat
  let data := usrc f.u f.x.data (paramShort f.x.data) regs 4
  let cm := usrc f.u f.x.cmp (paramShort f.x.cmp) regs 4
  let typ := f.x.typ.toNat
  let srcs := [a, data, gfld f.base] ++ (if typ = 5 then [cm] else [])
  s.issue none (srcs ++ [{ grp := f.u, num := f.d.toNat, n := regs }]) srcs (·.mask f.u f.x.gp f.x.gi) f.s fun s c e =>
    let off := c.locOff a 0
    s.locAccess c f.u f.s e (c.g.gval f.base.toNat) off n n true srcs (if f.u then 0 else regs)
      (if f.u && f.d != 0 then 1 else 0) fun s b ok =>
        let low := fun (x : Nat) => x % 2 ^ (8 * n)
        let (b, xs, bad) := samoLanes n (fun l => (off l).toNat)
          (fun l old => samoNew typ (8 * n) old (low (c.g.read data l)) (if typ = 5 then low (c.g.read cm l) else 0))
          (perfLanes f.u ok) b
        ({ id := 0, slot := 0, due := none, cls := .da, poison := poisonOf f.u ok (fun l => (off l).toNat) bad,
           writes := if f.u then wrG f.d.toNat (laneVal xs (lowLane ok)) else wrV f.d.toNat regs ok (laneVal xs) }, s.setBuf b)

/-! ## The fault mask (R175) -/

/-- The kinds of the lanes of FM as a bit set. -/
def kindBits (fm : Mask) (kinds : List Nat) : Nat :=
  ((List.range 8).map fun k => if (lanesOf fm).any fun l => kinds.getD l 0 == k && k != 0 then 2 ^ k else 0).sum
def execFmask (f : M) (s : State) : Out :=
  s.locGroup f [gfld f.base, gfld f.d] [gfld f.base] fun s c e =>
    let l := c.g.gval f.base.toNat % 32
    let k := if c.g.fm.getLsbD l then c.g.kinds.getD l 0 else 0
    s.variable c e [] (wrG f.d.toNat (c.g.fm.toNat + 2 ^ 32 * kindBits c.g.fm c.g.kinds + 2 ^ 48 * k)) .dl f.s
def execFmclr (f : M) (s : State) : Out :=
  let a := gsrc f.a 1 1
  s.locGroup f [a] [a] fun s c e =>
    let m : Mask := BitVec.ofNat 32 (c.g.read a 0)
    let g := { c.g with fm := c.g.fm &&& ~~~m
                        kinds := (List.range 32).map fun l => if m.getLsbD l then 0 else c.g.kinds.getD l 0 }
    .next (s.done { c with g := g } e [a] f.s)

/-! ## Hardware queues (R176 to R179) -/

/-- The queue of a number that is configured for the block's launch. -/
def State.hq? (s : State) (b : Block) (n : Nat) : Option HQueue :=
  s.hqs.find? fun q => q.die == b.die && q.core == b.core && q.num == n && q.launch == b.hqLaunch
def State.setHq (s : State) (q : HQueue) : State :=
  { s with hqs := s.hqs.map fun x => if x.die = q.die ∧ x.core = q.core ∧ x.num = q.num then q else x }
/-- The fault of a queue that is not configured. -/
def noQueue : Fault2 := handleFault 7 0
/-- The granule of a queue's storage that holds its entry i: 16 entries of a ring of 1,024 (R160, R176; DEDUCED, log 57). -/
def HQueue.granule (q : HQueue) (i : Nat) : Nat := (q.head + i) % 1024 / 16
/-- Append entries: a granule that they fill whole loses its poison (R160). -/
def HQueue.push (q : HQueue) (vals : List W32) : HQueue :=
  let put := (List.range vals.length).map fun i => q.granule (q.ents.length + i)
  { q with ents := q.ents ++ vals, poison := q.poison.filter fun g => put.count g < 16 }
/-- Remove the first k entries. -/
def HQueue.pop (q : HQueue) (k : Nat) : HQueue := { q with ents := q.ents.drop k, head := (q.head + k) % 1024 }
/-- The POISON that a pop of k entries by lanes meets: the lanes whose entry lies in a poisoned granule (R160). -/
def HQueue.popPoison (q : HQueue) (lanes : List Nat) : Option (Mask × List Nat) :=
  let bad := (lanes.zipIdx.filter fun x => q.poison.contains (q.granule x.2)).map (·.1)
  if bad.isEmpty then none else some (maskOf bad.contains, List.replicate 32 0)

def execQpush (f : M) (s : State) : Out :=
  let a := vsrc f.a (paramShort f.a) 1 1
  s.locGroup f [a] [a] fun s c e =>
    match s.hq? c.b f.base.toNat with
    | none => .next (s.trap c noQueue)
    | some q =>
      let vals := (lanesOf e).map fun l => BitVec.ofNat 32 (c.g.read a l)
      let room := 1024 - q.ents.length
      let lost := vals.length - room
      let q := { q.push (vals.take room) with ovf := min (q.ovf + lost) (2 ^ 32 - 1) }
      let c := { c with g := { c.g with qovf := c.g.qovf || lost != 0 } }
      .next (((s.setHq q).sided c.ref.blk).putLater c e [a] { id := 0, slot := 0, due := none, cls := .dq } f.s)

/-- The lanes that entries serve: the lowest of E, one for each (R178). -/
def served (e : Mask) (n : Nat) : List Nat := (lanesOf e).take n
/-- The register writes of a pop of k entries. -/
def popWrites (d : Nat) (e : Mask) (vals : List W32) : List Wr :=
  let ls := served e vals.length
  [.v d (maskOf ls.contains) ((List.range 32).map fun l => match ls.idxOf? l with | some i => vals.getD i 0 | none => 0)]
def execQpopSat (f : M) (s : State) : Out :=
  s.locGroup f [{ grp := false, num := f.d.toNat }] [] fun s c e =>
    match s.hq? c.b f.base.toNat with
    | none => .next (s.trap c noQueue)
    | some q => s.allocate c e [] 1 0 fun s =>
      let k := min (popMask e) q.ents.length
      let ls := served e k
      let s := s.setHq (q.pop k)
      let s := if k = 0 then s else s.sided c.ref.blk
      let p := opReg f.a
      .next (s.putLater c e []
        { id := 0, slot := 0, due := none, cls := .dq, poison := q.popPoison ls,
          writes := popWrites f.d.toNat e (q.ents.take k) ++ (if p = 7 then [] else [.p p e (maskOf ls.contains)]) } f.s)
def execQlen (f : M) (s : State) : Out :=
  s.locGroup f [gfld f.d] [] fun s c e =>
    match s.hq? c.b f.base.toNat with
    | none => .next (s.trap c noQueue)
    | some q => s.allocate c e [] 0 (if f.d = 0 then 0 else 1) fun s =>
      let s := if f.w = 2 then (s.setHq { q with ovf := 0 }).sided c.ref.blk else s
      .next (s.putLater c e []
        { id := 0, slot := 0, due := none, cls := .dq,
          writes := wrG f.d.toNat (if f.w = 0 then q.ents.length else q.ovf) } f.s)

end Sys2Proof.Machine
end

