-- ==== Sys2Proof/Machine/ClaspI.lean ====
section
/-!
DEFINITION. Clasps (R202 to R209): their state record, the transitions of Table CLP-2, and `cinit`, `arrive`, `expect`.
-/
namespace Sys2Proof.Machine
open Sys2Proof.Num

/-- The state record of Table CLP-1, as a number of 128 bits. CLASS and PROM are the block's once the clasp is armed (R204,
Table CLP-2). -/
def claspRecord (c : Clasp) (cls : Nat) (prom : Bool) : Nat :=
  let (cls, prom) := if c.mode = 0 then (0, false) else (cls, prom)
  c.cycle + 2 ^ 8 * c.mode + 2 ^ 10 * c.bytes.toNat + 2 ^ 11 * c.posted.toNat + 2 ^ 12 * prom.toNat + 2 ^ 13 * cls +
    2 ^ 16 * c.expected + 2 ^ 32 * c.pending + 2 ^ 64 * wrapN 24 c.rem
/-- A phase completes where its condition holds (R205). -/
def Clasp.turn (c : Clasp) : Clasp :=
  if c.mode == 1 && c.pending == 0 && (!c.bytes || (c.posted && c.rem == 0)) then
    { c with cycle := (c.cycle + 1) % 256, pending := c.expected, rem := 0, posted := false }
  else c
/-- The clasp goes to ERROR. -/
def Clasp.toError (c : Clasp) (why : Nat) : Clasp := { c with mode := 2, why := why }
/-- `cinit` (Table CLP-2): CYCLE is kept unless the clasp was IDLE. -/
def Clasp.arm (c : Clasp) (n : Nat) (bytes : Bool) : Clasp :=
  { cycle := if c.mode = 0 then 0 else c.cycle, mode := 1, bytes := bytes, expected := n, pending := n }
/-- An arrival of k at an ARMED clasp. -/
def Clasp.arrive (c : Clasp) (k : Nat) : Clasp :=
  if k ≤ c.pending then { c with pending := c.pending - k }.turn else c.toError 3
/-- A post of n at an ARMED clasp in byte mode, without R205. -/
def Clasp.post (c : Clasp) (n : Nat) : Clasp :=
  let c := { c with rem := c.rem + n, posted := true }
  if c.rem < 0 then c.toError 1 else c
/-- A byte arrival of m in any mode. -/
def Clasp.byteArrival (c : Clasp) (m : Nat) : Clasp :=
  if c.mode = 2 then c
  else if c.mode = 0 ∨ !c.bytes then c.toError 4
  else
    let r := c.rem - m
    if c.posted then (if r < 0 then ({ c with rem := r }).toError 1 else ({ c with rem := r }).turn)
    else if r < -(2 ^ 23) then ({ c with rem := -(2 ^ 23) }).toError 2
    else ({ c with rem := r }).turn

/-- A CLASP_OVERRUN fault with the clasp's record (R207). -/
def State.claspFault (s : State) (b : Block) (n sub : Nat) : Fault2 :=
  let w := match b.clasps[n]?, s.kernel? b.kobj with
    | some c, some _ => claspRecord c (s.curClass b) b.prom
    | _, _ => 0
  { cause := 0x12, sub := sub, faddr := n, detail := w % 2 ^ 64, ext := [w / 2 ^ 64] }

/-- Replace a clasp of a block. -/
def State.setClasp (s : State) (blk n : Nat) (c : Clasp) : State :=
  s.updBlock blk fun b => { b with clasps := b.clasps.set n c }
/-- A clasp of a block was x and has changed: where PHASE has flipped or the clasp has gone to ERROR, the waits on it end
(R206, R210); after an ERROR each takes CLASP_OVERRUN with the cause of it (R207). -/
def State.claspTurned (s : State) (blk n : Nat) (x : Clasp) : State :=
  match s.block? blk with
  | none => s
  | some b => match b.clasps[n]? with
    | none => s
    | some y =>
      if y.cycle = x.cycle ∧ y.mode ≠ 2 then s
      else s.wake fun b' on => match on with
        | .clasp k par _ =>
          if b'.id ≠ blk ∨ k ≠ n then none
          else if y.mode = 2 then some (some (s.claspFault b n y.why))
          else if (y.cycle % 2 == 1) != par then some none else none
        | _ => none
/-- A byte arrival at a clasp of a block (R227). -/
def State.credit (s : State) (blk n m : Nat) : State :=
  match (s.block? blk).bind (·.clasps[n]?) with
  | some c => (s.setClasp blk n (c.byteArrival m)).claspTurned blk n c
  | none => s

/-- A trap of an instruction whose operands have been killed already. -/
def State.killTrap (s : State) (c : Cur) (e : Mask) (srcs : List Src) (f : Fault2) : State :=
  (s.setGroup c.ref.blk c.ref.grp (c.g.killAll c.ref.slot e srcs)).trap c f
/-- Find the clasp of a clasp instruction, after the kill of A: RANGE for a number at or above CLASPS (R209). -/
def State.claspGo (s : State) (c : Cur) (e : Mask) (a : Src) (n : Nat) (k : Clasp → Out) : Out :=
  match c.b.clasps[n]? with
  | some x => k x
  | none => .next (s.killTrap c e [a] (s.claspFault c.b n 6))
/-- An ARMED clasp, or the instruction trap of IDLE or ERROR. -/
def State.claspArmed (s : State) (c : Cur) (e : Mask) (a : Src) (n : Nat) (k : Clasp → Out) : Out :=
  s.claspGo c e a n fun x =>
    if x.mode = 0 then .next (s.killTrap c e [a] (s.claspFault c.b n 5))
    else if x.mode = 2 then .next (s.killTrap c e [a] (s.claspFault c.b n 8))
    else k x

def execCinit (f : VI) (s : State) : Out :=
  let a := gsrc f.a 1 1
  s.issue none [a] [a] (·.maskP f.gp f.gi) f.s fun s c e =>
    let n := c.g.read a 0 + f.d.toNat
    let cnt := f.val.toNat % 2048
    s.claspGo c e a n fun x =>
      if cnt < 1 ∨ 1024 < cnt then .next (s.killTrap c e [a] (s.claspFault c.b n 9))
      else .next ((s.setClasp c.ref.blk n (x.arm cnt (f.val.toNat / 2048 % 2 == 1))).done c e [a] f.s)
/-- A clasp takes a new state by an instruction that issues, and the waits that this ends (R206). -/
def State.claspSet (s : State) (c : Cur) (e : Mask) (srcs : List Src) (n : Nat) (x y : Clasp) (sbit : Bool) : State :=
  ((s.setClasp c.ref.blk n y).done c e srcs sbit).claspTurned c.ref.blk n x

/-- Whether a post of p bytes is in range (Table CLP-3). -/
def postBad (x : Clasp) (p : Nat) : Option Nat :=
  if !x.bytes then some 4 else if 2 ^ 23 ≤ p ∨ 2 ^ 23 - 1 < x.rem + p then some 7 else none
/-- `.lanes` and `.post` of `arrive`. -/
def arriveLanes (f : V3) : Bool := f.x.sub.getLsbD 0
def arrivePost (f : V3) : Bool := f.x.sub.getLsbD 1
def execArrive (f : V3) (s : State) : Out :=
  let a := gsrc f.a 1 1
  let b := gsrc f.b 1 2
  let srcs := if arrivePost f then [a, b] else [a]
  s.issue none srcs srcs (·.maskP f.x.gp f.x.gi) f.s fun s c e =>
    let n := c.g.read a 0 + f.d.toNat
    let k := if arriveLanes f then popMask e else 1
    s.claspArmed c e a n fun x =>
      let p := c.g.read b 0
      if arrivePost f then match postBad x p with
        | some sub => .next (s.killTrap c e [a, b] (s.claspFault c.b n sub))
        | none =>
          let y := x.post p
          .next (s.claspSet c e srcs n x (if y.mode = 2 then y else y.arrive k) f.s)
      else .next (s.claspSet c e srcs n x (x.arrive k) f.s)
def execExpect (f : V3) (s : State) : Out :=
  let a := gsrc f.a 1 1
  let b := gsrc f.b 1 2
  s.issue none [a, b] [a, b] (·.maskP f.x.gp f.x.gi) f.s fun s c e =>
    let n := c.g.read a 0 + f.d.toNat
    s.claspArmed c e a n fun x =>
      let p := c.g.read b 0
      match postBad x p with
      | some sub => .next (s.killTrap c e [a, b] (s.claspFault c.b n sub))
      | none =>
        let y := x.post p
        .next (s.claspSet c e [a, b] n x (if y.mode = 2 then y else y.turn) f.s)

end Sys2Proof.Machine
end

