-- ==== Sys2Proof/Machine/Copy.lean ====
section
/-!
DEFINITION. The copy engine (R216 to R231): tensor formats and the plane layout (Table NUM-4, R223, R224), the checks of a
request at issue, its acknowledgement with the promise, and the move of its bytes.
-/
namespace Sys2Proof.Machine
open Sys2Proof.Num

/-! ## Tensor formats (Table NUM-4, R224) -/

/-- A tensor format: element bytes; a sign plane; exponent bytes and bits; precision of a floating one; planes. -/
structure TFmt where
  size : Nat
  sign : Bool
  expBytes : Nat
  expBits : Nat
  planes : Nat
  signedInt : Bool := false
  deriving DecidableEq, Repr
/-- The format of a code; none for a code that R68 refuses. -/
def tfmt (code : Nat) : Option TFmt :=
  if 0 < code ∧ code < 0x20 ∧ code % 8 ≠ 0 then
    let b := B8.ofCode code
    some { size := 1, sign := !b.nat, expBytes := 1, expBits := b.w, planes := b.p }
  else if code = 0x20 then some { size := 2, sign := true, expBytes := 1, expBits := 5, planes := 11 }
  else if code = 0x21 then some { size := 2, sign := true, expBytes := 1, expBits := 8, planes := 8 }
  else if code = 0x22 then some { size := 4, sign := true, expBytes := 1, expBits := 8, planes := 24 }
  else if code = 0x23 then some { size := 8, sign := true, expBytes := 2, expBits := 11, planes := 53 }
  else if 0x30 ≤ code ∧ code < 0x40 then
    some { size := 1, sign := false, expBytes := 0, expBits := 0, planes := code % 8 + 1, signedInt := code < 0x38 }
  else if code = 0x40 ∨ code = 0x41 then
    some { size := 2, sign := false, expBytes := 0, expBits := 0, planes := 16, signedInt := code == 0x40 }
  else if code = 0x48 then some { size := 1, sign := false, expBytes := 0, expBits := 0, planes := 1 }
  else none
/-- Bytes of a k-block. -/
def TFmt.kb (f : TFmt) : Nat := (if f.sign then 128 else 0) + 1024 * f.expBytes + 128 * f.planes
/-- Trailing bits of a floating format. -/
def TFmt.tb (f : TFmt) : Nat := f.planes - 1
/-- Sign, exponent field and significand planes of an element's code: with the hidden bit, or the integer itself. -/
def TFmt.split (f : TFmt) (x : Nat) : Nat × Nat × Nat :=
  if f.expBytes = 0 then (0, 0, x % 2 ^ f.planes)
  else
    let ex := x / 2 ^ f.tb % 2 ^ f.expBits
    (if f.sign then x / 2 ^ (f.tb + f.expBits) % 2 else 0, ex, (if ex = 0 then 0 else 2 ^ f.tb) + x % 2 ^ f.tb)
/-- The code from sign, exponent field and planes. -/
def TFmt.join (f : TFmt) (sg ex pl : Nat) : Nat :=
  if f.expBytes = 0 then pl % 2 ^ f.planes
  else (if f.sign then sg * 2 ^ (f.tb + f.expBits) else 0) + ex % 2 ^ f.expBits * 2 ^ f.tb + pl % 2 ^ f.tb

/-- A bit plane of 128 bytes from the bit of each line and depth (R224). -/
def planeBytes (bit : Nat → Nat → Bool) : List Byte :=
  (List.range 128).map fun y =>
    BitVec.ofNat 8 (((List.range 8).map fun t => if bit (y / 2) (y % 2 * 8 + t) then 2 ^ t else 0).sum)
/-- A k-block from the code of each line and depth. -/
def TFmt.block (f : TFmt) (x : Nat → Nat → Nat) : List Byte :=
  (if f.sign then planeBytes fun i j => (f.split (x i j)).1 == 1 else []) ++
  (if f.expBytes = 0 then []
   else ((List.range 1024).map fun n => leBytes f.expBytes (f.split (x (n / 16) (n % 16))).2.1).flatten) ++
  ((List.range f.planes).map fun p => planeBytes fun i j => (f.split (x i j)).2.2.testBit (f.planes - 1 - p)).flatten
/-- Bit 16 i + j of a plane that starts at byte o. -/
def planeBit (bs : Array Byte) (o i j : Nat) : Bool := (bs.getD (o + 2 * i + j / 8) 0).getLsbD (j % 8)
/-- The sign, exponent and planes of line i, depth j in a k-block at byte o. -/
def TFmt.parts (f : TFmt) (bs : Array Byte) (o i j : Nat) : Nat × Nat × Nat :=
  let so := if f.sign then 128 else 0
  let n := 16 * i + j
  (if f.sign && planeBit bs o i j then 1 else 0,
   (if f.expBytes = 0 then 0
    else if f.expBytes = 1 then (bs.getD (o + so + n) 0).toNat
    else (bs.getD (o + so + 2 * n) 0).toNat + 256 * (bs.getD (o + so + 2 * n + 1) 0).toNat),
   ((List.range f.planes).map fun p =>
      if planeBit bs (o + so + 1024 * f.expBytes + 128 * p) i j then 2 ^ (f.planes - 1 - p) else 0).sum)
/-- The code of line i, depth j in a k-block at byte o. -/
def TFmt.elemAt (f : TFmt) (bs : Array Byte) (o i j : Nat) : Nat := let (sg, ex, pl) := f.parts bs o i j; f.join sg ex pl

/-! ## Descriptors (R219, R220) -/

/-- A side of a move: a global address, or a buffer and an offset. -/
inductive Side
  | glob (addr : Nat)
  | pad (h off : Nat)
  deriving DecidableEq, Repr
def Side.plus : Side → Nat → Side
  | .glob a, n => .glob (a + n)
  | .pad h o, n => .pad h (o + n)
/-- A locator (Table CPY-2). -/
def locOf (x : Nat) : Side := .pad (x % 2 ^ 32) (x / 2 ^ 32 % 2 ^ 22)
def locBad (x : Nat) : Bool := 2 ^ 54 ≤ x
def sideOf (pad : Bool) (x : Nat) : Side := if pad then locOf x else .glob x
def bits (x hi lo : Nat) : Nat := x / 2 ^ lo % 2 ^ (hi + 1 - lo)

/-- Which of the first two words of a descriptor are locators (Table CPY-3). -/
def cpyPads (op mode : Nat) : Bool × Bool :=
  if op = 10 then (mode != 0, mode != 1)
  else if op = 11 then (false, true)
  else if op = 12 then (false, true)
  else (mode == 1, false)
/-- The byte count of a request. -/
def cpyBytes (op : Nat) (q : List Nat) : Nat :=
  let c := q.getD 2 0
  if op = 10 then bits c 31 0 * bits c 47 32
  else if op = 11 then (match tfmt (bits c 62 55) with | some f => (bits c 47 32 + 15) / 16 * f.kb | none => 0)
  else if op = 12 then bits c 51 32 * bits c 63 52
  else bits c 31 0

/-- Whether every number is a multiple of 4. -/
def by4 (xs : List Nat) : Bool := xs.all (· % 4 == 0)
/-- What must be a multiple of 4 of a side's word: an address, or a locator's offset. -/
def sideAl (pad : Bool) (x : Nat) : Nat := if pad then bits x 53 32 else x
/-- The first failing TASK subcode of a descriptor (Table CPY-5); none if it stands. -/
def cpyDescBad (op mode : Nat) (q : List Nat) : Option Nat :=
  let a := q.getD 0 0
  let b := q.getD 1 0
  let c := q.getD 2 0
  let d := q.getD 3 0
  let (sp, dp) := cpyPads op mode
  let n := cpyBytes op q
  let sizeBad := n < 4 || 2 ^ 23 < n
  if op = 10 then
    if sizeBad then some 0x21
    else if !by4 [sideAl sp a, sideAl dp b, bits c 31 0, bits d 31 0, bits d 63 32] then some 0x22
    else if bits c 63 48 != 0 || (sp && locBad a) || (dp && locBad b) then some 0x24
    else none
  else if op = 11 then
    let f := tfmt (bits c 62 55)
    let sz := match f with | some f => f.size | none => 1
    if bits c 47 32 = 0 ∨ bits c 54 48 = 0 ∨ 64 < bits c 54 48 ∨ (f.isSome ∧ sizeBad) then some 0x21
    else if a % sz != 0 || bits c 31 0 % sz != 0 || bits b 53 32 % 128 != 0 then some 0x22
    else if f.isNone then some 0x23
    else if d != 0 || locBad b then some 0x24
    else none
  else if op = 12 then
    let rowb := bits c 51 32
    if rowb < 4 ∨ 2 ^ 20 - 4 < rowb ∨ bits c 63 52 = 0 ∨ sizeBad then some 0x21
    else if !by4 [a, bits b 53 32, bits c 31 0, rowb, bits d 53 32] then some 0x22
    else if locBad b || locBad d then some 0x24
    else none
  else
    if sizeBad then some 0x21
    else if !by4 [sideAl sp a, bits b 63 16, n] then some 0x22
    else if bits b 15 12 != 0 || bits c 63 32 != 0 || d != 0 || (sp && locBad a) then some 0x24
    else none

/-- Whether a global address of the first or last byte of some row is at or above 2^57 (R218 check 2). -/
def cpyRangeBad (op mode : Nat) (q : List Nat) : Bool :=
  let a := q.getD 0 0
  let b := q.getD 1 0
  let c := q.getD 2 0
  let d := q.getD 3 0
  let out := fun base rows str len => decide (2 ^ 57 ≤ base ∨ 2 ^ 57 ≤ base + (rows - 1) * str + len - 1)
  if op = 10 then
    (mode == 0 && out a (bits c 47 32) (bits d 31 0) (bits c 31 0)) ||
    (mode == 1 && out b (bits c 47 32) (bits d 63 32) (bits c 31 0))
  else if op = 11 then
    let sz := match tfmt (bits c 62 55) with | some f => f.size | none => 1
    if bits c 63 63 = 0 then out a (bits c 54 48) (bits c 31 0) (bits c 47 32 * sz)
    else out a (bits c 47 32) (bits c 31 0) (bits c 54 48 * sz)
  else if op = 12 then decide (2 ^ 57 ≤ a)
  else mode == 0 && out a 1 0 (bits c 31 0)

/-! ## Issue (R217, R218) -/

/-- A registered window of a context (R376). -/
def State.win? (s : State) (ctx index : Nat) : Option Win := s.wins.find? fun w => w.ctx == ctx && w.index == index
def State.setWin (s : State) (w : Win) : State :=
  { s with wins := s.wins.map fun x => if x.ctx = w.ctx ∧ x.index = w.index then w else x }
/-- ACCESS NAME (R213). -/
def nameFault : Fault2 := grpFault 0x09 3

/-- Whether a block holds a request that has not completed. -/
def Block.copies (b : Block) : Bool := b.reqs.any (·.st != .done)
/-- Whether the copy contexts of two blocks are bound to one engine (R216). -/
def Block.sameEngine (x b : Block) : Bool := x.die == b.die && x.core == b.core && x.bslot % 2 == b.bslot % 2 && x.st != .saved
/-- A context that starts to hold requests slows the others of its engine: the ticks of their requests bind no more (R226). -/
def State.crowd (s : State) (b : Block) : State :=
  if b.copies then s else
  { s with blocks := s.blocks.map fun x => if x.id != b.id && x.sameEngine b
      then { x with reqs := x.reqs.map fun (r : CopyReq) => { r with late := true } } else x }

def State.copyIssue (s : State) (f : Cpy) (op : Nat) : Out :=
  let quad : Src := { grp := true, num := opReg f.a, n := 4, l := opL f.a, field := 1 }
  let cb := gsrc f.b 1 2
  let dst : Src := { grp := true, num := f.d.toNat, n := 2 }
  let mode := f.x.mode.toNat
  s.issue (some 2) [quad, cb, dst] [quad, cb] (·.maskP f.x.gp f.x.gi) f.s fun s c e =>
    let q := (List.range 4).map fun i => c.g.gval (opReg f.a + i)
    match cpyDescBad op mode q with
    | some sub => .next (s.trap c (grpFault 0x19 sub))
    | none =>
      if cpyRangeBad op mode q then .next (s.trap c (grpFault 0x09 1))
      else if op = 13 ∧ !(match s.win? c.b.ctx (bits (q.getD 1 0) 11 0) with | some w => w.kind == 2 | none => false) then
        .next (s.trap c nameFault)
      else
        let n := c.g.read cb 0 + f.x.clasp.toNat
        if f.x.ce ∧ c.b.clasps.length ≤ n then .next (s.trap c (s.claspFault c.b n 6))
        else if 64 ≤ (c.b.reqs.filter (·.st != .done)).length then .next (s.stall c .copy)
        else
          s.allocate c e [quad, cb] 0 (if f.d = 0 then 0 else 2) fun s =>
            let s := if op = 13 then s.sided c.ref.blk else s
            let (d, s) := s.delay
            let r : CopyReq :=
              { id := s.uid, op := op, mode := mode, q := q.map (BitVec.ofNat 64), scope := f.x.scope.toNat,
                clasp := if f.x.ce then some n else none, grp := c.ref.grp, d := f.d.toNat, flight := s.uid,
                st := .issued, due := some (s.cc + d) }
            let s := (s.crowd c.b).updBlock c.ref.blk fun b => { b with reqs := b.reqs ++ [r] }
            .next (s.putFlight c e [quad, cb]
              { id := 0, slot := 0, due := none, cls := .de, board := f.d != 0,
                writes := if f.d = 0 then [] else [.g f.d.toNat 0, .g (f.d.toNat + 1) 0] } f.s)
def execCpy (f : Cpy) (s : State) : Out := s.copyIssue f 10
def execCpyp (f : Cpy) (s : State) : Out := s.copyIssue f 11
def execGath (f : Cpy) (s : State) : Out := s.copyIssue f 12
def execPut (f : Cpy) (s : State) : Out := s.copyIssue f 13

/-! ## Acknowledgement and the promise (R226) -/

/-- The endpoint allowance of a side (Table CPY-4a), judged by the region of its first byte. -/
def State.allowance (s : State) (c : Ctx) (b : Block) (x : Side) : Nat :=
  match x with
  | .pad _ _ => 200
  | .glob va => match (s.leafOf c b.die b.core va).1 with
    | .leaf e => match s.region (leafFrame e + va % 2 ^ pageLog (leafSize e)) with
      | some (.hbm _) => 1500
      | some (.cxl _) => 4000
      | some .aperture => 3000
      | _ => 6000
    | _ => 6000
/-- The sides of a request at their first byte. -/
def CopyReq.sides (r : CopyReq) : List Side :=
  let (sp, dp) := cpyPads r.op r.mode
  let src := sideOf sp (r.q.getD 0 0).toNat
  if r.op = 13 then [src] else [src, sideOf dp (r.q.getD 1 0).toNat]
/-- The allowance D of the farthest endpoint. -/
def State.farthest (s : State) (c : Ctx) (b : Block) (r : CopyReq) : Nat :=
  (r.sides.map (s.allowance c b)).foldl max (if r.op = 13 then 3000 else 0)
/-- Contexts bound to the block's engine that hold uncompleted requests (R216). -/
def State.engineLoad (s : State) (b : Block) : Nat :=
  (s.blocks.filter fun x => x.sameEngine b && x.copies).length
/-- The promised tick (R226). -/
def State.promise (s : State) (c : Ctx) (b : Block) (r : CopyReq) : Nat :=
  let rho := max 1 (64 / max 1 (s.engineLoad b))
  let n := cpyBytes r.op (r.q.map BitVec.toNat)
  let x := ((n + rho - 1) / rho * 1000 + dvfsF s.dvfs - 1) / dvfsF s.dvfs
  max (s.ct + s.farthest c b r) b.prevT + x

/-- Give an outstanding flight of a group its results: it completes now. -/
def Group.fulfil (g : Group) (id : Nat) (ws : List Wr) (due : Nat) : Group :=
  { g with flights := g.flights.map fun f => if f.id = id then { f with writes := ws, due := some due } else f }
def Block.setReq (b : Block) (r : CopyReq) : Block := { b with reqs := b.reqs.map fun x => if x.id = r.id then r else x }
/-- A copy request of a block. While the block is saved it neither moves, nor completes, nor fails (R231). -/
def State.req? (s : State) (blk id : Nat) : Option (Block × Ctx × CopyReq) :=
  match s.block? blk with
  | some b => match s.ctx? b.ctx, b.reqs.find? (·.id == id) with
    | some c, some r => if b.st = .saved then none else some (b, c, r)
    | _, _ => none
  | none => none

/-- COPY_ACKNOWLEDGE: the value, the promise, the results (R218). -/
def execCopyAcknowledge (blk id : Nat) (s : State) : Out :=
  match s.req? blk id with
  | none => .fault .noSuchEvent
  | some (b, c, r) =>
    let v := b.copyLast + 1
    let t := s.promise c b r
    let (d, s) := s.delay
    let w? := if r.op = 13 then s.win? b.ctx (bits (r.q.getD 1 0).toNat 11 0) else none
    let pn := match w? with | some w => w.puts + 1 | none => 0
    let r := { r with st := .moving, value := v, tick := t, due := some (s.cc + d), putNo := pn, late := false }
    let b := { b.setReq r with copyLast := v, prevT := t }
    let b := match b.groups[r.grp]? with
      | some g => b.setGroup r.grp
          (g.fulfil r.flight (if r.d = 0 then [] else [.g r.d (BitVec.ofNat 64 v), .g (r.d + 1) (BitVec.ofNat 64 t)]) (s.cc + 1))
      | none => b
    let s := s.setBlock b
    .next (match w? with
      | some w => s.setWin { w with
          puts := w.puts + 1, owners := w.owners ++ [(w.puts + 1, blk, v, bits (r.q.getD 1 0).toNat 63 16)] }
      | none => s)

/-! ## Moving the bytes (R221 to R228) -/

/-- What a part of a move comes to: a value, a page fault at an address, or a failure with its reason and address. -/
inductive Mv (α : Type)
  | ok (a : α)
  | page (addr : Nat)
  | fail (reason addr : Nat)

/-- The reason of Table CPY-4 for a failing access check. -/
def missReason (m : Miss) : Nat := if m.cause = 9 ∧ m.sub = 1 then 2 else 1
/-- The buffer a locator reaches for an engine context of the KIND given: held by the block or by that context, or passed to
that context, which claims what it is passed (R166, R219, DEDUCED, log 22). -/
def State.padBuf (s : State) (b : Block) (h : Nat) (kind : Nat := 1) : Option Buf := match s.handle b.die h with
  | .buf u =>
    if (u.st == .held && u.holder == b.id && (u.holderKind == 0 || u.holderKind == kind)) ||
       (u.st == .transfer && u.target == b.id && u.targetKind == kind) then some u else none
  | _ => none
/-- The buffer that a locator is written through: also one that a locket has carried away since the request was issued (R291).
`b.reqs` names the requests that write. -/
def State.padDest (s : State) (b : Block) (h : Nat) (kind : Nat := 1) : Option Buf :=
  s.padBuf b h kind <|> match s.handle b.die h with
    | .buf u => if kind = 1 ∧ b.reqs.any (fun r => u.writers.contains r.id) then some u else none
    | _ => none

/-- Read n bytes of a side, each with whether its granule is poisoned. Bytes of the domain aperture are those that other packages
have answered (R379). -/
def State.sideRead (s : State) (c : Ctx) (b : Block) (x : Side) (n scope : Nat) (kind : Nat := 1) : Mv (List (Byte × Bool)) × State :=
  match x with
  | .glob va =>
    match s.reach c b.die b.core va n .read scope with
    | (.inl m, s) => (if m.cause = 8 then .page m.va else .fail (missReason m) m.va, s)
    | (.inr ps, s) =>
      let r := ps.foldl (fun (acc : List (Byte × Bool) × State) p =>
        let ((bs, bad), s) := if acc.2.inAperture p then acc.2.apRead p else acc.2.readPieces [p]
        (acc.1 ++ bs.map fun y => (y, bad), s)) ([], s)
      (.ok r.1, r.2)
  | .pad h o =>
    match s.padBuf b h kind with
    | none => (.fail 3 (h + 2 ^ 32 * o), s)
    | some u =>
      if u.size < o + n then (.fail 4 (h + 2 ^ 32 * o), s)
      else if (granules o n).any fun g => !u.valid.contains g then (.fail 5 (h + 2 ^ 32 * o), s)
      else (.ok ((Memory.readN u.bytes o n).mapIdx fun i y => (y, u.poison.contains ((o + i) / 64))), s)

/-- Whether n bytes of a side can be written. -/
def State.sideReady (s : State) (c : Ctx) (b : Block) (x : Side) (n scope : Nat) (kind : Nat := 1) : Mv Unit × State :=
  match x with
  | .glob va =>
    match s.reach c b.die b.core va n .write scope with
    | (.inl m, s) => (if m.cause = 8 then .page m.va else .fail (missReason m) m.va, s)
    | (.inr _, s) => (.ok (), s)
  | .pad h o =>
    match s.padDest b h kind with
    | none => (.fail 3 (h + 2 ^ 32 * o), s)
    | some u => (if u.size < o + n then .fail 4 (h + 2 ^ 32 * o) else .ok (), s)

/-- Whether bytes written at a physical address reach memory of this package (R372, R379). -/
def State.lands (s : State) (p : Piece) : Bool := !s.inAperture p && !s.cxlIsDown p.pa
/-- Write bytes over pieces, each poisoned or not: what memory takes of them, by physical address; what lies in another package's memory
leaves for it, with its poison (R227, R379). -/
def State.writeLanding (s : State) (ps : List Piece) (bs : List (Byte × Bool)) : List (Nat × Bool) × State :=
  let s := (s.writePieces ps (bs.map (·.1))).askWrites (withData ps bs)
  let dest := (ps.map fun p => (List.range p.len).map fun i => (s.lands p, s.home (p.pa + i))).flatten
  ((dest.zip bs).filterMap fun y => if y.1.1 then some (y.1.2, y.2.2) else none, s)
/-- Write bytes of a side that is ready: the physical bytes that memory takes, each with its poison; none for a buffer. -/
def State.sideWrite (s : State) (c : Ctx) (b : Block) (x : Side) (bs : List (Byte × Bool)) (scope : Nat)
    (kind : Nat := 1) : List (Nat × Bool) × State :=
  match x with
  | .glob va =>
    match s.reach c b.die b.core va bs.length .write scope with
    | (.inr ps, s) => s.writeLanding ps bs
    | (.inl _, s) => ([], s)
  | .pad h o =>
    match s.padDest b h kind with
    | some u => ([], s.setBuf (u.write o (bs.map (·.1))))
    | none => ([], s)

/-- A row of a move: the bytes and where they go. -/
abbrev Row := List (Byte × Bool) × Side

/-- Read rows until one fails: what was read, and the failure. -/
def State.readRows (s : State) (c : Ctx) (b : Block) (scope : Nat) :
    List (Side × Side × Nat) → (List Row × Mv Unit) × State
  | [] => (([], .ok ()), s)
  | (x, y, n) :: rest => match s.sideRead c b x n scope with
    | (.ok bs, s) => match s.sideReady c b y n scope with
      | (.ok _, s) => let ((rs, m), s) := State.readRows s c b scope rest; (((bs, y) :: rs, m), s)
      | (m, s) => (([], m), s)
    | (.page a, s) => (([], .page a), s)
    | (.fail k a, s) => (([], .fail k a), s)

/-- Poison more granules. -/
def addPoison (bad poison : List Nat) : List Nat := bad.eraseDups.filter (fun g => !poison.contains g) ++ poison
/-- The poison of a buffer after rows have been written to it: a granule that they cover whole loses it, and a poisoned source
byte poisons the granule it reaches (R160, R227). -/
def Buf.settlePoison (u : Buf) (rows : List (Nat × List (Byte × Bool))) : Buf :=
  let u := u.unpoison (rows.map fun r => (r.1, r.2.length))
  let bad := rows.flatMap fun r => (r.2.mapIdx fun i y => if y.2 then some ((r.1 + i) / 64) else none).filterMap id
  { u with poison := addPoison bad u.poison }
/-- Bytes have been written at physical addresses, each poisoned or not: a poisoned granule that they cover whole loses its poison, and
a poisoned byte poisons its granule (R160, R227). -/
def State.markPoison (s : State) (phys : List (Nat × Bool)) : State :=
  let left := s.poison.filter fun g => !(List.range 64).all fun i => phys.any (·.1 == 64 * g + i)
  { s with poison := addPoison (phys.filterMap fun y => if y.2 then some (y.1 / 64) else none) left }
/-- Write rows: a poisoned granule that they write whole together loses its poison, and poisoned sources poison (R160, R227). -/
def State.writeRows (s : State) (c : Ctx) (b : Block) (scope : Nat) (rows : List Row) (kind : Nat := 1) : State :=
  let (phys, s) := rows.foldl (fun (acc : List (Nat × Bool) × State) r =>
    let (ph, s) := acc.2.sideWrite c b r.2 r.1 scope kind
    (acc.1 ++ ph, s)) ([], s)
  let s := s.markPoison phys
  let pads := rows.filterMap fun r => match r.2 with
    | .pad h o => some (h, o, r.1)
    | .glob _ => none
  (pads.map (·.1)).eraseDups.foldl (fun s h => match s.padDest b h kind with
    | some u => s.setBuf (u.settlePoison ((pads.filter (·.1 == h)).map (·.2)))
    | none => s) s

/-- The rows of `cpy` (R221). -/
def cpyRows (mode : Nat) (q : List Nat) : List (Side × Side × Nat) :=
  let (sp, dp) := cpyPads 10 mode
  let c := q.getD 2 0
  let d := q.getD 3 0
  (List.range (bits c 47 32)).map fun r =>
    ((sideOf sp (q.getD 0 0)).plus (r * bits d 31 0), (sideOf dp (q.getD 1 0)).plus (r * bits d 63 32), bits c 31 0)
/-- The rows of `gath` from its indexes (R222). -/
def gathRows (q idx : List Nat) : List (Side × Side × Nat) :=
  let c := q.getD 2 0
  idx.mapIdx fun i x =>
    (.glob (q.getD 0 0 + x * bits c 31 0), (locOf (q.getD 1 0)).plus (i * bits c 51 32), bits c 51 32)
/-- 32-bit words of bytes. -/
def words32 : List (Byte × Bool) → List Nat
  | a :: b :: c :: d :: rest => leVal [a.1, b.1, c.1, d.1] :: words32 rest
  | _ => []

/-- The address of the element of line i, depth k (R223). -/
def elemAddr (base gstr sz orient i k : Nat) : Nat := if orient = 0 then base + i * gstr + k * sz else base + k * gstr + i * sz

/-- What a move has come to: all bytes moved, stalled at a page fault, failed. -/
inductive Moved
  | done (s : State)
  | page (addr : Nat) (s : State)
  | failed (reason addr : Nat) (s : State)

/-- Move rows: a page fault moves nothing yet; a failing row leaves itself and the later ones unmoved (R228). -/
def State.moveRows (s : State) (c : Ctx) (b : Block) (scope : Nat) (rows : List (Side × Side × Nat)) : Moved :=
  match s.readRows c b scope rows with
  | ((rs, .ok _), s) => .done (s.writeRows c b scope rs)
  | ((_, .page a), s) => .page a s
  | ((rs, .fail k a), s) => .failed k a (s.writeRows c b scope rs)

/-- The plane-region bytes of `cpyp.g2p` with their poison, from the elements read line by line (R223, R224). -/
def planeRegion (f : TFmt) (k lines : Nat) (elems : Array (Array (Nat × Bool))) : List (Byte × Bool) :=
  let at' := fun i d => if i < lines ∧ d < k then ((elems.getD i #[]).getD d (0, false)) else (0, false)
  ((List.range ((k + 15) / 16)).map fun kb =>
    let vals := f.block fun i j => (at' i (16 * kb + j)).1
    let plane := planeBytes fun i j => (at' i (16 * kb + j)).2
    let ent := (List.range 1024).map fun n => (at' (n / 16) (16 * kb + n % 16)).2
    let flags := (if f.sign then plane.map (· != 0) else []) ++
      (ent.map fun y => List.replicate f.expBytes y).flatten ++
      (List.replicate f.planes (plane.map (· != 0))).flatten
    vals.zip flags).flatten

/-- `cpyp` (R223). -/
def State.moveCpyp (s : State) (c : Ctx) (b : Block) (scope mode : Nat) (q : List Nat) : Moved :=
  let w := q.getD 2 0
  match tfmt (bits w 62 55) with
  | none => .failed 1 0 s
  | some f =>
    let k := bits w 47 32
    let lines := bits w 54 48
    let ga := q.getD 0 0
    let pad := locOf (q.getD 1 0)
    let addr := elemAddr ga (bits w 31 0) f.size (bits w 63 63)
    let n := (k + 15) / 16 * f.kb
    if mode = 0 then
      -- one global stretch of each line and depth, then the region
      let cells := (List.range lines).flatMap fun i => (List.range k).map fun d => (Side.glob (addr i d), pad, f.size)
      let rd := cells.foldl (fun (acc : List (List (Byte × Bool)) × Mv Unit × State) x => match acc.2.1 with
        | .ok _ => match acc.2.2.sideRead c b x.1 f.size scope with
          | (.ok bs, s) => (bs :: acc.1, .ok (), s)
          | (.page a, s) => (acc.1, .page a, s)
          | (.fail r a, s) => (acc.1, .fail r a, s)
        | _ => acc) ([], .ok (), s)
      match rd with
      | (els, .ok _, s) =>
        let els := els.reverse.map fun bs => (leVal (bs.map (·.1)), bs.any (·.2))
        let rows := ((List.range lines).map fun i => ((els.drop (i * k)).take k).toArray).toArray
        (match s.sideReady c b pad n scope with
          | (.ok _, s) => .done (s.writeRows c b scope [(planeRegion f k lines rows, pad)])
          | (.page a, s) => .page a s
          | (.fail r a, s) => .failed r a s)
      | (_, .page a, s) => .page a s
      | (_, .fail r a, s) => .failed r a s
    else
      match s.sideRead c b pad n scope with
      | (.page a, s) => .page a s
      | (.fail r a, s) => .failed r a s
      | (.ok region, s) =>
        let bs := (region.map (·.1)).toArray
        let bad := (region.map (·.2)).toArray
        let cell := fun i d =>
          let o := d / 16 * f.kb
          let so := if f.sign then 128 else 0
          let byte := 2 * i + d % 16 / 8
          let poisoned := (f.sign && bad.getD (o + byte) false) ||
            (f.expBytes != 0 && bad.getD (o + so + f.expBytes * (16 * i + d % 16)) false) ||
            (List.range f.planes).any fun p => bad.getD (o + so + 1024 * f.expBytes + 128 * p + byte) false
          ((leBytes f.size (f.elemAt bs o i (d % 16))).map fun y => (y, poisoned), Side.glob (addr i d))
        let cells := (List.range lines).flatMap fun i => (List.range k).map fun d => cell i d
        let ready := cells.foldl (fun (acc : Nat × Mv Unit × State) x => match acc.2.1 with
          | .ok _ => match acc.2.2.sideReady c b x.2 f.size scope with
            | (.ok _, s) => (acc.1 + 1, .ok (), s)
            | (m, s) => (acc.1, m, s)
          | _ => acc) (0, .ok (), s)
        (match ready with
          | (_, .ok _, s) => .done (s.writeRows c b scope cells)
          | (_, .page a, s) => .page a s
          | (m, .fail r a, s) => .failed r a (s.writeRows c b scope (cells.take m)))

/-- Cut bytes into stretches of 192. -/
def payloads {α : Type} : Nat → List α → List (List α)
  | 0, _ => []
  | k + 1, bs => if bs.isEmpty then [] else bs.take 192 :: payloads k (bs.drop 192)
/-- The payload of a put's data flit: export number and offset, the poison of its bytes, the bytes (R227; the layout is a DESIGN
CHOICE, log 21). -/
def putBytes (dest : List Byte) (bs : List (Byte × Bool)) : List Byte :=
  dest ++ leBytes 24 (boolMask (bs.map (·.2))) ++ bs.map (·.1)
/-- Send a put: its data flits and its end flit, on one port, with its number as their tag; each payload begins with the export
number and the offset (R225, R374, R376). -/
def State.sendPut (s : State) (w : Win) (tag toff : Nat) (bs : List (Byte × Bool)) : State :=
  let dest := fun (o : Nat) => leBytes 8 (w.pexp + 2 ^ 16 * (toff + o))
  let (i, s) := s.pickPort
  let s := ((payloads (bs.length / 192 + 1) bs).mapIdx fun k p => putBytes (dest (192 * k)) p).foldl
    (fun s p => s.sendVia i (s.flit 1 w.peer (tag % 65536) p)) s
  s.sendVia i (s.flit 2 w.peer (tag % 65536) (dest bs.length))

/-- `put` (R225): the bytes are read and leave the package. -/
def State.movePut (s : State) (c : Ctx) (b : Block) (r : CopyReq) : Moved :=
  let q := r.q.map BitVec.toNat
  let n := cpyBytes 13 q
  match s.win? b.ctx (bits (q.getD 1 0) 11 0) with
  | none => .failed 4 (q.getD 1 0) s
  | some w =>
    if w.size < bits (q.getD 1 0) 63 16 + n then .failed 4 (bits (q.getD 1 0) 63 16) s
    else match s.sideRead c b (sideOf (r.mode == 1) (q.getD 0 0)) n r.scope with
      | (.ok bs, s) => .done (s.sendPut w r.putNo (bits (q.getD 1 0) 63 16) bs)
      | (.page a, s) => .page a s
      | (.fail k a, s) => .failed k a s

/-- Carry out a request. -/
def State.move (s : State) (c : Ctx) (b : Block) (r : CopyReq) : Moved :=
  let q := r.q.map BitVec.toNat
  if r.op = 10 then s.moveRows c b r.scope (cpyRows r.mode q)
  else if r.op = 11 then s.moveCpyp c b r.scope r.mode q
  else if r.op = 12 then
    match s.sideRead c b (locOf (q.getD 3 0)) (4 * bits (q.getD 2 0) 63 52) r.scope with
    | (.page a, s) => .page a s
    | (.fail k a, s) => .failed k a s
    | (.ok bs, s) =>
      let rows := gathRows q (words32 bs)
      let bad := fun (x : Side × Side × Nat) => match x.1 with | .glob a => decide (2 ^ 57 ≤ a + x.2.2 - 1) | _ => false
      match rows.findIdx? bad with
      | none => s.moveRows c b r.scope rows
      | some i => match s.moveRows c b r.scope (rows.take i) with
        | .done s => .failed 2 (match rows[i]? with | some (.glob a, _) => a | _ => 0) s
        | m => m
  else s.movePut c b r

/-- Advance a count of completed numbers with a set beyond it (R197, R377). -/
def advanceCount : Nat → Nat → List Nat → Nat × List Nat
  | 0, n, xs => (n, xs)
  | k + 1, n, xs => if xs.contains (n + 1) then advanceCount k (n + 1) (xs.filter (· != n + 1)) else (n, xs)
/-- Note that put n of a window has met R225, or has been acknowledged by the target. -/
def Win.srcDone' (w : Win) (n : Nat) : Win :=
  let (c, xs) := advanceCount (w.srcDone.length + 1) w.wsrc (n :: w.srcDone)
  { w with wsrc := c, srcDone := xs }
def Win.tgtDone' (w : Win) (n : Nat) : Win :=
  let (c, xs) := advanceCount (w.tgtDone.length + 1) w.wtgt (n :: w.tgtDone)
  { w with wtgt := c, tgtDone := xs, owners := w.owners.filter (·.1 != n) }

/-- The copy timeline after its uncompleted values (R197). -/
def Block.copyCount (b : Block) : Nat :=
  match (b.reqs.filter fun r => r.st == .moving || r.st == .faulted).map (·.value) with
  | [] => b.copyLast
  | v :: vs => vs.foldl min v - 1
/-- A failed value enters the list in order (R228). -/
def insertFail (x : Nat × Nat × Nat) : List (Nat × Nat × Nat) → List (Nat × Nat × Nat)
  | [] => [x]
  | y :: ys => if x.1 ≤ y.1 then x :: y :: ys else y :: insertFail x ys

/-- Complete a request, moved or FAILED: the credit, then the timeline (R227, R228); the context counts a missed promise;
a failed put advances both counters of its window (R377). -/
def State.finishCopy (s : State) (blk : Nat) (r : CopyReq) (fail : Option (Nat × Nat)) : State :=
  let s := match r.clasp with
    | some n => s.credit blk n (cpyBytes r.op (r.q.map BitVec.toNat))
    | none => s
  let s := s.updBlock blk fun b =>
    let b := { b with reqs := b.reqs.filter (·.id != r.id) }
    let b := match fail with
      | some (k, a) => { b with failv := insertFail (r.value, k, a) b.failv, cpFail := b.cpFail + 1 }
      | none => b
    { b with copyTl := max b.copyTl b.copyCount }
  let s := match s.block? blk with
    | some b => if r.tick < s.ct then (s.updCtx b.ctx fun c => { c with cpMiss := sat64 c.cpMiss }).stageCtx b.ctx else s
    | none => s
  if r.op != 13 then s
  else match s.block? blk with
    | some b => match s.win? b.ctx (bits (r.q.getD 1 0).toNat 11 0) with
      | some w => match fail with
        | none => s.setWin (w.srcDone' r.putNo)
        | some (k, a) => s.setWin { (w.srcDone' r.putNo).tgtDone' r.putNo with fails := insertFail (r.putNo, k, a) w.fails }
      | none => s
    | none => s

/-- The tags of the requests sent since a state. -/
def State.tagsSince (s t : State) : List (Nat × Nat × Nat) := (List.range (s.uid - t.uid)).map fun i => ((t.uid + i) % 65536, 0, 0)
/-- What a move has left behind. -/
def Moved.state : Moved → State | .done s => s | .page _ s => s | .failed _ _ s => s
/-- Let an engine read what other packages have answered (R379). -/
def State.withAnswers (s : State) (got : List (Nat × List Byte × Bool)) (lost : Bool) : State :=
  { s with ap := { known := got, lost := lost } }
/-- The event is over. -/
def State.apDone (s : State) : State := { s with ap := {} }
/-- COPY_COMPLETION: the last byte is written, and every package that it went to or came from has answered; or the request stalls
at a page fault, or fails (R227, R228, R379). What it reads of other packages it asks for first; with the answers it moves. -/
def execCopyCompletion (blk id : Nat) (s : State) : Out :=
  match s.req? blk id with
  | none => .fault .noSuchEvent
  | some (b, c, r) =>
    if r.moved then .next (s.finishCopy blk r none)
    else
      let m := (s.withAnswers r.got r.lost).move c { b with reqs := [r] } r
      if !m.state.ap.wanted.isEmpty then
        let (tags, t) := s.askReads m.state.ap.wanted
        .next (t.updBlock blk fun b => b.setReq { r with due := none, tags := tags })
      else match m with
        | .done t =>
          if r.op = 13 ∨ (t.tagsSince s).isEmpty then .next (t.apDone.finishCopy blk r none)
          else .next (t.apDone.updBlock blk fun b => b.setReq { r with due := none, tags := t.tagsSince s, moved := true })
        | .failed k a t => .next (t.apDone.finishCopy blk r (some (k, a)))
        | .page a t =>
          .next (t.apDone.updBlock blk fun b => b.setReq { r with st := .faulted, due := none, fail := some (6, a), late := true })
/-- COPY_PAGE_RESUME: the page is mapped, and the request goes on (R228). -/
def execCopyPageResume (blk id : Nat) (s : State) : Out :=
  match s.req? blk id with
  | none => .fault .noSuchEvent
  | some (_, _, r) =>
    let (d, s) := s.delay
    .next (s.updBlock blk fun b => b.setReq { r with st := .moving, due := some (s.cc + d), fail := none, late := true })

end Sys2Proof.Machine
end

