-- ==== Sys2Proof/Machine/Pages.lean ====
section
/-!
DEFINITION. Frames and pages: the pools of a die, dirty frames, what invalidations drop, and the states of a page of a context (R331,
R336, R337).
-/
namespace Sys2Proof.Machine

/-! ## Pools and frames (R331, R336, R337; DESIGN CHOICE, log 5) -/

/-- The range of frames that a die's pool of a SIZE starts with: offset in the die's HBM, and how many (DESIGN CHOICE, log 5). -/
def poolRange : Nat → Nat × Nat
  | 0 => (0xFC0000000, 196608) | 1 => (0xFA0000000, 32768) | 2 => (0xF80000000, 8192) | 3 => (0xF60000000, 2048)
  | 4 => (0xF40000000, 512) | 5 => (0xF20000000, 256) | 6 => (0xF00000000, 128) | 7 => (0xEC0000000, 64)
  | 8 => (0xE80000000, 16) | 9 => (0xE00000000, 8) | 10 => (0xC00000000, 8) | _ => (0x800000000, 1)
/-- A pool: frames given back, and how many of its range are out. -/
def State.pool (s : State) (die size : Nat) : List Nat × Nat := match s.pools.find? (·.1 == (die, size)) with
  | some p => p.2
  | none => ([], 0)
def State.setPool (s : State) (die size : Nat) (p : List Nat × Nat) : State :=
  { s with pools := ((die, size), p) :: s.pools.filter (·.1 != (die, size)) }
/-- Take a free frame of a pool. -/
def State.popFrame (s : State) (die size : Nat) : Option Nat × State :=
  match s.pool die size with
  | (f :: fs, n) => (some f, s.setPool die size (fs, n))
  | ([], n) =>
    let r := poolRange size
    if n < r.2 ∧ die < s.pkg.dies then (some (die * 2 ^ 36 + r.1 + n * 2 ^ pageLog size), s.setPool die size ([], n + 1))
    else (none, s)
/-- Give a frame back to its pool. -/
def State.pushFrame (s : State) (die size f : Nat) : State :=
  let p := s.pool die size
  s.setPool die size (f :: p.1, p.2)
/-- Whether an entry of a TLB overlaps a range of a context. -/
def TlbEnt.overlaps (t : TlbEnt) (ctx va n : Nat) : Bool :=
  let base := t.va / 2 ^ t.logSize * 2 ^ t.logSize
  t.ctx == ctx && base < va + n && va < base + 2 ^ t.logSize
/-- Drop the entries of a context that overlap a range from every TLB (R337). -/
def State.tlbDrop (s : State) (ctx va n : Nat) : State := { s with tlb := s.tlb.filter fun t => !t.overlaps ctx va n }
def State.writeEntry (s : State) (pa e : Nat) : State := s.writePhys none pa (leBytes 8 e)
/-- The physical address of the level-0 entry of an address. -/
def State.entryOf (s : State) (va : Nat) : Nat → Nat → Option Nat
  | 0, _ => none
  | n + 1, table =>
    let pa := table + 8 * (va / 2 ^ (12 + 9 * n) % 512)
    if n = 0 then some pa
    else
      let e := s.phys pa 8
      if e % 4 = 1 then s.entryOf va n (leafFrame e) else none
/-- The size code of a byte count. -/
def sizeCode (n : Nat) : Option Nat := (List.range 12).find? fun k => 2 ^ pageLog k == n
/-- A range of frames goes to the dirty list: whole where it is a page, else 4 KiB by 4 KiB (R331). -/
def State.soil (s : State) (base n : Nat) : State :=
  { s with dirtyFrames := s.dirtyFrames ++ match sizeCode n with
    | some k => if base % n = 0 then [(base, k)] else (List.range (n / 4096)).map fun i => (base + 4096 * i, 0)
    | none => (List.range (n / 4096)).map fun i => (base + 4096 * i, 0) }
/-- Firmware zeroes a dirty frame, and returns it to its pool (R331; DESIGN CHOICE, log 5). -/
def State.scrub (s : State) (f size : Nat) : State :=
  let out := fun (a : Nat) => decide (a < f) || decide (f + 2 ^ pageLog size ≤ a)
  let s := s.countRange f (2 ^ pageLog size)
  let s := { s with
    mem := s.mem.filter fun x => out x.1, granKey := s.granKey.filter fun x => out (64 * x.1)
    poison := s.poison.filter fun g => out (64 * g), dirtyFrames := s.dirtyFrames.erase (f, size) }
  match s.pkg.region f with
  | some (.hbm d) => s.pushFrame d size f
  | _ => s
/-- The first dirty frame that no migration record in FORWARD covers, where a write would reach another frame (R339). -/
def State.nextDirty (s : State) : Option (Nat × Nat) := s.dirtyFrames.find? fun x =>
  !s.migs.any fun m => m.newBase.isSome && decide (m.base < x.1 + 2 ^ pageLog x.2) && decide (x.1 < m.base + m.size)

/-! ## Pages of a context (R331) -/

/-- The bytes of a page. -/
def PageRec.bytes (p : PageRec) : Nat := 2 ^ pageLog p.size
/-- Whether a page lies in a range of its context, or shares bytes with it. -/
def PageRec.within (p : PageRec) (ctx va n : Nat) : Bool := p.ctx == ctx && decide (va ≤ p.va) && decide (p.va + p.bytes ≤ va + n)
def PageRec.meets (p : PageRec) (ctx va n : Nat) : Bool := p.ctx == ctx && decide (p.va < va + n) && decide (va < p.va + p.bytes)
/-- Whether a page is MAPPED by the leaf that it was mapped with. -/
def State.isMapped (s : State) (c : Ctx) (p : PageRec) : Bool := match s.walk p.va 5 c.ptroot with
  | .leaf e => leafSize e == p.size && leafFrame e == p.frame
  | _ => false
/-- What an invalidation that covers a page makes of it (R331): a MAPPED page stays; the frames of a FREED one are dirty; a page in
SPLITTING is from now on the pages that its smaller leaves name. The pages, and the ranges of frames. -/
def State.settlePage (s : State) (c : Ctx) (p : PageRec) : List PageRec × List (Nat × Nat) :=
  if s.isMapped c p then ([p], [])
  else
    let offs := (List.range (p.bytes / 4096)).map (4096 * ·)
    let here := fun (off : Nat) => match s.walk (p.va + off) 5 c.ptroot with
      | .leaf e => if leafFrame e + (p.va + off) % 2 ^ pageLog (leafSize e) = p.frame + off then some e else none
      | _ => none
    if offs.all fun off => (here off).isNone then ([], [(p.frame, p.bytes)])
    else
      (offs.filterMap fun off => (here off).bind fun e =>
         if (p.va + off) % 2 ^ pageLog (leafSize e) = 0 then
           some { ctx := p.ctx, va := p.va + off, size := leafSize e, frame := p.frame + off } else none,
       offs.filterMap fun off => if (here off).isNone then some (p.frame + off, 4096) else none)
/-- An invalidation over a range of a context has completed (R331). -/
def State.settlePages (s : State) (ctx va n : Nat) : State := match s.ctx? ctx with
  | none => s
  | some c =>
    let done := (s.pages.filter (·.within ctx va n)).map (s.settlePage c)
    (done.flatMap (·.2)).foldl (fun (s : State) x => s.soil x.1 x.2)
      { s with pages := s.pages.filter (fun p => !p.within ctx va n) ++ done.flatMap (·.1) }
/-- Pages that the host has mapped are known by the translations of them that a TLB holds. -/
def State.notePages (s : State) (ctx va n : Nat) : State :=
  (s.tlb.filter (·.overlaps ctx va n)).foldl (fun (s : State) t =>
    let e := t.leaf.toNat
    let p : PageRec := { ctx := ctx, va := t.va / 2 ^ t.logSize * 2 ^ t.logSize, size := leafSize e, frame := s.home (leafFrame e) }
    let inMem := match s.pkg.region p.frame with | some (.hbm _) | some (.cxl _) => true | _ => false
    if inMem && !s.pages.any (·.meets ctx p.va p.bytes) then { s with pages := s.pages ++ [p] } else s) s
/-- A page is mapped. -/
def State.pageMapped (s : State) (ctx va size frame : Nat) : State :=
  { s with pages := s.pages ++ [{ ctx := ctx, va := va, size := size, frame := frame }] }
/-- Free a 4 KiB page of a context that the loader mapped: its entry is cleared, its translations go, its frame is dirty. -/
def State.freePage (s : State) (c : Ctx) (va : Nat) : State :=
  match s.walk va 5 c.ptroot, s.entryOf va 5 c.ptroot with
  | .leaf e, some pa =>
    let s := (s.writeEntry pa 0).tlbDrop c.num va 4096
    let s : State := { s with pages := s.pages.filter fun p => !p.within c.num va 4096 }
    s.soil (leafFrame e) 4096
  | _, _ => s

end Sys2Proof.Machine
end

