-- ==== Sys2Proof/Machine/Results.lean ====
section
/-!
DEFINITION. Results: the completion of what is in flight (R55 to R57, R65, R87, R94, R112, R115), poisoned data that arrives
(R160), and the delivery of a held fault (R398).
-/
namespace Sys2Proof.Machine

/-! ## Scoreboards -/

/-- Whether every flight of a scoreboard has returned or has arrived with poisoned data. -/
def Group.clear (g : Group) (board : List Nat) : Bool :=
  board.all fun id => !g.flights.any fun f => f.id == id && !f.arrived
/-- Flights of a DRAIN class that have not completed (R57, R86). -/
def Group.count (g : Group) (cls : Drn) : Nat := (g.flights.filter fun f => f.cls == cls && !f.arrived).length

/-- A parked path whose scoreboard is empty is ready, and may issue from the next cc (R87, R94). -/
def Group.unparkPath (g : Group) (cc : Nat) (p : Path) : Path :=
  match p.cond with
  | .park others =>
    if g.clear p.board then { p with cond := if others.isEmpty then .ready else .yielded others, start := cc + 1 } else p
  | _ => p
def Group.unpark (g : Group) (cc : Nat) : Group :=
  { g with
    slot0 := g.slot0.map (g.unparkPath cc), slot1 := g.slot1.map (g.unparkPath cc)
    traps := g.traps.map fun t => { t with other := t.other.map (g.unparkPath cc) } }

/-- A number leaves a scoreboard. -/
def Path.off (id : Nat) (p : Path) : Path := { p with board := p.board.filter (· != id) }
/-- A flight is over: it leaves the group and every scoreboard. -/
def Group.cleared (g : Group) (id : Nat) : Group :=
  { g with
    flights := g.flights.filter (·.id != id)
    slot0 := g.slot0.map (·.off id), slot1 := g.slot1.map (·.off id)
    stack := g.stack.map fun e => { e with board := e.board.filter (· != id) }
    toks := g.toks.map fun t => { t with board := t.board.filter (· != id) }
    traps := g.traps.map fun t => { t with other := t.other.map (·.off id), trapped := t.trapped.off id } }

/-! ## System registers (Tables TRP-7 to TRP-9) -/

/-- `gstat`. -/
def Group.gstat (g : Group) : Nat :=
  g.stale.toNat + 2 * g.staleEn.toNat + 4 * g.qovf.toNat + (if g.traps.isEmpty then 0 else 8) +
    (if 1 < g.traps.length then 16 else 0)
/-- The writable fields of `gstat`. -/
def Group.setGstat (g : Group) (x : W64) : Group :=
  { g with stale := x.getLsbD 0, staleEn := x.getLsbD 1, qovf := x.getLsbD 2 }
/-- A system register of a group takes a value (R312). -/
def Group.setCsr (g : Group) (n : Nat) (x : W64) : Group :=
  if n = 0 then { g with fflags := x.toNat % 32 }
  else if n = 1 then g.setGstat x
  else if n = 2 then { g with b8fmt := x }
  else if n = 4 then { g with trapnest := x }
  else g

/-! ## Completion -/

/-- Whether some scoreboard of a group holds a flight. -/
def Group.onBoard (g : Group) (id : Nat) : Bool :=
  [g.slot0, g.slot1].any (fun p => p.any (·.board.contains id)) || g.stack.any (·.board.contains id) ||
    g.toks.any (·.board.contains id) ||
    g.traps.any fun t => t.trapped.board.contains id || t.other.any (·.board.contains id)
/-- Whether a result is discarded when it arrives: its path has no lane left, or its group has ended (R94, R114). -/
def Group.discards (g : Group) (f : Flight) : Bool := g.st == .exited || (f.board && !g.onBoard f.id)
/-- The writes of a flight become visible, in order (R112, R115). -/
def Group.land (g : Group) (f : Flight) : Group :=
  let g := f.writes.foldl (fun g w => { g.complete w with landed := g.landed ++ [(f.slot, w)] }) g
  { g with fflags := g.fflags ||| f.flags }

/-- A flight completes: its registers, its flags, the system register it replaces (R65, R112, R312). -/
def State.finish (s : State) (blk grp : Nat) (f : Flight) : State :=
  let s := s.updGroup blk grp fun g =>
    let g := (if g.discards f then g else g.land f).cleared f.id
    let g := match f.csr with | some (n, x) => g.setCsr n x | none => g
    g.unpark s.cc
  match f.csr with
  | some (3, x) => s.updBlock blk fun b => { b with mtx := { b.mtx with mflags := x.toNat % 128 } }
  | _ => s

/-- Poisoned data arrives: nothing of the result is written, and POISON waits for the path's next issue (R160). -/
def State.arrivePoison (s : State) (blk grp id : Nat) : State :=
  s.updGroup blk grp fun g => if !g.onBoard id then g.cleared id else
    ({ g with flights := g.flights.map fun (f : Flight) =>
        if f.id = id then { f with arrived := true, due := none, writes := [], cls := .none } else f }).unpark s.cc

/-- A flight of a group. -/
def State.flight? (s : State) (blk grp id : Nat) : Option Flight :=
  (s.group? blk grp).bind fun g => g.flights.find? (·.id == id)
/-- Whether a flight is due before another: by its time, then its slot (R112), then its number. -/
def flightBefore (x y : Nat × Flight) : Bool :=
  x.1 < y.1 || (x.1 == y.1 && (x.2.slot < y.2.slot || (x.2.slot == y.2.slot && x.2.id < y.2.id)))
/-- A `pginv` that completes: the pages of its range go on (R331). -/
def State.invalidated (s : State) (blk : Nat) (f : Flight) : State := match f.inval, s.block? blk with
  | some (va, n), some b => s.settlePages b.ctx va n
  | _, _ => s
/-- The completion of a flight, poisoned or not. -/
def State.landing (s : State) (blk grp id : Nat) : Out :=
  match s.flight? blk grp id with
  | none => .fault .noSuchEvent
  | some f => .next (if f.poison.isSome then s.arrivePoison blk grp id else (s.invalidated blk f).finish blk grp f)

/-- FIXED_RESULT_COMPLETE: a result becomes visible at issue + L (R56). -/
def execFixedResultComplete (blk grp id : Nat) (s : State) : Out := s.landing blk grp id
/-- VARIABLE_RESULT_ARRIVAL: a result of variable latency arrives, or an operation is acknowledged (R57). -/
def execVariableResultArrival (blk grp id : Nat) (s : State) : Out := s.landing blk grp id
/-- STORE_COMPLETION: a store has completed (R161, R250). -/
def execStoreCompletion (blk grp id : Nat) (s : State) : Out := s.landing blk grp id

/-- Something that a group waits for is acknowledged: its flight completes in the next cc. -/
def State.ackFlight (s : State) (id : Nat) (ws : List Wr) : State :=
  { s with blocks := s.blocks.map fun b => { b with groups := b.groups.map fun g => g.fulfil id ws (s.cc + 1) } }

/-! ## Faults at a path's next issue -/

/-- The poisoned flight on a path's scoreboard whose POISON is due. -/
def Group.poisoned? (g : Group) (p : Path) : Option Flight := g.flights.find? fun f => f.arrived && p.board.contains f.id
/-- A path has seen that its data was poisoned: the flight stays for other paths that hold it and have poisoned lanes (R87). -/
def Group.poisonSeen (g : Group) (slot : Nat) (p : Path) (f : Flight) : Group :=
  match f.poison with
  | some (m, addrs) =>
    let rest := m &&& ~~~p.mask &&& ~~~g.exited
    let h := g.setPath slot (some (p.off f.id))
    if rest = 0 ∨ !h.onBoard f.id then g.cleared f.id
    else { h with flights := h.flights.map fun (x : Flight) => if x.id = f.id then { x with poison := some (rest, addrs) } else x }
  | none => g.cleared f.id
/-- POISON of R160: a lane fault on the lanes whose data was poisoned; it resumes at the path's next instruction (R304). -/
def State.poisonTrap (s : State) (r : PRef) (p : Path) (f : Flight) : State :=
  let s := s.updGroup r.blk r.grp (·.poisonSeen r.slot p f)
  match f.poison with
  | some (m, addrs) =>
    if m &&& p.mask = 0 then s
    else s.trapAt r
      { cause := 0x0B, lane := true, fmask := m &&& p.mask, exta := true, faddr := addrs.getD (lowLane (m &&& p.mask)) 0,
        ext := addrs } f.words p.clause p.index
  | none => s

/-- HELD_FAULT_DELIVERY: the fault that a wait ended with while a handler ran is a trap of its own (R398). -/
def execHeldFaultDelivery (r : PRef) (s : State) : Out :=
  match (s.group? r.blk r.grp).bind (·.path? r.slot) with
  | some p => match p.held with
    | some (f, w) =>
      let s := s.updPath r fun p => { p with held := none }
      .next (s.trapAt r f w p.clause p.index)
    | none => .fault .noSuchEvent
  | none => .fault .noSuchEvent

/-- Whether a handler's first 20,000 ct are over (R309). -/
def TrapSt.guardOver (t : TrapSt) (ct : Nat) : Bool := t.guarded && decide (t.start + 20000 ≤ ct)
/-- HANDLER_GUARD_EXPIRY: a handler of a group has run 20,000 ct, and no longer holds back the save of its block (R309). -/
def execHandlerGuardExpiry (blk grp : Nat) (s : State) : Out :=
  match s.group? blk grp with
  | some g =>
    if g.traps.any (·.guardOver s.ct) then
      .next (s.setGroup blk grp { g with traps := g.traps.map fun t => if t.guardOver s.ct then { t with guarded := false } else t })
    else .fault .noSuchEvent
  | none => .fault .noSuchEvent

/-! ## Which groups go on (R118, R243, R289, R309, R315, R342) -/

/-- Whether a block's context is FAULTED: its blocks stay as they stand (R342). -/
def State.frozen (s : State) (b : Block) : Bool := (s.ctx? b.ctx).any (·.st == .faulted)
/-- Whether a group suspends (R289). -/
def Group.suspends (g : Group) : Bool := [g.slot0, g.slot1].any fun p => match p with
  | some p => (match p.cond with | .suspending _ _ _ _ _ => true | _ => false)
  | none => false
/-- Whether a group's paths go on: its context runs and holds no res block back; its block runs or drains; or the block waits to
be saved, and the group's handler is in its first 20,000 ct or the group suspends. -/
def State.goes (s : State) (b : Block) (g : Group) : Bool :=
  g.isResident && !g.victim && match s.ctx? b.ctx with
    | none => false
    | some c => match b.st with
      | .running | .draining _ => c.st == .running && c.restore.isEmpty
      | .stopping => (c.st == .running || c.st == .switching) && (g.traps.any (·.guarded) || g.suspends)
      | .saved => false
/-- Whether a path may have a grant in this cc: it stands at an instruction, or a fault is due, or it yielded at a header. -/
def Group.mayIssue (g : Group) (p : Path) (cc : Nat) : Bool :=
  decide (p.start ≤ cc) && (p.index != 15 || p.hdrDone || p.held.isSome || (g.poisoned? p).isSome || p.cond != .ready)

end Sys2Proof.Machine
end

