-- ==== Sys2Proof/Machine/Matrix.lean ====
section
/-!
DEFINITION. Tile tasks (R253 to R280): the tensor identifier table, tile views, the task ring, the scheduler, the arithmetic
of the matrix engine and the drain unit, halts and continuations, and the accumulator banks.
-/
namespace Sys2Proof.Machine
open Sys2Proof.Num

/-- A TASK fault (Table TRP-2). -/
def taskFault (sub : Nat) : Fault2 := grpFault 0x19 sub

/-! ## Tensor identifiers (R253 to R258) -/

/-- n bytes of a record at an offset, as a number. -/
def fieldAt (bs : List Byte) (o n : Nat) : Nat := leVal ((bs.drop o).take n)
/-- Address of an entry. -/
def Ctx.entryAddr (c : Ctx) (id : Nat) : Nat := c.tidbase + 64 * id
/-- GEN of an entry; a stored 0 counts as 1. -/
def entGen (e : List Byte) : Nat := max 1 (fieldAt e 0x2C 2)
def entValid (e : List Byte) : Bool := fieldAt e 0x2E 1 % 2 == 1
/-- The generation after one. -/
def nextGen (g : Nat) : Nat := if g = 65535 then 1 else g + 1
/-- An entry with its generation advanced, and VALID as given; other bits of byte 0x2E as given. -/
def entMark (e : List Byte) (gen b2e : Nat) : List Byte :=
  e.take 0x2C ++ leBytes 2 gen ++ leBytes 1 b2e ++ e.drop 0x2F

/-- An identifier instruction: the ID of A, and the access to its entry in the table. -/
def State.identifier (s : State) (c : Cur) (e : Mask) (id : Nat) (a : Acs)
    (k : State → List (Nat × List Piece) → List Byte → Out) : Out :=
  if 4096 ≤ id then .next (s.trap c (taskFault 1))
  else s.access c true e (fun _ => c.c.entryAddr id) 64 a 7 fun s ps =>
    let ((bs, _), s) := s.readPieces (ps.headD (0, [])).2
    k s ps bs

/-- The end of `tidset` or `tidinv`: the entry is written, and the instruction counts under DE until it is acknowledged. -/
def State.identified (s : State) (c : Cur) (e : Mask) (srcs : List Src) (sbit : Bool) (ps : List (Nat × List Piece))
    (ent : List Byte) : State :=
  let s := s.writeLanes 64 (fun _ => leVal ent) ps
  let (d, s) := s.delay
  let s := s.updCtx c.b.ctx fun x => { x with tidPend := x.tidPend ++ [(s.uid, c.b.die, c.b.core, s.cc + d)] }
  (s.sided c.ref.blk).putFlight c e srcs { id := 0, slot := 0, due := none, cls := .de } sbit

def execTidset (f : V3) (s : State) : Out :=
  s.issue (some 1) [f.ga, f.gb] [f.ga, f.gb] f.maskP f.s fun s c e =>
    let src := c.g.read f.gb 0
    let id := c.g.read f.ga 0
    if 4096 ≤ id then .next (s.trap c (taskFault 1))
    else s.access c true e (fun _ => src) 64 .read 7 fun s sp =>
      let ((bs, bad), s) := s.readPieces (sp.headD (0, [])).2
      s.identifier c e id .both fun s ps old =>
        if bad then
          .next ((s.sided c.ref.blk).putLater c e [f.ga, f.gb]
            { id := 0, slot := 0, due := none, cls := .de, poison := poisonOf true e (fun _ => src) [lowLane e] } f.s)
        else .next (s.identified c e [f.ga, f.gb] f.s ps (entMark bs (nextGen (entGen old)) 1))
def execTidinv (f : V3) (s : State) : Out :=
  s.issue (some 1) [f.ga] [f.ga] f.maskP f.s fun s c e =>
    s.identifier c e (c.g.read f.ga 0) .both fun s ps old =>
      .next (s.identified c e [f.ga] f.s ps (entMark old (nextGen (entGen old)) (fieldAt old 0x2E 1 / 2 * 2)))
/-- What `tidget` answers for sel 0 to 8 (Table MTX-2). -/
def tidgetVal (e : List Byte) (id sel : Nat) : Nat :=
  if sel = 8 then (if entValid e then id + 65536 * entGen e else 0)
  else fieldAt (entMark e (entGen e) (fieldAt e 0x2E 1)) (8 * sel) 8
def execTidget (f : V3) (s : State) : Out :=
  let sel := f.b.toNat
  let dst : Src := gfld f.d
  s.issue (some 1) [f.ga, dst] (if sel = 9 then [] else [f.ga]) f.maskP f.s fun s c e =>
    if sel = 9 then s.variable c e [f.ga] (wrG f.d.toNat (ringBase c.c c.b)) .dl f.s
    else
      let id := c.g.read f.ga 0
      s.identifier c e id .read fun s _ ent => s.variable c e [f.ga] (wrG f.d.toNat (tidgetVal ent id sel)) .dl f.s

/-- TID_ACKNOWLEDGE: the identifier unit has acknowledged an instruction (R258). -/
def execTidAcknowledge (ctx id : Nat) (s : State) : Out :=
  match s.ctx? ctx with
  | none => .fault .noSuchEvent
  | some c =>
    if c.tidPend.any (·.1 == id) then
      .next ((s.setCtx { c with tidPend := c.tidPend.filter (·.1 != id) }).ackFlight id [])
    else .fault .noSuchEvent

/-! ## Tile views and edge predicates (R259, R260) -/

def viewGen (v : BitVec 128) : Nat := v.toNat / 2 ^ 16 % 2 ^ 16
def execTview (f : V3) (s : State) : Out :=
  s.issue (some 1) [f.ga, f.gb] [f.ga, f.gb] f.maskP f.s fun s c e =>
    let n := c.g.read f.ga 0
    let o := c.g.read f.gb 0
    if bits n 15 12 != 0 || bits n 63 32 != 0 then .next (s.trap c (taskFault 2))
    else
      let v : BitVec 128 := BitVec.ofNat 128 (bits n 31 0 + 2 ^ 32 * o)
      let c := { c with g := { c.g with t := c.g.t.set f.d.toNat v } }
      .next (s.done c e [f.ga, f.gb] f.s)
/-- `emask` with the mask that a value gives. -/
def State.setEdge (s : State) (f : V3) (fn : Nat → Nat) : Out :=
  s.issue (some 1) [f.ga] [f.ga] f.maskP f.s fun s c e =>
    let c := { c with g := { c.g with e := c.g.e.set f.d.toNat (BitVec.ofNat 64 (fn (c.g.read f.ga 0))) } }
    .next (s.done c e [f.ga] f.s)
def execEmask (f : V3) (s : State) : Out := s.setEdge f id
def execEmaskCnt (f : V3) (s : State) : Out := s.setEdge f fun n => 2 ^ min n 64 - 1

/-! ## Beads (R261 to R264) -/

/-- A bead's fields, from its 512 bits (Table MTX-4). -/
structure BeadW where
  kind : Nat
  cont : Bool
  acc : Nat
  clr : Bool
  ser : Bool
  af : Nat
  add : Bool
  relu : Bool
  rm : Nat
  sat : Bool
  scope : Nat
  we : Bool
  wpar : Bool
  ae : Bool
  wcl : Nat
  acl : Nat
  k : Nat
  koff : Nat
  er : W64
  ec : W64
  v0 : BitVec 128
  v1 : BitVec 128
  rsvd : Nat := 0              -- its reserved bits
  deriving DecidableEq, Repr

def BeadW.ofNat (x : Nat) : BeadW :=
  { kind := bits x 7 0, cont := x.testBit 8, acc := bits x 10 9, clr := x.testBit 11, ser := x.testBit 12,
    af := bits x 14 13, add := x.testBit 15, relu := x.testBit 16, rm := bits x 19 17, sat := x.testBit 20,
    scope := bits x 24 21, we := x.testBit 25, wpar := x.testBit 26, ae := x.testBit 27, wcl := bits x 35 28,
    acl := bits x 43 36, k := bits x 95 64, koff := bits x 127 96, er := BitVec.ofNat 64 (bits x 191 128),
    ec := BitVec.ofNat 64 (bits x 255 192), v0 := BitVec.ofNat 128 (bits x 383 256),
    v1 := BitVec.ofNat 128 (bits x 511 384), rsvd := bits x 47 44 + 16 * bits x 63 56 }
/-- The 64 bytes of a fresh bead: STATUS, REASON, KOFF and CONT are 0. -/
def BeadW.bytes (w : BeadW) : List Byte :=
  leBytes 8 (w.kind + 2 ^ 9 * w.acc + 2 ^ 11 * w.clr.toNat + 2 ^ 12 * w.ser.toNat + 2 ^ 13 * w.af + 2 ^ 15 * w.add.toNat +
    2 ^ 16 * w.relu.toNat + 2 ^ 17 * w.rm + 2 ^ 20 * w.sat.toNat + 2 ^ 21 * w.scope + 2 ^ 25 * w.we.toNat +
    2 ^ 26 * w.wpar.toNat + 2 ^ 27 * w.ae.toNat + 2 ^ 28 * w.wcl + 2 ^ 36 * w.acl) ++
  leBytes 4 w.k ++ leBytes 4 0 ++ leBytes 8 w.er.toNat ++ leBytes 8 w.ec.toNat ++ leBytes 16 w.v0.toNat ++
  leBytes 16 w.v1.toNat

/-- Address of bead n of a block's ring (R262). -/
def beadAddr (c : Ctx) (b : Block) (n : Nat) : Nat := ringBase c b + 64 * (n % 64)
/-- A bead's fields, as its slot of the ring holds them. -/
def State.beadW (s : State) (c : Ctx) (b : Block) (n : Nat) : BeadW := BeadW.ofNat (s.vword c b.die b.core (beadAddr c b n) 64)
/-- Set STATUS and REASON of a bead (R263). -/
def State.setStatus (s : State) (c : Ctx) (b : Block) (n status reason : Nat) : State :=
  s.vset c b.die b.core (beadAddr c b n + 6) 1 (status + 4 * reason)
/-- Set KOFF, and CONT where the bead stopped at a boundary (R275). -/
def State.setKoff (s : State) (c : Ctx) (b : Block) (n koff : Nat) (stopped : Bool) : State :=
  let s := s.vset c b.die b.core (beadAddr c b n + 12) 4 koff
  if stopped then s.vset c b.die b.core (beadAddr c b n + 1) 1 ((s.vword c b.die b.core (beadAddr c b n + 1) 1) ||| 1) else s

/-- Check 4 of R264: a clasp number that is out of the block's range. -/
def BeadW.claspBad (w : BeadW) (clasps : Nat) : Option Nat :=
  if w.we ∧ clasps ≤ w.wcl then some w.wcl else if w.ae ∧ clasps ≤ w.acl then some w.acl else none

/-- Write a bead: check 4 of R264, the room of the ring, the bead itself (R262, R264). -/
def State.writeBead (s : State) (c : Cur) (e : Mask) (sbit : Bool) (w : BeadW) : Out :=
  match w.claspBad c.b.clasps.length with
  | some n => .next (s.trap c (s.claspFault c.b n 6))
  | none =>
    let n := c.b.mtx.tail + 1
    if 64 < n - c.b.mtxTl then .next (s.stall c .ring)
    else match s.vwrite c.c c.b.die c.b.core (beadAddr c.c c.b n) w.bytes with
      | (none, s) => .next (s.faultCtx c.b.ctx)
      | (some s, _) =>
        let pend := (c.c.tidPend.filter fun x => x.2.1 == c.b.die && x.2.2.1 == c.b.core).map (·.1)
        let s := s.updBlock c.ref.blk fun b =>
          { b with mtx := { b.mtx with tail := n, beads := b.mtx.beads ++ [{ num := n, st := .queued, minAck := pend }] } }
        .next (s.putLater c e [] { id := 0, slot := 0, due := none, cls := .de } sbit)

/-- Check 2 of R264: an empty view among those named. -/
def Cur.viewEmpty (c : Cur) (ts : List Nat) : Bool := ts.any fun t => viewGen (c.g.t.getD t 0) == 0

def execMma (f : Mma) (s : State) : Out :=
  s.issue (some 1) [gfld f.gk] [gfld f.gk] (·.maskP f.x.gp f.x.gi) f.s fun s c e =>
    let k := c.g.gval f.gk.toNat
    if c.viewEmpty [f.ta.toNat, f.tb.toNat] then .next (s.trap c (taskFault 3))
    else if k = 0 ∨ 2 ^ 24 < k then .next (s.trap c (taskFault 4))
    else s.writeBead c e f.s
      { kind := 1, cont := false, acc := f.acc.toNat, clr := f.clr, ser := f.ser, af := f.x.af.toNat, add := false,
        relu := false, rm := 0, sat := false, scope := f.x.scope.toNat, we := f.x.we, wpar := f.x.wpar, ae := f.x.ae,
        wcl := f.x.wcl.toNat, acl := f.x.acl.toNat, k := k, koff := 0, er := c.g.e.getD f.er.toNat 0,
        ec := c.g.e.getD f.ec.toNat 0, v0 := c.g.t.getD f.ta.toNat 0, v1 := c.g.t.getD f.tb.toNat 0 }
def execDrain (f : Drain) (s : State) : Out :=
  s.issue (some 1) [] [] (·.maskP f.x.gp f.x.gi) f.s fun s c e =>
    if c.viewEmpty [f.td.toNat, f.ta.toNat, f.tb.toNat] then .next (s.trap c (taskFault 3))
    else
      let name := fun (t : Nat) => (c.g.t.getD t 0).toNat % 2 ^ 32
      s.writeBead c e f.s
        { kind := 2, cont := false, acc := f.acc.toNat, clr := false, ser := false, af := 0, add := f.add, relu := f.relu,
          rm := f.x.rm.toNat, sat := f.x.sat, scope := f.x.scope.toNat, we := f.x.we, wpar := f.x.wpar, ae := f.x.ae,
          wcl := f.x.wcl.toNat, acl := f.x.acl.toNat, k := 0, koff := 0, er := c.g.e.getD f.er.toNat 0,
          ec := c.g.e.getD f.ec.toNat 0, v0 := c.g.t.getD f.td.toNat 0,
          v1 := BitVec.ofNat 128 (name f.ta.toNat + 2 ^ 32 * name f.tb.toNat) }
def execMzero (f : Mzero) (s : State) : Out :=
  s.issue (some 1) [] [] (·.maskP f.x.gp f.x.gi) f.s fun s c e =>
    s.writeBead c e f.s
      { kind := 3, cont := false, acc := f.acc.toNat, clr := false, ser := false, af := f.af.toNat, add := false,
        relu := false, rm := 0, sat := false, scope := f.x.scope.toNat, we := f.x.we, wpar := f.x.wpar, ae := f.x.ae,
        wcl := f.x.wcl.toNat, acl := f.x.acl.toNat, k := 0, koff := 0, er := c.g.e.getD f.er.toNat 0,
        ec := c.g.e.getD f.ec.toNat 0, v0 := 0, v1 := 0 }

/-! ## Entries as a task reads them (R254, R255) -/

/-- The fields of a tensor entry (Table MTX-1). -/
structure Ent where
  base : Nat
  scbase : Nat
  rows : Nat
  cols : Nat
  rstr : Nat
  kbstr : Nat
  fmt : Nat
  rowMajor : Bool
  loc : Bool
  orient : Bool
  scloc : Bool
  scfmt : Nat
  scgran : Bool
  expoff : Int
  gen : Nat
  valid : Bool
  reserved : Bool              -- a reserved field is not 0
  deriving DecidableEq, Repr

def Ent.ofBytes (e : List Byte) : Ent :=
  let l := fieldAt e 0x29 1
  { base := fieldAt e 0 8, scbase := fieldAt e 8 8, rows := fieldAt e 0x10 4, cols := fieldAt e 0x14 4,
    rstr := fieldAt e 0x18 8, kbstr := fieldAt e 0x20 8, fmt := fieldAt e 0x28 1, rowMajor := l.testBit 0,
    loc := l.testBit 1, orient := l.testBit 2, scloc := l.testBit 3, scfmt := bits l 5 4, scgran := l.testBit 6,
    expoff := signExt 8 (fieldAt e 0x2A 1), gen := entGen e, valid := entValid e,
    reserved := l.testBit 7 || fieldAt e 0x2B 1 != 0 || fieldAt e 0x2E 1 / 2 != 0 || fieldAt e 0x2F 17 != 0 ||
      (l.testBit 1 && locBad (fieldAt e 0 8)) || (l.testBit 3 && locBad (fieldAt e 8 8)) }

/-- R255: an entry that a task refuses. -/
def Ent.refused (e : Ent) : Bool :=
  match tfmt e.fmt with
  | none => true
  | some f =>
    e.reserved || e.rows == 0 || 2 ^ 24 < e.rows || e.cols == 0 || 2 ^ 24 < e.cols ||
      (e.scfmt == 0 && e.scbase != 0) ||
      (if e.rowMajor then e.kbstr != 0 || e.rstr % f.size != 0
       else e.rstr % 128 != 0 || e.kbstr % 128 != 0 || e.kbstr < f.kb)
/-- Whether a format is floating. -/
def floating (fmt : Nat) : Bool := fmt < 0x30
/-- Multiply a value by a power of two. -/
def scale2 (x : FV) (n : Int) : FV := match x with | .fin m e => .fin m (e + n) | y => y
/-- The value of an element's code under a format (R59, R63, R66). -/
def fmtValue (fmt code : Nat) : FV :=
  if fmt < 0x20 then decode8 (B8.ofCode fmt) code
  else if fmt = 0x20 then decodeF f16 code
  else if fmt = 0x21 then decodeF bf16 code
  else if fmt = 0x22 then decodeF f32 code
  else if fmt = 0x23 then decodeF f64 code
  else if fmt = 0x48 then ofInt (if code % 2 = 0 then 1 else -1)
  else match tfmt fmt with
    | some f => ofInt (if f.signedInt then signExt f.planes code else (code % 2 ^ f.planes : Nat))
    | none => .zero false
/-- The real value of an element (R254). -/
def Ent.real (e : Ent) (code : Nat) : FV := scale2 (fmtValue e.fmt code) e.expoff

/-- Origin of a view. -/
def viewRow (v : BitVec 128) : Nat := bits v.toNat 63 32
def viewCol (v : BitVec 128) : Nat := bits v.toNat 95 64
def viewId (v : Nat) : Nat := v % 2 ^ 12
def viewGenN (v : Nat) : Nat := v / 2 ^ 16 % 2 ^ 16
/-- The names whose entries a bead uses. -/
def BeadW.names (w : BeadW) : List Nat :=
  if w.kind = 1 then [w.v0.toNat % 2 ^ 32, w.v1.toNat % 2 ^ 32]
  else if w.kind = 2 then [w.v0.toNat % 2 ^ 32, w.v1.toNat % 2 ^ 32, w.v1.toNat / 2 ^ 32 % 2 ^ 32]
  else []

/-- The halt reason at the start of a task, once its entries are read (R268, R273); none where it runs. -/
def startReason (w : BeadW) (accFmt : Nat) (es : List Ent) : Option Nat :=
  let bad := (w.names.zip es).any fun x => x.2.gen != viewGenN x.1 || !x.2.valid
  if bad then some 1
  else if es.any Ent.refused then some 2
  else if w.kind = 1 then match es with
    | [a, b] =>
      if a.rowMajor || a.orient || b.rowMajor || !b.orient then some 4
      else if viewRow w.v0 % 64 != 0 || viewCol w.v1 % 64 != 0 || viewCol w.v0 % 16 != 0 || viewRow w.v1 % 16 != 0 then some 3
      else if w.af = 2 ∧ (floating a.fmt || floating b.fmt || a.expoff != 0 || b.expoff != 0) then some 5
      else if !(w.koff == 0 && w.clr) && accFmt != w.af then some 5
      else none
    | _ => some 2
  else if w.kind = 2 then match es with
    | [d, sa, sb] =>
      let size := match tfmt d.fmt with | some f => f.size | none => 1
      if !d.rowMajor || !(d.fmt < 0x20 || d.fmt == 0x20 || d.fmt == 0x21 || d.fmt == 0x22) then some 4
      else if d.rstr % size != 0 || (if d.loc then bits d.base 53 32 else d.base) % size != 0 then some 3
      else if (sa.scfmt != 0 && sa.scgran) || (sb.scfmt != 0 && !sb.scgran) then some 13
      else none
    | _ => some 2
  else none

/-! ## Arithmetic -/

/-- What a task comes to: it ends, it halts for a reason, or a page fault stops it at a boundary. -/
inductive TaskEnd
  | done
  | halt (reason : Nat)
  | page (addr : Nat)
  deriving DecidableEq, Repr

/-- The halt reason of a failing engine access (Table MTX-7), from the reasons of Table CPY-4. -/
def engReason : Nat → Nat
  | 3 => 8 | 4 => 9 | 5 => 10 | _ => 6
/-- Read n bytes of a side for a task: the bytes, or how the task ends. -/
def State.taskRead (s : State) (c : Ctx) (b : Block) (x : Side) (n scope : Nat) : (List Byte ⊕ TaskEnd) × State :=
  match s.sideRead c b x n scope 2 with
  | (.ok bs, s) => (if bs.any (·.2) then .inr (.halt 12) else .inl (bs.map (·.1)), s)
  | (.page a, s) => (.inr (.page a), s)
  | (.fail r _, s) => (.inr (.halt (engReason r)), s)

/-- A side of an entry. -/
def entSide (loc : Bool) (x : Nat) : Side := if loc then locOf x else .glob x

/-- The elements of an accumulator, in order 64 i + j. -/
def Acc.elems (a : Acc) : Array Nat := a.cells.foldl (fun xs c => xs.setIfInBounds c.1 c.2.toNat) (Array.replicate 4096 0)
/-- An accumulator with the elements given. -/
def Acc.ofElems (fmt : Nat) (dirty : Bool) (xs : Array Nat) : Acc :=
  { fmt := fmt, dirty := dirty,
    cells := (List.range 4096).filterMap fun i => if xs.getD i 0 = 0 then none else some (i, BitVec.ofNat 64 (xs.getD i 0)) }
/-- The value of an accumulator element under its format. -/
def accValue (fmt x : Nat) : FV :=
  if fmt = 0 then decodeF f32 x else if fmt = 1 then decodeF f64 x else ofInt (signExt 32 x)

/-- One accumulation of R268: the new element, `mflags` bits. -/
def accStep (fmt old : Nat) (prods : List FV) : Nat × Nat :=
  if fmt = 2 then
    let t := (sumD (accValue 2 old :: prods))
    let x := t.1 * 2 ^ t.2.toNat
    let y := clampInt (intMin 32 true) (intMax 32 true) x
    (wrapN 32 y, if x = y then 0 else 32)
  else encodeSum (if fmt = 0 then f32 else f64) 0 false 0 (accValue fmt old :: prods)

/-- The 64 lines of 16 depths of an operand of a step, from its k-block; elements outside the limits given read zero. -/
def Ent.lines (e : Ent) (f : TFmt) (bs : Array Byte) (line depth : Nat → Bool) : Array (Array FV) :=
  ((List.range 64).map fun i => ((List.range 16).map fun u =>
    if line i && depth u then e.real (f.elemAt bs 0 i u) else .zero false).toArray).toArray

/-- One step of an MMA task: the new elements and their flags, or how the task ends (R268). -/
def State.mmaStep (s : State) (c : Ctx) (b : Block) (w : BeadW) (ea eb : Ent) (step : Nat) (acc : Array Nat) :
    (Array Nat × Nat ⊕ TaskEnd) × State :=
  match tfmt ea.fmt, tfmt eb.fmt with
  | some fa, some fb =>
    let lineA := fun i => w.er.getLsbD i && decide (viewRow w.v0 + i < ea.rows)
    let lineB := fun j => w.ec.getLsbD j && decide (viewCol w.v1 + j < eb.cols)
    let depA := fun u => decide (16 * step + u < w.k) && decide (viewCol w.v0 + 16 * step + u < ea.cols)
    let depB := fun u => decide (16 * step + u < w.k) && decide (viewRow w.v1 + 16 * step + u < eb.rows)
    let load := fun (s : State) (e : Ent) (f : TFmt) (band q : Nat) (line depth : Nat → Bool) =>
      if (List.range 64).any line && (List.range 16).any depth then
        match s.taskRead c b ((entSide e.loc e.base).plus (band * e.rstr + q * e.kbstr)) f.kb w.scope with
        | (.inl bs, s) => ((Sum.inl (e.lines f bs.toArray line depth) : Array (Array FV) ⊕ TaskEnd), s)
        | (.inr t, s) => (.inr t, s)
      else (.inl (e.lines f #[] (fun _ => false) depth), s)
    match load s ea fa (viewRow w.v0 / 64) (viewCol w.v0 / 16 + step) lineA depA with
    | (.inr t, s) => (.inr t, s)
    | (.inl xa, s) => match load s eb fb (viewCol w.v1 / 64) (viewRow w.v1 / 16 + step) lineB depB with
      | (.inr t, s) => (.inr t, s)
      | (.inl xb, s) =>
        let sel := (List.range 4096).filter fun n => w.er.getLsbD (n / 64) && w.ec.getLsbD (n % 64)
        (.inl (sel.foldl (fun (x : Array Nat × Nat) n =>
          let prods := (List.range 16).map fun u =>
            mulFV ((xa.getD (n / 64) #[]).getD u (.zero false)) ((xb.getD (n % 64) #[]).getD u (.zero false))
          let (y, fl) := accStep w.af (x.1.getD n 0) prods
          (x.1.setIfInBounds n y, x.2 ||| fl)) (acc, 0)), s)
  | _, _ => (.inr (.halt 2), s)

/-- The steps of an MMA task from a step on: elements, flags, the step reached, how it ends. -/
def State.mmaSteps (s : State) (c : Ctx) (b : Block) (w : BeadW) (ea eb : Ent) :
    Nat → Nat → Array Nat → Nat → (Array Nat × Nat × Nat × TaskEnd) × State
  | 0, step, acc, fl => ((acc, fl, step, .done), s)
  | n + 1, step, acc, fl => match s.mmaStep c b w ea eb step acc with
    | (.inr t, s) => ((acc, fl, step, t), s)
    | (.inl (acc, fl'), s) => State.mmaSteps s c b w ea eb n (step + 1) acc (fl ||| fl')

/-- Scale of R273: the factor of index x. -/
def State.scaleOf (s : State) (c : Ctx) (b : Block) (e : Ent) (x scope : Nat) : (FV ⊕ TaskEnd) × State :=
  if e.scfmt = 0 then (.inl (ofInt 1), s)
  else if (if e.scgran then e.cols else e.rows) ≤ x then (.inl (.zero false), s)
  else
    let n := if e.scfmt = 1 then 1 else if e.scfmt = 2 then 4 else 2
    match s.taskRead c b ((entSide e.scloc e.scbase).plus (x * n)) n scope with
    | (.inr t, s) => (.inr t, s)
    | (.inl bs, s) =>
      let v := leVal bs
      (.inl (if e.scfmt = 1 then (if v = 0xFF then .nan false else if v = 0 then .zero false else .fin 1 (v - 128))
             else decodeF (if e.scfmt = 2 then f32 else bf16) v), s)

/-- The element of a drain: its code and flags (R273). `d` is the destination's value under ADD. -/
def drainElem (w : BeadW) (accFmt old : Nat) (sa sb : FV) (d : Option FV) (e : Ent) : Nat × Nat :=
  let x := prodFV [accValue accFmt old, sa, sb]
  let (y, nv) := match d with
    | some d => sumExact w.rm [x, d]
    | none => (match x with | .nan q => (.nan false, q) | _ => (x, false))
  let y := if w.relu then (match y with | .zero _ => .zero false | .fin m g => if m < 0 then .zero false else .fin m g
                                        | .inf n => if n then .zero false else .inf n | .nan q => .nan q) else y
  let y := scale2 y (-e.expoff)
  let (code, fl) :=
    if e.fmt < 0x20 then encode8 (B8.ofCode e.fmt) w.rm w.sat 0 y
    else encodeF (if e.fmt = 0x20 then f16 else if e.fmt = 0x21 then bf16 else f32) w.rm w.sat 0 y
  (code, fl ||| nvIf nv)

/-- The columns of a drain row in order: the codes and their places, the flags, or how the task ends. -/
def State.drainCols (s : State) (c : Ctx) (b : Block) (w : BeadW) (accFmt : Nat) (acc : Array Nat) (d sb : Ent)
    (size i : Nat) (sa : FV) : List Nat → (List Row × Nat ⊕ TaskEnd) × State
  | [] => (.inl ([], 0), s)
  | j :: js =>
    let r := viewRow w.v0 + i
    let col := viewCol w.v0 + j
    let side := (entSide d.loc d.base).plus (r * d.rstr + col * size)
    match s.scaleOf c b sb col w.scope with
    | (.inr t, s) => (.inr t, s)
    | (.inl fb, s) =>
      let dv := if w.add then s.taskRead c b side size w.scope else (.inl [], s)
      match dv with
      | (.inr t, s) => (.inr t, s)
      | (.inl bs, s) => match s.sideReady c b side size w.scope 2 with
        | (.page a, s) => (.inr (.page a), s)
        | (.fail q _, s) => (.inr (.halt (engReason q)), s)
        | (.ok _, s) =>
          let (code, fl) := drainElem w accFmt (acc.getD (64 * i + j) 0) sa fb
            (if w.add then some (d.real (leVal bs)) else none) d
          match State.drainCols s c b w accFmt acc d sb size i sa js with
          | (.inr t, s) => (.inr t, s)
          | (.inl (rows, fl'), s) => (.inl (((leBytes size code).map fun y => (y, false), side) :: rows, fl ||| fl'), s)

/-- The rows of a drain from row i on: the row reached, the flags, how it ends (R273). -/
def State.drainRows (s : State) (c : Ctx) (b : Block) (w : BeadW) (accFmt : Nat) (acc : Array Nat) (d sa sb : Ent)
    (size : Nat) : Nat → Nat → Nat → (Nat × Nat × TaskEnd) × State
  | 0, i, fl => ((i, fl, .done), s)
  | n + 1, i, fl =>
    let cols := if w.er.getLsbD i ∧ viewRow w.v0 + i < d.rows
      then (List.range 64).filter fun j => w.ec.getLsbD j && decide (viewCol w.v0 + j < d.cols) else []
    if cols.isEmpty then State.drainRows s c b w accFmt acc d sa sb size n (i + 1) fl
    else match s.scaleOf c b sa (viewRow w.v0 + i) w.scope with
      | (.inr t, s) => ((i, fl, t), s)
      | (.inl fa, s) => match s.drainCols c b w accFmt acc d sb size i fa cols with
        | (.inr t, s) => ((i, fl, t), s)
        | (.inl (rows, fl'), s) =>
          State.drainRows (s.writeRows c b w.scope rows 2) c b w accFmt acc d sa sb size n (i + 1) (fl ||| fl')

/-- Set an accumulator of a block. -/
def State.setAcc (s : State) (blk n : Nat) (a : Acc) : State :=
  s.updBlock blk fun b => { b with mtx := { b.mtx with accs := b.mtx.accs.set n a } }

/-- Run a started task to its end or to the boundary where it stops: KOFF there, the flags, and how it ends. -/
def State.runTask (s : State) (c : Ctx) (b : Block) (x : Bead) (w : BeadW) : (Nat × Nat × TaskEnd) × State :=
  let acc := b.mtx.accs.getD w.acc {}
  if w.kind = 3 then
    let xs := if acc.fmt != w.af then Array.replicate 4096 0
      else ((List.range 4096).filter fun n => w.er.getLsbD (n / 64) && w.ec.getLsbD (n % 64)).foldl
        (fun xs n => xs.setIfInBounds n 0) acc.elems
    ((0, 0, .done), s.setAcc b.id w.acc (Acc.ofElems w.af acc.dirty xs))
  else if w.kind = 1 then match x.ents.map Ent.ofBytes with
    | [ea, eb] =>
      let xs := if w.koff = 0 ∧ w.clr then Array.replicate 4096 0 else acc.elems
      let ((ys, fl, step, t), s) := s.mmaSteps c b w ea eb ((w.k + 15) / 16 - w.koff / 16) (w.koff / 16) xs 0
      ((16 * step, fl, t), s.setAcc b.id w.acc (Acc.ofElems w.af acc.dirty ys))
    | _ => ((0, 0, .halt 2), s)
  else match x.ents.map Ent.ofBytes with
    | [d, sa, sb] =>
      let size := match tfmt d.fmt with | some f => f.size | none => 1
      s.drainRows c b w acc.fmt acc.elems d sa sb size (64 - w.koff) w.koff 0
    | _ => ((0, 0, .halt 2), s)

/-- Time of a task in cc (R269, R271, R273). -/
def taskTime (w : BeadW) (es : List Ent) : Nat :=
  let planes := fun (e : Ent) => match tfmt e.fmt with | some f => f.planes | none => 1
  if w.kind = 1 then match es with
    | [a, b] =>
      let ps := planes (if w.ser then b else a)
      let pp := planes (if w.ser then a else b)
      (w.k - w.koff + 15) / 16 * ps * ((pp + 3) / 4)
    | _ => 1
  else if w.kind = 2 then match es with
    | d :: _ => ((List.range 64).filter fun i =>
        decide (w.koff ≤ i) && w.er.getLsbD i && decide (viewRow w.v0 + i < d.rows)).length
    | _ => 1
  else 1

/-! ## Ends of a task (R266, R275, R277) -/

/-- The matrix timeline after its uncompleted beads (R197). -/
def Mtx.count (m : Mtx) : Nat := match m.beads with
  | [] => m.tail
  | x :: xs => (xs.foldl (fun n (y : Bead) => min n y.num) x.num) - 1
/-- Change a bead of a block. -/
def State.updBead (s : State) (blk n : Nat) (f : Bead → Bead) : State :=
  s.updBlock blk fun b => { b with mtx := { b.mtx with beads := b.mtx.beads.map fun x => if x.num = n then f x else x } }
/-- A bead of a block, with what it belongs to. While the block is saved its beads stand still (R315). -/
def State.bead? (s : State) (blk n : Nat) : Option (Block × Ctx × Bead) :=
  match s.block? blk with
  | some b => match s.ctx? b.ctx, b.mtx.beads.find? (·.num == n) with
    | some c, some x => if b.st = .saved then none else some (b, c, x)
    | _, _ => none
  | none => none

/-- Completion (R266): STATUS, flags, the arrive, the timeline. The accumulator is dirty from an MMA bead on until a DRAIN
or MZERO bead (R289). -/
def State.beadEnded (s : State) (c : Ctx) (b : Block) (x : Bead) (w : BeadW) (flags : Nat) : State :=
  let s := s.setStatus c b x.num 2 0
  s.updBlock b.id fun b =>
    let (clasps, err) := if !w.ae then (b.clasps, 0) else match b.clasps[w.acl]? with
      | some k => if k.mode = 1 then (b.clasps.set w.acl (k.arrive 1), 0) else (b.clasps, 64)
      | none => (b.clasps, 64)
    let acc := b.mtx.accs.getD w.acc {}
    let m := { b.mtx with beads := b.mtx.beads.filter (·.num != x.num),
                          accs := b.mtx.accs.set w.acc { acc with dirty := w.kind == 1 }, mflags := b.mtx.mflags ||| flags ||| err,
                          halted := b.mtx.halted.filter (·.1 != x.num) }
    { b with clasps := clasps, mtx := m, mtxTl := max b.mtxTl m.count }
/-- The waits that the arrive of a bead ends, where its block was b before (R206, R210). -/
def State.beadTurned (s : State) (b : Block) (w : BeadW) : State :=
  match if w.ae then b.clasps[w.acl]? else none with
  | some k => s.claspTurned b.id w.acl k
  | none => s
/-- Completion with the waits that it ends. -/
def State.beadDone (s : State) (c : Ctx) (b : Block) (x : Bead) (w : BeadW) (flags : Nat) : State :=
  (s.beadEnded c b x w flags).beadTurned b w

/-- A bead that awaits no answer any more. -/
def Bead.unasked (x : Bead) : Bead := { x with tags := [], got := [], lost := false, sent := false }
/-- A bead halts (R275). -/
def State.haltBead (s : State) (c : Ctx) (b : Block) (x : Bead) (koff flags reason : Nat) : State :=
  let s := (s.setKoff c b x.num koff true).setStatus c b x.num 3 reason
  let s := s.updBlock b.id fun b =>
    { b with mtx := { b.mtx with halted := (x.num, reason) :: b.mtx.halted.filter (·.1 != x.num) } }
  s.updBead b.id x.num fun x => { x.unasked with st := .halted, due := none, recheck := false, fault := none, flags := flags }
/-- A bead stops at a boundary and stays QUEUED; at a page fault it waits for the page (R277). -/
def State.stopBead (s : State) (c : Ctx) (b : Block) (x : Bead) (koff flags : Nat) (fault : Option Nat) : State :=
  let s := (s.setKoff c b x.num koff true).setStatus c b x.num 0 0
  s.updBead b.id x.num fun x => { x.unasked with st := .queued, due := none, fault := fault, flags := flags }

/-- The rows of a task that has come to its end are written; where some lie in other packages it is done with their answers (R379). -/
def State.rowsSent (s t : State) (c : Ctx) (b : Block) (x : Bead) (w : BeadW) (koff flags : Nat) : State :=
  let t := t.setKoff c b x.num koff false
  let tags := t.tagsSince s
  if tags.isEmpty then t.beadDone c b x w flags
  else t.updBead b.id x.num fun x => { x with due := none, tags := tags, sent := true, flags := flags }
/-- The end of a running task: done, halted, or stopped at a page fault. What it reads of other packages it asks for first, and runs with
the answers (R379); one that halts before they are there halts where it started. -/
def State.endTask (s : State) (c : Ctx) (b : Block) (x : Bead) (reason : Option Nat) : State :=
  let w := s.beadW c b x.num
  if x.sent then (match reason with
    | some r => s.haltBead c b x w.koff x.flags r
    | none => s.beadDone c b x w x.flags)
  else
    let ((koff, fl, t), u) := (s.withAnswers x.got x.lost).runTask c b x w
    let fl := fl ||| x.flags
    if !u.ap.wanted.isEmpty then (match reason with
      | some r => s.haltBead c b x w.koff x.flags r
      | none =>
        let (tags, v) := s.askReads u.ap.wanted
        v.updBead b.id x.num fun x => { x with due := none, tags := tags })
    else
      let u := u.apDone
      match reason, t with
      | some r, _ => u.haltBead c b x koff fl r
      | none, .done => s.rowsSent u c b x w koff fl
      | none, .halt r => u.haltBead c b x koff fl r
      | none, .page a => u.stopBead c b x koff fl (some a)

/-- TASK_COMPLETION: a task's time is over (R266, R275, R277). -/
def execTaskCompletion (blk bead : Nat) (s : State) : Out :=
  match s.bead? blk bead with
  | some (b, c, x) => if x.st = .running then .next (s.endTask c b x none) else .fault .noSuchEvent
  | none => .fault .noSuchEvent
/-- TASK_HALT: a task meets a condition of Table MTX-7; one that runs stops at its boundary (R275). -/
def execTaskHalt (blk bead reason : Nat) (s : State) : Out :=
  match s.bead? blk bead with
  | some (b, c, x) =>
    if x.st = .running then .next (s.endTask c b x (some reason))
    else if x.st = .queued then .next (s.haltBead c b x (s.beadW c b x.num).koff x.flags reason)
    else .fault .noSuchEvent
  | none => .fault .noSuchEvent
/-- TASK_PAGE_RESTART: the page is mapped, and the bead runs again from KOFF (R277). -/
def execTaskPageRestart (blk bead : Nat) (s : State) : Out :=
  match s.bead? blk bead with
  | some (_, _, x) =>
    if x.fault.isSome then .next (s.updBead blk bead fun x => { x with fault := none }) else .fault .noSuchEvent
  | none => .fault .noSuchEvent

/-! ## The scheduler (R265, R279, R280) -/

/-- The engine of a KIND. -/
def engineOf (kind : Nat) : Engine := if kind = 2 then .drain else .matrix
/-- Blocks of a core that may run tasks: not saved, their context not FAULTED, and no path of theirs waits to spill the accumulators (R314). -/
def State.mtxBlocks (s : State) (die core : Nat) : List Block :=
  s.blocks.filter fun b => b.die == die && b.core == core && b.mtx.present && b.st != .saved && !s.frozen b &&
    !b.groups.any fun g => [g.slot0, g.slot1].any fun p => match p with
      | some p => p.cond == .stalled .noTask
      | none => false
/-- Whether an engine of a core runs a task (R269, R273). -/
def State.engineBusy (s : State) (die core : Nat) (eng : Engine) : Bool :=
  s.blocks.any fun b => b.die == die && b.core == core && match s.ctx? b.ctx with
    | some c => b.mtx.beads.any fun x => x.st == .running && engineOf (s.beadW c b x.num).kind == eng
    | none => false

/-- What the scheduler does with a queued bead. -/
inductive Sched | wait | start | halt (reason : Nat)
  deriving DecidableEq, Repr
/-- Whether a reserved bit of a tile view is not 0 (Table MTX-3). -/
def viewRsvd (v : BitVec 128) : Bool := bits v.toNat 15 12 != 0 || v.toNat / 2 ^ 96 != 0
/-- The checks of R264, steps 1, 2 and 4, on the fields of a bead after `mcont` (R278); a reserved bit, of its views too, must be 0
(R5). -/
def BeadW.recheckBad (w : BeadW) (clasps : Nat) : Bool :=
  let scopeBad := w.scope < 2 || 10 < w.scope
  let codeBad := (w.kind != 2 && w.af == 3) || (w.kind == 2 && (w.rm == 5 || w.rm == 7))
  let zeroBad := (!w.we && (w.wpar || w.wcl != 0)) || (!w.ae && w.acl != 0)
  w.rsvd != 0 || viewRsvd w.v0 || viewRsvd w.v1 || scopeBad || codeBad || zeroBad || w.names.any (fun n => viewGenN n == 0) || (w.claspBad clasps).isSome
/-- The conditions of R265 on a queued bead, in order. -/
def State.judge (s : State) (c : Ctx) (b : Block) (x : Bead) (eng : Option Engine) : Sched :=
  let w := s.beadW c b x.num
  if x.fault.isSome then .wait
  else if eng.any (· != engineOf w.kind) then .wait
  else if b.mtx.beads.any fun y => y.num < x.num && (s.beadW c b y.num).acc == w.acc then .wait
  else if x.minAck.any fun id => c.tidPend.any (·.1 == id) then .wait
  else if x.recheck ∧ w.recheckBad b.clasps.length then .halt 14
  else if !w.we then .start
  else match b.clasps[w.wcl]? with
    | none => .halt 11
    | some k => if k.mode != 1 then .halt 11 else if (k.cycle % 2 == 1) != w.wpar then .start else .wait

/-- The first queued bead of a block that starts or halts on an engine. -/
def State.firstBead (s : State) (b : Block) (eng : Option Engine) : Option (Ctx × Bead × Sched) :=
  match s.ctx? b.ctx with
  | none => none
  | some c => (b.mtx.beads.filter (·.st == .queued)).findSome? fun x => match s.judge c b x eng with
    | .wait => none
    | j => some (c, x, j)

/-- Read the entries of a bead (R258): their bytes, or how the task ends before it starts. -/
def State.latch (s : State) (c : Ctx) (b : Block) : List Nat → (List (List Byte) ⊕ TaskEnd) × State
  | [] => (.inl [], s)
  | n :: ns => match s.reach c b.die b.core (c.entryAddr (viewId n)) 64 .read with
    | (.inl m, s) => (.inr (if m.cause = 8 then .page (c.entryAddr (viewId n)) else .halt 6), s)
    | (.inr ps, s) =>
      let ((bs, _), s) := s.readPieces ps
      match State.latch s c b ns with
      | (.inl rest, s) => (.inl (bs :: rest), s)
      | (.inr t, s) => (.inr t, s)

/-- Whether a side lies in global memory or in another core's slice (R269). -/
def remote (b : Block) (e : Ent) : Bool := !e.loc || bits e.base 31 26 != b.core

/-- Start a bead: its entries are read and checked; it halts, waits for a page, or runs (R265, R268, R273). -/
def State.startBead (s : State) (c : Ctx) (b : Block) (x : Bead) (eng : Engine) : State :=
  let w := s.beadW c b x.num
  match s.latch c b w.names with
  | (.inr (.page a), s) => s.stopBead c b x w.koff x.flags (some a)
  | (.inr _, s) => s.haltBead c b x w.koff x.flags 6
  | (.inl es, s) =>
    let ents := es.map Ent.ofBytes
    match startReason w (b.mtx.accs.getD w.acc {}).fmt ents with
    | some r => s.haltBead c b x w.koff x.flags r
    | none =>
      let (more, s) := if ents.any (remote b) then (let (d, s) := s.delay; (d - 1, s)) else (0, s)
      let s := s.setStatus c b x.num 1 0
      let s := s.updBead b.id x.num fun x =>
        { x.unasked with st := .running, ents := es, recheck := false, due := some (s.cc + taskTime w ents + more) }
      let s := s.updBlock b.id fun b => { b with mtx := { b.mtx with lastStart := s.cc, fresh := false } }
      let e := if eng = .matrix then 0 else 1
      { s with turns := ((b.die, b.core, e), b.id) :: s.turns.filter (·.1 != (b.die, b.core, e)) }

/-- The blocks bound to a core's banks, the one whose turn it is first (R265). -/
def State.turnOrder (s : State) (die core : Nat) (eng : Engine) : List Block :=
  let bs := (s.mtxBlocks die core).filter (·.mtx.bank.isSome)
  let last := s.turns.find? (·.1 == (die, core, if eng = .matrix then 0 else 1))
  match last with
  | some (_, id) => bs.filter (·.id != id) ++ bs.filter (·.id == id)
  | none => bs
/-- What an engine of a core may do next: a block and its bead. -/
def State.nextBead (s : State) (die core : Nat) (eng : Engine) : Option (Block × Ctx × Bead × Sched) :=
  if s.engineBusy die core eng then none
  else (s.turnOrder die core eng).findSome? fun b => (s.firstBead b (some eng)).map fun (c, x, j) => (b, c, x, j)

/-- BEAD_START: an engine that is free starts the first bead that may start, or halts it (R265). -/
def execBeadStart (c : CoreId) (eng : Engine) (s : State) : Out :=
  match s.nextBead c.die c.core eng with
  | none => .fault .noSuchEvent
  | some (b, x, bead, j) => match j with
    | .halt r => .next (s.haltBead x b bead (s.beadW x b bead.num).koff bead.flags r)
    | _ => .next (s.startBead x b bead eng)

/-- The image of the accumulators that `accsv` writes (R280, R314). -/
def Mtx.image (m : Mtx) : List Byte :=
  let accs := (List.range 4).map fun n => m.accs.getD n {}
  (accs.map fun a => (a.elems.toList.map (leBytes 8)).flatten).flatten ++
    (accs.map fun a => leBytes 1 a.fmt).flatten ++ leBytes 0x3C 0
def imageSize : Nat := 0x20040
/-- The accumulators that an image holds; none where it has a reserved byte or format code (R314). -/
def accsOf (old : List Acc) (bs : List Byte) : Option (List Acc) :=
  let fmts := (List.range 4).map fun n => fieldAt bs (0x20000 + n) 1
  if fmts.any (2 < ·) || (bs.drop 0x20004).any (· != 0) then none
  else some ((List.range 4).map fun n =>
    let img := (bs.drop (0x8000 * n)).take 0x8000
    let fmt := fmts.getD n 0
    let dirty := (old.getD n {}).dirty
    Acc.ofElems fmt dirty ((List.range 4096).map fun i => fieldAt img (8 * i) (if fmt = 1 then 8 else 4)).toArray)
/-- The accumulators of a block: those of a bank image in its record where one lies there (R280); none where the record cannot be
read, is poisoned or holds no image (R342). -/
def State.bankAccs (s : State) (c : Ctx) (b : Block) : Option (List Acc) × State :=
  if !b.mtx.stored then (some b.mtx.accs, s)
  else match s.reach c b.die b.core (c.record b.recNo + 0x2000) imageSize .read with
    | (.inl _, s) => (none, s)
    | (.inr ps, s) =>
      let ((bs, bad), s) := s.readPieces ps
      (if bad then none else accsOf b.mtx.accs bs, s)

/-- Whether a block has a bead that could start or halt if its engine were free. -/
def State.hasReady (s : State) (b : Block) : Bool := (s.firstBead b none).isSome
/-- The bank that an unbound block takes, and the block that loses it (R280): a free bank, or a candidate's. A block that took its
bank from another keeps it for the task that it is about to start: else the two would swap it for ever (DESIGN CHOICE, log 82). -/
def State.bankFor (s : State) (b : Block) : Option (Nat × Option Block) :=
  let bound := s.blocks.filter fun x => x.die == b.die && x.core == b.core && x.mtx.bank.isSome
  match [0, 1].find? fun k => !bound.any fun x => x.mtx.bank == some k with
  | some k => some (k, none)
  | none =>
    let cand := bound.filter fun x =>
      !x.mtx.beads.any (·.st == .running) && (s.curClass x < 2 || s.curClass b == 2) && !s.frozen x &&
        !(x.mtx.fresh && s.hasReady x)
    let best := cand.foldl (fun (o : Option Block) x => match o with
      | none => some x
      | some y =>
        if s.curClass x < s.curClass y || (s.curClass x == s.curClass y && x.mtx.lastStart < y.mtx.lastStart)
        then some x else some y) none
    match best with
    | some v => v.mtx.bank.map fun k => (k, some v)
    | none => none
/-- Whether a block's oldest queued bead could start if the block had a bank (R280). -/
def State.wantsBank (s : State) (b : Block) : Bool :=
  b.mtx.present && !s.frozen b && b.mtx.bank.isNone && b.st != .saved &&
    match s.ctx? b.ctx, b.mtx.beads.find? (·.st == .queued) with
    | some c, some x => s.judge c b x none != .wait
    | _, _ => false

/-- A block takes a bank, perhaps from another block: its image, where one lies in its record, is loaded (R280). -/
def State.bindBank (s : State) (b : Block) (k : Nat) (taken : Bool) : State := match s.ctx? b.ctx with
  | none => s
  | some c => match s.bankAccs c b with
    | (none, s) => s.faultCtx b.ctx
    | (some accs, s) => s.updBlock b.id fun x => { x with mtx := { x.mtx with bank := some k, stored := false, accs := accs, fresh := taken } }
/-- BANK_TAKE: a block takes a bank; the bank's contents go to its owner's save area first (R280). -/
def execBankTake (blk : Nat) (s : State) : Out :=
  match s.block? blk with
  | none => .fault .noSuchEvent
  | some b =>
    if !s.wantsBank b then .fault .noSuchEvent
    else match s.bankFor b with
      | none => .fault .noSuchEvent
      | some (k, v) =>
        let s := match v with
          | none => some s
          | some v => match s.ctx? v.ctx with
            | some c => match s.vwrite c v.die v.core (c.record v.recNo + 0x2000) v.mtx.image with
              | (some s, _) => some (s.updBlock v.id fun x => { x with mtx := { x.mtx with bank := none, stored := true } })
              | (none, s) => some (s.faultCtx v.ctx)
            | none => none
        match s with
        | some s => .next (s.bindBank b k v.isSome)
        | none => .fault .noSuchEvent

/-! ## Continuations (R278) -/

/-- The halted bead of the issuing block at an address. -/
def haltedAt (c : Ctx) (b : Block) (addr : Nat) : Option Bead :=
  b.mtx.beads.find? fun x => x.st == .halted && beadAddr c b x.num == addr
def State.continueBead (s : State) (f : V3) (go : State → Cur → Bead → State)
    (after : State → State → Cur → Bead → State := fun _ t _ _ => t) : Out :=
  s.issue (some 1) [f.ga] [f.ga] f.maskP f.s fun s c e =>
    match haltedAt c.c c.b (c.g.read f.ga 0) with
    | none => .next (s.trap c (taskFault 5))
    | some x => .next (after s ((go s c x).putLater c e [f.ga] { id := 0, slot := 0, due := none, cls := .de } f.s) c x)
def execMcont (f : V3) (s : State) : Out :=
  s.continueBead f fun s c x =>
    let s := s.setStatus c.c c.b x.num 0 0
    let s := s.updBead c.ref.blk x.num fun x => { x with st := .queued, recheck := true, fault := none }
    s.updBlock c.ref.blk fun b => { b with mtx := { b.mtx with halted := b.mtx.halted.filter (·.1 != x.num) } }
/-- A halted bead completes without further arithmetic (R278). -/
def State.discardBead (s : State) (c : Ctx) (b : Block) (x : Bead) : State := s.beadDone c b x (s.beadW c b x.num) x.flags
def execMcontDiscard (f : V3) (s : State) : Out :=
  s.continueBead f (fun s c x => s.beadEnded c.c c.b x (s.beadW c.c c.b x.num) x.flags) fun s t c x =>
    t.beadTurned c.b (s.beadW c.c c.b x.num)

end Sys2Proof.Machine
end

