-- ==== Sys2Proof/Machine/Waits.lean ====
section
/-!
DEFINITION. Checked waits (R237 to R244): the class check, what ends a wait, and the instructions that wait or signal:
timelines (R212 to R215), `wclasp`, `wjoin`, `hclaim`, `qpop` and `callb`.
-/
namespace Sys2Proof.Machine
open Sys2Proof.Num

/-! ## The class check (R238) -/

/-- What a wait is on, as R238 judges it: its kind, its class, launched class and promotable flag, whether Table PRG-1 marks
the kind "Never", its name (Table PRG-3), and what a reference is held on. -/
structure Target where
  kind : Nat
  cls : Nat
  clsL : Nat
  prom : Bool := false
  fixed : Bool := false
  name : Nat := 0
  block : Option Nat := none
  join : Option (Nat × Nat) := none
  launch : Option (Nat × Nat) := none
  deriving DecidableEq, Repr

/-- The detail word of a WAIT_CLASS fault (Table PRG-4). -/
def Target.detail (t : Target) (w : Nat) : Nat :=
  t.kind + 2 ^ 8 * w + 2 ^ 10 * t.cls + 2 ^ 12 * t.clsL + 2 ^ 14 * t.prom.toNat
/-- A WAIT_CLASS fault (Table PRG-2). -/
def classFault (sub name detail : Nat) : Fault2 := { cause := 0x10, sub := sub, faddr := name, detail := detail }
/-- The fault of a check for a waiter of class w; none where the wait proceeds (R238). -/
def Target.fault (t : Target) (w : Nat) : Option Fault2 :=
  if w ≤ t.cls ∨ (t.prom ∧ !t.fixed) then none else some (classFault (if t.fixed then 4 else 1) t.name (t.detail w))
/-- Blocks that a new reference names while a spill of theirs goes on return before those that no reference names (R241). -/
def State.nameFirst (s : State) (r : Ref) : State :=
  { s with blocks := s.blocks.map fun b =>
      if (r.block == some b.id || r.covers b.ctx b.lvl b.jrec) && b.groups.any (·.victim) then { b with first := true } else b }
/-- Whether the context of a waiting group runs: while it is switched out a budget pauses, and stands as the time left (R243). -/
def State.waiterRuns (s : State) (waiter : Option PRef) : Bool := waiter.all fun w =>
  (s.block? w.blk).all fun b => (s.ctx? b.ctx).all (·.st == .running)
/-- The reference that a wait which proceeds holds, at class w; a promotion to res has a budget (R238, R241). `owner` is the packet
of a dependence between launches, and `graph` its graph's record (R362). -/
def State.hold (s : State) (waiter : Option PRef) (queue : Option Nat) (w : Nat) (t : Target)
    (owner : Option (Nat × Nat) := none) (graph : Nat := 0) : State :=
  if t.block.isNone ∧ t.join.isNone ∧ t.launch.isNone then s
  else
    let r : Ref :=
      { id := s.uid, waiter := waiter, queue := queue, cls := w, block := t.block, join := t.join, launch := t.launch,
        name := t.name, detail := t.detail w, owner := owner, graph := graph,
        budget := if w = 2 ∧ t.cls < 2 then some ((if s.waiterRuns waiter then s.ct else 0) + 200000) else none }
    State.nameFirst { s with uid := s.uid + 1, refs := s.refs ++ [r] } r
/-- The target that a block is, for a wait of a kind. -/
def State.blockTarget (s : State) (kind name : Nat) (b : Block) : Target :=
  { kind := kind, cls := s.curClass b, clsL := b.clsL, prom := b.prom, name := name, block := some b.id }
/-- The target of a wait on the waiter's own block: T is W (kinds 1 and 2). -/
def State.ownTarget (s : State) (kind : Nat) (b : Block) : Target :=
  { kind := kind, cls := s.curClass b, clsL := b.clsL, prom := b.prom }

/-! ## Block names and counters (R212, R213) -/

/-- A block's name. -/
def blockName (b : Block) : Nat := holderId b 0 + 2 ^ 32 * b.die
/-- The block a name reaches in a context. -/
def State.named (s : State) (ctx name : Nat) : Option Block :=
  if 2 ^ 37 ≤ name ∨ s.pkg.dies ≤ name / 2 ^ 32 then none
  else match s.holderBlock (name / 2 ^ 32) (name % 2 ^ 32) with
    | some (b, 0) => if b.ctx = ctx then some b else none
    | _ => none
/-- The counter of a kind (Table CLP-7); none where the name reaches nothing. -/
def State.counter (s : State) (b : Block) (kind name : Nat) : Option Nat :=
  match kind with
  | 0 => some b.userTl
  | 1 => some b.copyTl
  | 2 => some b.mtxTl
  | 3 => (s.win? b.ctx name).bind fun w => if w.kind = 2 then some w.wsrc else none
  | 4 => (s.win? b.ctx name).map (·.wtgt)
  | 5 => (s.uqs.find? fun q => q.num == name && q.ctx == b.ctx && q.st != .destroyed).map (·.qtl)
  | _ => (s.named b.ctx name).map (·.userTl)
/-- The target of a timeline wait (Table PRG-1). -/
def State.tlTarget (s : State) (b : Block) (kind name : Nat) : Target :=
  match kind with
  | 3 | 4 => let k := match s.win? b.ctx name with | some w => w.cls | none => 0
    { kind := 4, cls := k, clsL := k, fixed := true, name := name }
  | 5 => let k := match s.uqs.find? (·.num == name) with | some q => q.cls | none => 0
    { kind := 5, cls := k, clsL := k, fixed := true, name := name }
  | 6 => match s.named b.ctx name with
    | some t => s.blockTarget 3 name t
    | none => s.ownTarget 3 b
  | _ => s.ownTarget 2 b

/-! ## What ends a wait -/

/-- The state of a wait: still pending, ended by its condition, or ended by a fault. -/
inductive WaitEnd
  | pending
  | met (s : State)
  | fault (f : Fault2) (s : State)

/-- TASK COPY_FAILED with a failed value, its reason and its address (R229). -/
def copyFailed (x : Nat × Nat × Nat) : Fault2 :=
  { cause := 0x19, sub := 0x25, faddr := x.2.2, detail := x.2.1, ext := [x.1] }
/-- The lowest halted bead of a block. -/
def Mtx.lowHalt (m : Mtx) : Option (Nat × Nat) := m.halted.foldl (fun o x => match o with
  | none => some x
  | some y => if x.1 < y.1 then some x else some y) none
/-- The fault of a wait on the matrix timeline at or above a halted number (R276). -/
def haltFault (c : Ctx) (b : Block) (kind n : Nat) : Option Fault2 :=
  if kind != 2 then none
  else match b.mtx.lowHalt with
    | some (h, r) => if h ≤ n then some { cause := 0x19, sub := 6, faddr := beadAddr c b h, detail := r, ext := [h] } else none
    | none => none
/-- The end of a timeline wait whose counter x has reached n: COPY_FAILED where a failed value lies at or below x (R229,
R377). -/
def State.reached (s : State) (b : Block) (kind name x : Nat) : WaitEnd :=
  let head := fun (fs : List (Nat × Nat × Nat)) => match fs with
    | y :: _ => if y.1 ≤ x then some y else none
    | [] => none
  if kind = 1 then match head b.failv with
    | some y => .fault (copyFailed y) (s.updBlock b.id fun b => { b with failv := b.failv.tail })
    | none => .met s
  else if kind = 3 ∨ kind = 4 then match s.win? b.ctx name with
    | some w => match head w.fails with
      | some y => .fault (copyFailed y) (s.setWin { w with fails := w.fails.tail })
      | none => .met s
    | none => .met s
  else .met s
/-- A wait of `wtl` (R214, R276). -/
def State.tlEnd (s : State) (c : Ctx) (b : Block) (kind n name : Nat) : WaitEnd :=
  match haltFault c b kind n with
  | some f => .fault f s
  | none => match s.counter b kind name with
    | none => .fault nameFault s
    | some x => if n ≤ x then s.reached b kind name x else .pending
/-- A wait of `nap` (R215). -/
def State.napEnd (s : State) (c : Ctx) (b : Block) (kind n t : Nat) : WaitEnd :=
  match haltFault c b kind n with
  | some f => .fault f s
  | none =>
    if s.ct < t then .pending
    else
      let x := (s.counter b kind 0).getD 0
      if n ≤ x then s.reached b kind 0 x
      else .fault { cause := 0x11, sub := kind, detail := kind, ext := [n, t, x] }
        ((s.updCtx b.ctx fun c => { c with napMiss := sat64 c.napMiss }).stageCtx b.ctx)
/-- A flight's data is poisoned (R160). -/
def Group.spoil (g : Group) (id : Nat) (bad : Option (Mask × List Nat)) : Group :=
  { g with flights := g.flights.map fun (f : Flight) => if f.id = id then { f with poison := bad } else f }
/-- A wait of `qpop` (R178). -/
def State.qpopEnd (s : State) (b : Block) (gi q flight d : Nat) (lanes : Mask) : WaitEnd :=
  match s.hq? b q with
  | none => .fault noQueue s
  | some h =>
    let n := popMask lanes
    if h.ents.length < n then .pending
    else
      let s := (s.setHq (h.pop n)).sided b.id
      .met (s.updGroup b.id gi fun g => (g.fulfil flight (popWrites d lanes (h.ents.take n)) (s.cc + 1)).spoil flight
        (h.popPoison (served lanes n)))
/-- A wait of `hclaim` (R169). -/
def State.claimEnd (s : State) (b : Block) (gi h flight d : Nat) : WaitEnd :=
  match s.handle b.die h with
  | .buf u =>
    let give := fun (s : State) => s.updGroup b.id gi fun g => g.fulfil flight (wrG d u.size) (s.cc + 1)
    if u.st = .transfer then
      (if u.target = b.id ∧ u.targetKind = 0 then
        .met (give (s.setBuf { u with st := .held, holder := b.id, holderKind := 0 }))
       else .fault (handleFault 5 h) s)
    else if u.heldBy b then .met (give s)
    else .pending
  | _ => .fault (handleFault 5 h) s

/-- A slot of a group: 0 and 1, or the interrupted path of the other slot of a handler, numbered by the handler's level. -/
def Group.wpath? (g : Group) (slot : Nat) : Option Path :=
  if slot < 2 then g.path? slot else (g.traps.reverse[slot / 2 - 1]?).bind (·.other)
def Group.setWpath (g : Group) (slot : Nat) (p : Path) : Group :=
  if slot < 2 then g.setPath slot (some p)
  else { g with traps := g.traps.mapIdx fun i t =>
    if i + slot / 2 = g.traps.length then { t with other := some p } else t }
/-- Change a waiting path. -/
def State.updWpath (s : State) (r : PRef) (f : Path → Path) : State :=
  s.updGroup r.blk r.grp fun g => match g.wpath? r.slot with
    | some p => g.setWpath r.slot (f p)
    | none => g

/-- The resume point after the instruction whose words are given, at a path's position (R35). -/
def Path.next (p : Path) (w : Words) : Nat × Nat :=
  let h := Header.ofWord w.hdr
  if p.index + 1 < h.count then (p.clause, p.index + 1) else (p.clause + h.bytes, 15)
/-- A wait has ended by its condition: the reference goes, and the path goes on from the next cc (R210, R242). A header wait
leaves its header done. -/
def State.waitMet (s : State) (r : PRef) (p : Path) (on : WaitOn) (w : Words) : State :=
  let s := s.dropRefs r.blk r.grp (some r.slot)
  let q : Path := match on with
    | .clasp _ _ true => { p with cond := .ready, hdrDone := true }
    | .clasp _ _ false => p.stepped (p.next w) (w.iw0.getLsbD 31)
    | _ => p.stepped (p.next w) (w.iw0.getLsbD 31)
  s.updGroup r.blk r.grp fun g => g.setWpath r.slot { q with start := s.cc + 1 }
/-- The flight that a wait allocated at issue. -/
def WaitOn.flight? : WaitOn → Option Nat
  | .qpop _ f _ _ => some f
  | .claim _ f _ => some f
  | _ => none
/-- A wait that ends without its effect gives its registers back. -/
def State.dropFlight (s : State) (r : PRef) (on : WaitOn) : State :=
  match on.flight? with
  | some f => s.updGroup r.blk r.grp (·.cleared f)
  | none => s
/-- A wait has ended with a fault: a trap at the waiting instruction, or, for the interrupted path of a handler, a fault that
is held (R398). -/
def State.waitFault (s : State) (r : PRef) (p : Path) (on : WaitOn) (w : Words) (f : Fault2) : State :=
  let s := (s.dropFlight r on).dropRefs r.blk r.grp (some r.slot)
  if r.slot < 2 then s.trapAt r f w p.clause p.index
  else s.updWpath r fun p => { p with cond := .ready, held := some (f, w), start := s.cc + 1 }

/-! ## callb (R99, R100) -/

/-- A BIND_FAIL fault. -/
def bindFault (sub addr idx : Nat) : Fault2 := { cause := 0x16, sub := sub, faddr := addr, detail := idx }
/-- The block of the group that a BINDING value tags. -/
def State.tagged (s : State) (ctx v : Nat) : Option Block :=
  s.blocks.find? fun b => b.ctx == ctx && b.groups.any fun g => g.st != .exited && bindingOf g.tag == v
/-- What `callb` finds in a slot: a target to call, a BINDING value to wait on, or a fault. -/
inductive Bound
  | call (target : Nat)
  | wait (v : Nat)
  | fault (f : Fault2) (s : State)
/-- The loop of R100 on the value of a slot. -/
def State.bindLook (s : State) (c : Ctx) (b : Block) (g : Group) (a idx : Nat) : Bound :=
  let v := s.vword c b.die b.core a 8
  if v = 0 then .fault (bindFault 0 a idx) (s.vset c b.die b.core a 8 (bindingOf g.tag))
  else if v % 4 = 0 then (if 2 ^ 57 ≤ v then .fault (bindFault 3 a idx) s else .call v)
  else if v % 4 = 1 then (if v = bindingOf g.tag then .fault (bindFault 5 a idx) s else .wait v)
  else .fault (bindFault (if v % 4 = 2 then 1 else 3) a idx) s
/-- The target of a wait on a slot under resolution (KIND 9). -/
def State.bindTarget (s : State) (b : Block) (a v : Nat) : Target :=
  match s.tagged b.ctx v with
  | some t => s.blockTarget 9 a t
  | none => { s.ownTarget 9 b with name := a }
/-- The link that a call writes (R97), as a flight visible at the target (R56). -/
def linkFlight (s : State) (d link : Nat) : Flight :=
  { id := 0, slot := 0, due := some (s.cc + 1), fixed := true, writes := wrG d link }

/-- The flight of `callb`'s accesses to its slot, which count as MEM atomics (R100). -/
def State.bindFlight (s : State) (r : PRef) (w : Words) : Flight :=
  { id := s.uid, slot := r.slot % 2, due := some (s.cc + s.delay.1), cls := .da, words := w }
/-- The issuing path of a `callb`, its group with that flight. -/
def State.bindIssued (s : State) (c : Cur) : Cur :=
  { c with g := { c.g with flights := c.g.flights ++ [s.bindFlight c.ref c.w] } }
/-- `callb` has accessed its slot. -/
def State.bindAtomic (s : State) (r : PRef) (w : Words) : State :=
  ({ s.delay.2 with uid := s.uid + 1 }).updGroup r.blk r.grp fun g => { g with flights := g.flights ++ [s.bindFlight r w] }
/-- The end of a `callb` wait whose slot has changed: the loop goes on (R100). -/
def State.bindWake (s : State) (r : PRef) (c : Ctx) (b : Block) (g : Group) (p : Path) (on : WaitOn) (w : Words)
    (a d : Nat) : State :=
  match s.kernel? b.kobj with
  | none => s
  | some k =>
    let idx := (a - k.bindBase) / 8
    let s := s.bindAtomic r w
    match s.bindLook c b g a idx with
    | .fault f s => s.waitFault r p on w f
    | .wait v =>
      let s := s.dropRefs r.blk r.grp (some r.slot)
      let t := s.bindTarget b a v
      let cls := s.curClass b
      (match t.fault cls with
        | some f => s.waitFault r p on w f
        | none => (s.hold (some r) none cls t).updWpath r fun p => { p with cond := .wait (.bind a v d) w })
    | .call target =>
      let s := s.dropRefs r.blk r.grp (some r.slot)
      let h := Header.ofWord w.hdr
      match s.allocFor b k r.grp g.heldV g.heldG 0 (if d = 0 then 0 else 1) with
      | .ok =>
        let fl := { linkFlight s d (p.clause + h.bytes) with id := s.uid, slot := r.slot % 2, words := w }
        let s := { s with uid := s.uid + 1 }
        s.updGroup r.blk r.grp fun g =>
          let g := { g with flights := g.flights ++ [fl] }
          g.setWpath r.slot { p.stepped (target, 15) (w.iw0.getLsbD 31) with start := s.cc + 1 }
      | .maxLive => s.waitFault r p on w (grpFault 0x03 3)
      | .stall => s.updWpath r fun p => { p with cond := .stalled (.regs 0 1) }

/-- Whether the loop of R100 goes on to a trap: a fault of the slot's value, of the class check, or of the link's allocation. -/
def State.bindTraps (s : State) (c : Ctx) (b : Block) (g : Group) (a d : Nat) : Bool :=
  match s.kernel? b.kobj with
  | none => false
  | some k => match s.bindLook c b g a ((a - k.bindBase) / 8) with
    | .fault _ _ => true
    | .wait v => ((s.bindTarget b a v).fault (s.curClass b)).isSome
    | .call _ => s.allocFor b k g.index g.heldV g.heldG 0 (if d = 0 then 0 else 1) == .maxLive

/-! ## Polling a wait -/

/-- Whether a cancellation is held back until the running handler's `rfe` (R15, R308): the path that the outermost handler interrupted
has not taken it. -/
def Group.cancelHeld (g : Group) : Bool := g.cancel.isSome && g.traps.getLast?.any (!·.trapped.cancelled)
/-- What has become of a wait of a path. A cancellation that is held back ends a wait on the host with STATUS 6 (R336). -/
def State.waitEnd (s : State) (r : PRef) (c : Ctx) (b : Block) : WaitOn → WaitEnd
  | .clasp n par _ => match b.clasps[n]? with
    | some k =>
      if k.mode = 2 then .fault (s.claspFault b n k.why) s
      else if (k.cycle % 2 == 1) != par then .met s else .pending
    | none => .pending
  | .tl kind n name _ => s.tlEnd c b kind n name
  | .nap kind n t _ => s.napEnd c b kind n t
  | .join addr => if s.vword c b.die b.core addr 8 = 0 then .met s else .pending
  | .qpop q flight d lanes => s.qpopEnd b r.grp q flight d lanes
  | .claim h flight d => s.claimEnd b r.grp h flight d
  | .bind a v _ => if s.vword c b.die b.core a 8 = v then .pending else .met s
  | .host _ status =>
    if (s.group? r.blk r.grp).any Group.cancelHeld then .met (s.vset c b.die b.core status 8 6) else .pending

/-- The waiting path of a slot, with what it belongs to; `fin` is how an event has ended the wait, none while it is pending. -/
structure Waiter where
  b : Block
  c : Ctx
  g : Group
  p : Path
  on : WaitOn
  w : Words
  fin : Option (Option Fault2) := none
def State.waiter? (s : State) (r : PRef) : Option Waiter :=
  match s.block? r.blk with
  | none => none
  | some b => match s.ctx? b.ctx, b.groups[r.grp]? with
    | some c, some g => match g.wpath? r.slot with
      | some p => match p.cond with
        | .wait on w => some { b := b, c := c, g := g, p := p, on := on, w := w }
        | .ended on w f => some { b := b, c := c, g := g, p := p, on := on, w := w, fin := some f }
        | _ => none
      | none => none
    | _, _ => none

/-- End a wait that its condition or a fault has ended; none while it is pending. -/
def State.pollWait (s : State) (r : PRef) : Option State :=
  match s.waiter? r with
  | none => none
  | some x => match x.fin with
    | some (some f) => some (s.waitFault r x.p x.on x.w f)
    | some none => some (s.waitMet r x.p x.on x.w)
    | none => match s.waitEnd r x.c x.b x.on with
      | .pending => none
      | .fault f s => some (s.waitFault r x.p x.on x.w f)
      | .met s => match x.on with
        | .bind a _ d => some (s.bindWake r x.c x.b x.g x.p x.on x.w a d)
        | _ => some (s.waitMet r x.p x.on x.w)

/-- The cancellation that a path takes at its next checked wait or clause boundary (R15): not inside a handler, and once. -/
def Group.cancelDue (g : Group) (p : Path) : Option Fault2 :=
  match g.cancel with
  | some (level, rec') => if g.traps.isEmpty ∧ !p.cancelled then some { cause := 0x22, sub := level, faddr := rec' } else none
  | none => none
/-- A path takes CANCELLED. -/
def State.cancelTrap (s : State) (r : PRef) (f : Fault2) (w : Words) (clause index : Nat) : State :=
  (s.updPath r fun p => { p with cancelled := true, owesCancel := false }).trapAt r f w clause index
/-- Begin a wait at issue (R238): the check, then a cancellation that is due, the kills, the wait; one whose condition holds
ends at once. -/
def State.beginWait (s : State) (c : Cur) (e : Mask) (srcs : List Src) (t : Target) (on : WaitOn) : Out :=
  let w := s.curClass c.b
  match t.fault w, c.g.cancelDue c.p with
  | some f, _ => .next (s.trap c f)
  | none, some f => .next ((s.keepStale c).cancelTrap c.ref f c.w c.p.clause c.p.index)
  | none, none =>
    let s := s.hold (some c.ref) none w t
    let g := c.g.killAll c.ref.slot e srcs
    let s := s.setGroup c.ref.blk c.ref.grp (g.issuedBy c.ref.slot (some { c.p with cond := .wait on c.w }))
    .next ((s.pollWait c.ref).getD s)
/-- Begin a wait whose result has a register: the flight is allocated at issue, and has no completion time yet. `issued` is what
else the issue does. -/
def State.beginResult (s : State) (c : Cur) (e : Mask) (srcs : List Src) (t : Target) (cls : Drn) (ws : List Wr)
    (nv ng : Nat) (on : Nat → WaitOn) (issued : State → State := id) : Out :=
  match t.fault (s.curClass c.b), c.g.cancelDue c.p with
  | some f, _ => .next (s.trap c f)
  | none, some f => .next ((s.keepStale c).cancelTrap c.ref f c.w c.p.clause c.p.index)
  | none, none => s.allocate c e srcs nv ng fun s =>
    let id := s.uid
    let s := issued { s with uid := s.uid + 1 }
    let fl : Flight :=
      { id := id, slot := c.ref.slot, due := none, cls := cls, board := true, writes := ws, words := c.w }
    let g := { c.g with flights := c.g.flights ++ [fl] }
    let p := { c.p with board := c.p.board ++ [id] }
    s.beginWait { c with g := g.setPath c.ref.slot (some p), p := p } e srcs t (on id)

/-! ## The waiting instructions -/

/-- `wclasp` (R209, R210): A is killed before the wait begins, also where a cancellation is due. -/
def execWclasp (f : VI) (s : State) : Out :=
  let a := gsrc f.a 1 1
  s.issue none [a] [a] (·.maskP f.gp f.gi) f.s fun s c e =>
    let n := c.g.read a 0 + f.d.toNat
    s.claspArmed c e a n fun _ =>
      let g := c.g.killAll c.ref.slot e [a]
      (s.setGroup c.ref.blk c.ref.grp g).beginWait { c with g := g } e [] (s.ownTarget 1 c.b) (.clasp n (f.val == 1) false)

/-- The name operand of a timeline instruction, for the kinds that have one. -/
def tlNamed (kind : Nat) : Bool := 3 ≤ kind && kind ≤ 6
def execWtl (f : Tl) (s : State) : Out :=
  let a := gsrc f.a 1 1
  let b := gsrc f.b 1 2
  let kind := f.d.toNat
  let srcs := if tlNamed kind then [a, b] else [a]
  s.issue none srcs srcs (·.maskP f.x.gp f.x.gi) f.s fun s c e =>
    let n := c.g.read a 0
    let name := if tlNamed kind then c.g.read b 0 else 0
    match haltFault c.c c.b kind n with
    | some ft => .next (s.trap c ft)
    | none => match s.counter c.b kind name with
      | none => .next (s.trap c nameFault)
      | some _ => s.beginWait c e srcs (s.tlTarget c.b kind name) (.tl kind n name f.x.scope.toNat)
def execNap (f : Tl) (s : State) : Out :=
  let a := gsrc f.a 1 1
  let b := gsrc f.b 1 2
  let kind := f.d.toNat
  s.issue none [a, b] [a, b] (·.maskP f.x.gp f.x.gi) f.s fun s c e =>
    let n := c.g.read a 0
    match haltFault c.c c.b kind n with
    | some ft => .next (s.trap c ft)
    | none => s.beginWait c e [a, b] (s.ownTarget 2 c.b) (.nap kind n (c.g.read b 0) f.x.scope.toNat)
/-- NAP_WAKE: chip time has reached T, and the path reads its counter (R215). -/
def execNapWake (r : PRef) (s : State) : Out :=
  match s.waiter? r with
  | some x => match x.on with
    | .nap _ _ t _ => if s.ct < t then .fault .noSuchEvent else .next ((s.pollWait r).getD s)
    | _ => .fault .noSuchEvent
  | none => .fault .noSuchEvent

def execTlrd (f : V3) (s : State) : Out :=
  let kind := f.b.toNat / 8
  let srcs := if tlNamed kind then [f.ga] else []
  s.issue none (srcs ++ [gfld f.d]) srcs f.maskP f.s fun s c e =>
    if kind = 7 then s.variable c e srcs (wrG f.d.toNat (blockName c.b)) .dl f.s
    else match s.counter c.b kind (if tlNamed kind then c.g.read f.ga 0 else 0) with
      | none => .next (s.trap c nameFault)
      | some x => s.variable c e srcs (wrG f.d.toNat x) .dl f.s
/-- `tlsig` (R214): a counter at its largest value stays there, since it never decreases (R212). -/
def execTlsig (f : Tl) (s : State) : Out :=
  let a := gsrc f.a 1 1
  s.issue none [a] [a] (·.maskP f.x.gp f.x.gi) f.s fun s c e =>
    let v := c.g.read a 0
    let s := s.updBlock c.ref.blk fun b =>
      { b with userTl := if opReg f.a = 0 then min (b.userTl + 1) (2 ^ 64 - 1) else max b.userTl v, side := true }
    .next (s.done c e [a] f.s)

/-- The alignment and access checks on a record of n bytes that an instruction reads once for the group. -/
def State.grpRecord (s : State) (c : Cur) (e : Mask) (addr n align : Nat) (a : Acs) (k : State → Out) : Out :=
  if addr % align != 0 then .next (s.trap c (grpFault 0x0A 0))
  else s.access c true e (fun _ => addr) n a 7 fun s _ => k s
def execWjoin (f : V3) (s : State) : Out :=
  s.issue none [f.ga] [f.ga] f.maskQ f.s fun s c e =>
    let j := c.g.read f.ga 0
    s.grpRecord c e j 16 16 .read fun s =>
      let word := s.vword c.c c.b.die c.b.core (j + 8) 2
      let t : Target :=
        { kind := 6, cls := word % 4, clsL := word % 4,
          prom := word / 256 % 2 == 1, name := j, join := some (c.b.ctx, j) }
      s.beginWait c e [f.ga] t (.join j)

def execHclaim (f : M) (s : State) : Out :=
  s.locGroup f [gfld f.base, gfld f.d] [gfld f.base] fun s c e =>
    let h := c.g.gval f.base.toNat
    match s.handle c.b.die h with
    | .bad => .next (s.trap c (handleFault 6 h))
    | .stale => .next (s.trap c (handleFault 1 h))
    | .buf u =>
      if u.st = .transfer ∧ !(u.target = c.b.id ∧ u.targetKind = 0) then .next (s.trap c (handleFault 5 h))
      else
        let t := if u.heldBy c.b ∨ u.st = .carried then { s.ownTarget 8 c.b with name := h }
          else match s.block? u.holder with
            | some o => s.blockTarget 8 h o
            | none => { s.ownTarget 8 c.b with name := h }
        let d := f.d.toNat
        s.beginResult c e [] t .dl (wrG d 0) 0 (if d = 0 then 0 else 1) (fun id => .claim h id d) (·.sided c.ref.blk)
def execQpop (f : M) (s : State) : Out :=
  s.locGroup f [{ grp := false, num := f.d.toNat }] [] fun s c e =>
    match s.hq? c.b f.base.toNat with
    | none => .next (s.trap c noQueue)
    | some q =>
      let t : Target := { kind := 7, cls := q.cls, clsL := q.cls, fixed := true, name := f.base.toNat }
      s.beginResult c e [] t .dq [.v f.d.toNat e []] 1 0 fun id => .qpop f.base.toNat id f.d.toNat e

def execCallb (f : VI) (s : State) : Out :=
  s.issue none [gfld f.d] [] (·.maskQ f.gp f.gi) f.s fun s c e =>
    let idx := f.val
    let a := wrapN 64 (c.k.bindBase + 8 * idx)
    if idx < 0 ∨ (c.k.nbind : Int) ≤ idx then .next (s.trap c (bindFault 4 a (wrapN 64 idx)))
    else s.access c true e (fun _ => a) 8 .both 7 fun s _ =>
      match s.bindLook c.c c.b c.g a idx.toNat with
      | .fault ft s => .next ((s.bindAtomic c.ref c.w).trap c ft)
      | .wait v => (s.bindAtomic c.ref c.w).beginWait (s.bindIssued c) e [] (s.bindTarget c.b a v) (.bind a v f.d.toNat)
      | .call target => s.allocate c e [] 0 (if f.d = 0 then 0 else 1) fun s =>
        let s := (s.bindAtomic c.ref c.w).putFlight (s.bindIssued c) e [] (linkFlight s f.d.toNat c.nextClause) f.s
        .next (s.updPath c.ref fun p => { p with clause := target, index := 15 })

end Sys2Proof.Machine
end

