-- ==== Sys2Proof/Machine/Record.lean ====
section
/-!
DEFINITION. Completion records (R360, R361), launches (R359), task control blocks (R362), and the cancellation of a level
(R15, R318, R361).
-/
namespace Sys2Proof.Machine

/-! ## Kernels that retire (R123) -/

/-- Whether work of a kernel is live or waits for placement: a RETIRING kernel goes on until accepted work has been placed and
has ended (R123; DESIGN CHOICE, log 65). -/
def State.kernelBusy (s : State) (k : Kernel) : Bool := k.live != 0 || s.items.any (·.kobj == k.kobj)
/-- A RETIRING kernel whose work has ended is RETIRED: its pages are freed (Table KRN-1). -/
def State.retireOne (s : State) (k : Kernel) : State :=
  if k.st ≠ .retiring ∨ s.kernelBusy k then s
  else
    let s := match s.ctx? k.ctx with
      | some c => k.pages.foldl (fun (s : State) va => s.freePage c va) s
      | none => s
    s.setKernel { k with st := .retired, pages := [] }
/-- Kernels whose work has ended retire. -/
def State.retireIdle (s : State) : State := s.kernels.foldl State.retireOne s

/-! ## The record of Table QUE-8 -/

/-- n bytes of a record; the device reads and writes records through the context's page table. What stands in reserved bytes is
ignored: the spec names no fault for it (DESIGN CHOICE, log 74). -/
def State.recGet (s : State) (c : Ctx) (rec off n : Nat) : Nat := s.vword c 0 0 (rec + off) n
def State.recSet (s : State) (c : Ctx) (rec off n v : Nat) : State := s.vset c 0 0 (rec + off) n v
def State.recCount (s : State) (c : Ctx) (rec : Nat) : Nat := s.recGet c rec 0 8
def State.recState (s : State) (c : Ctx) (rec : Nat) : Nat := s.recGet c rec 8 4
/-- Set bits of STATE: 1 CLOSED, 2 DONE, 4 CANCELLED, 8 FAILED, 16 REFUSED. -/
def State.recMark (s : State) (c : Ctx) (rec bits : Nat) : State := s.recSet c rec 8 4 (s.recState c rec ||| bits)
def State.recHas (s : State) (c : Ctx) (rec bit : Nat) : Bool := s.recState c rec &&& bit != 0
def State.recAdd (s : State) (c : Ctx) (rec : Nat) (n : Int) : State :=
  s.recSet c rec 0 8 (Num.wrapN 64 (s.recCount c rec + n))
/-- A record and the records around it, by the PARENT fields as they stand when its work is taken up (R361; DESIGN CHOICE,
log 59). -/
def State.levels (s : State) (c : Ctx) : Nat → Nat → List Nat
  | 0, _ => []
  | n + 1, rec => if rec = 0 then [] else rec :: s.levels c n (s.recGet c rec 0x10 8)
/-- Whether a level that some records name is cancelled (R15). -/
def State.anyCancelled (s : State) (c : Ctx) (lvl : List Nat) : Bool := lvl.any fun r => s.recHas c r 4

/-! ## Launches (R359) -/

/-- The 48 bytes of a LAUNCH body (Table QUE-7), from KOBJID on. -/
structure LBody where
  kobj : Nat
  arg : Nat
  lrec : Nat
  phrec : Nat
  nblk : Nat
  cls : Nat
  promov : Nat
  hqen : Nat
  prio : Nat
  hqcls : Nat
  rest : Nat
  deriving DecidableEq, Repr
def LBody.ofBytes (bs : List Byte) : LBody :=
  { kobj := fieldAt bs 0 8, arg := fieldAt bs 8 8, lrec := fieldAt bs 16 8, phrec := fieldAt bs 24 8,
    nblk := fieldAt bs 32 4, cls := fieldAt bs 36 1, promov := fieldAt bs 37 1, hqen := fieldAt bs 38 1,
    prio := fieldAt bs 39 1, hqcls := fieldAt bs 40 2, rest := fieldAt bs 42 6 }
/-- Whether a loaded kernel takes new work of a context, or the refusal code: 1 KERNEL, 2 RETIRED. -/
def State.kernelFor (s : State) (ctx kobj : Nat) : Kernel ⊕ Nat :=
  match s.kernels.find? fun k => k.kobj == kobj && k.ctx == ctx with
  | none => .inr 1
  | some k => match k.st with
    | .loaded | .active => .inl k
    | .retiring | .retired => .inr 2
/-- The launched class of a body for a kernel. -/
def LBody.clsFor (l : LBody) (k : Kernel) : Nat := if l.cls = 0xFF then k.cls else l.cls
def LBody.promFor (l : LBody) (k : Kernel) : Bool := if l.promov = 0 then k.prom else l.promov == 1
/-- The refusal of a launch (R359): its SUB code, or the kernel. -/
def State.launchCheck (s : State) (c : Ctx) (l : LBody) : Kernel ⊕ Nat :=
  match s.kernelFor c.num l.kobj with
  | .inr n => .inr n
  | .inl k =>
    if l.cls != 0xFF && (2 < l.cls || 2 < l.promov) then .inr 4
    else if k.cls < l.clsFor k ∨ c.ceil < l.clsFor k then .inr 3
    else if l.nblk = 0 ∨ 2 < l.promov ∨ (List.range 8).any (fun i => l.hqcls / 4 ^ i % 4 == 3) ∨ 16 ≤ l.prio ∨ l.rest ≠ 0 ∨ l.lrec % 64 ≠ 0 ∨ l.phrec % 64 ≠ 0 then .inr 4
    else .inl k

/-- What the front end knows of a level in use (R361). -/
def State.phase? (s : State) (ctx rec : Nat) : Option Phase := s.phases.find? fun p => p.ctx == ctx && p.record == rec
def State.setPhase (s : State) (p : Phase) : State :=
  { s with phases := p :: s.phases.filter fun x => !(x.ctx == p.ctx && x.record == p.record) }
/-- The entry of a level that takes up a member: a new one where its record was DONE since. -/
def State.phaseFor (s : State) (ctx rec : Nat) : Phase := match s.phase? ctx rec with
  | some p => if p.isDone then { ctx := ctx, record := rec } else p
  | none => { ctx := ctx, record := rec }
/-- The service bound of the queue that a graph came through. -/
def State.graphBound (s : State) (c : Ctx) (graph : Nat) : Nat := match s.phase? c.num graph with | some p => p.bound | none => 0
/-- An item of work that waits for placement. -/
def State.addItem (s : State) (i : Item) : State :=
  { s with uid := s.uid + 1, items := s.items ++ [{ i with id := s.uid, dist := s.uid, ready := s.ct }] }
/-- A launch enters the distributors (R359): COUNT, CLOSED, the index range. `around` is the phase or graph that counts it beside
its PARENT; a service bound of its queue sets the time by which its evt blocks are to be placed (R235). -/
def State.enqueueLaunch (s : State) (c : Ctx) (l : LBody) (k : Kernel) (origin : Origin) (around bound : Nat) : State :=
  let s := (s.recAdd c l.lrec l.nblk).recMark c l.lrec 1
  s.addItem
    { id := 0, ctx := c.num, kobj := l.kobj, arg := BitVec.ofNat 64 l.arg, lrec := l.lrec,
      lvl := s.levels c 8 l.lrec ++ s.levels c 8 around, jrec := 0, origin := origin,
      limit := if bound = 0 then none else some (s.ct + bound),
      nblk := l.nblk, next := 0, stop := l.nblk, clsL := l.clsFor k, prom := l.promFor k, prio := l.prio, hqEn := l.hqen,
      hqCls := l.hqcls, launchNo := s.uid, ready := 0, level := 0, lanes := allLanes, locket := none, hdie := none,
      spawnCore := none }

/-! ## Retirement (R361, R362) -/

/-- A TCB whose PRED is 0 is queued: its launch is taken up, refused or placed. Nothing of a refused launch runs; it is
done at once. The records that became done are returned. -/
def State.queueTcb (s : State) (c : Ctx) (addr graph : Nat) : State × List Nat :=
  match (s.vread c 0 0 (addr + 0x10) 48).1 with
  | none => (s, [])
  | some bs =>
    let l := LBody.ofBytes bs
    let t : Tcb := { ctx := c.num, lrec := l.lrec, addr := addr, graph := graph }
    let s := { s with tcbs := s.tcbs ++ [t] }
    match s.launchCheck c l with
    | .inr code => ((s.recMark c l.lrec 18).recSet c l.lrec 0x25 1 code, [l.lrec])
    | .inl k =>
      if s.anyCancelled c (s.levels c 8 graph) then (s, []) else (s.enqueueLaunch c l k (.tcb addr) graph (s.graphBound c graph), [])
/-- Decrement the PRED of each successor of a TCB, and queue those that reach 0 (R362). -/
def State.release (s : State) (c : Ctx) (graph succ : Nat) : Nat → Nat → State × List Nat
  | 0, _ => (s, [])
  | n + 1, i =>
    let t := s.vword c 0 0 (succ + 8 * i) 8
    let p := s.vword c 0 0 t 4
    let s := s.vset c 0 0 t 4 (p - 1)
    let (s, ds) := if p = 1 then s.queueTcb c t graph else (s, [])
    let (s, es) := State.release s c graph succ n (i + 1)
    (s, ds ++ es)
/-- What follows a record's DONE: the references that a graph's dependence holds on it go, its PARENT's COUNT falls, and for the launch of a TCB its successors and its graph's COUNT, which
is decremented once (R361, R362). The records that became done, or whose COUNT fell, are returned. -/
def State.afterDone (s : State) (c : Ctx) (rec : Nat) : State × List Nat × List Nat :=
  let parent := s.recGet c rec 0x10 8
  let s := State.settleRefs { s with refs := s.refs.filter fun r =>
    !(r.launch == some (c.num, rec) && r.waiter.isNone && r.queue.isNone) }
  let s : State := { s with phases := s.phases.map fun (p : Phase) =>
    if p.ctx = c.num ∧ p.record = rec then { p with isDone := true } else p }
  let s := if parent = 0 then s else s.recAdd c parent (-1)
  let fell := if parent = 0 then [] else [parent]
  match s.tcbs.find? fun t => t.ctx == c.num && t.lrec == rec with
  | none => (s, [], fell)
  | some t =>
    let s := { s with tcbs := s.tcbs.filter (· != t) }
    let (s, ds) := s.release c t.graph (s.vword c 0 0 (t.addr + 8) 8) (s.vword c 0 0 (t.addr + 4) 2) 0
    if parent = t.graph then (s, ds, fell) else (s.recAdd c t.graph (-1), ds, t.graph :: fell)
/-- Settle records whose COUNT fell, and records that are done: a closed record at 0 is DONE, and what follows. -/
def State.settleRecs (s : State) (c : Ctx) : Nat → List Nat → List Nat → State
  | 0, _, _ => s
  | n + 1, d :: ds, fell =>
    let (s, ds', fell') := s.afterDone c d
    State.settleRecs s c n (ds ++ ds') (fell ++ fell')
  | n + 1, [], r :: rs =>
    if s.recCount c r = 0 ∧ s.recHas c r 1 ∧ !s.recHas c r 2 then State.settleRecs (s.recMark c r 2) c n [r] rs
    else State.settleRecs s c n [] rs
  | _ + 1, [], [] => s
/-- Steps that settling takes at most: records at most as many as the packets of a ring can name. -/
def settleFuel : Nat := 100000
/-- A unit retires from a record. -/
def State.recRetire (s : State) (c : Ctx) (rec : Nat) : State :=
  if rec = 0 then s else (s.recAdd c rec (-1)).settleRecs c settleFuel [] [rec]
/-- A record is done by itself: refused, or a cancelled level whose blocks have ended. -/
def State.recFinish (s : State) (c : Ctx) (rec bits : Nat) : State :=
  (s.recMark c rec (bits ||| 2)).settleRecs c settleFuel [rec] []

/-! ## Cancellation -/

/-- A path to which the cancellation of a level is new. -/
def Path.uncancel (p : Path) : Path := { p with cancelled := false }
/-- A group to which the cancellation of a level is new: so it is to the paths that its handlers interrupted, which take it after
the last `rfe` (R308). -/
def Group.uncancel (g : Group) : Group :=
  { g with slot0 := g.slot0.map Path.uncancel, slot1 := g.slot1.map Path.uncancel
           traps := g.traps.map fun t => { t with trapped := t.trapped.uncancel, other := t.other.map Path.uncancel } }
/-- The record of a block's launch shows CANCELLED: groups of it end without a trap (R318). -/
def State.markCancelled (s : State) (b : Block) : State := match s.ctx? b.ctx with
  | some c => if b.lrec = 0 then s else s.recMark c b.lrec 4
  | none => s
/-- A group of a cancelled level: CANCELLED is pending on a resident one; a spilled or saved one ends as by `exit` (R15,
R318). -/
def State.cancelGroup (s : State) (b : Block) (gi level rec : Nat) : State :=
  match b.groups[gi]? with
  | none => s
  | some g =>
    if g.st = .exited ∨ g.st = .suspended then s
    else if g.st = .resident then s.setGroup b.id gi { g.uncancel with
      cancel := some (match g.cancel with | some (k, r) => if level < k then (k, r) else (level, rec) | none => (level, rec)) }
    else s.exitLanes b.id gi allLanes
/-- Cancel every group of a block. Its launch's record shows CANCELLED where groups of it are saved or spilled (R318). -/
def State.cancelBlock (s : State) (b : Block) (level rec : Nat) : State :=
  let away := b.st == .saved || b.groups.any (·.st == .spilled)
  let s := if away then s.markCancelled b else s
  (List.range b.groups.length).foldl (fun s gi => match s.block? b.id with
    | some b => s.cancelGroup b gi level rec
    | none => s) s

/-- Whether a live block or an item of a context lies in a level. -/
def State.levelBusy (s : State) (c : Ctx) (rec : Nat) : Bool :=
  s.blocks.any (fun b => b.ctx == c.num && b.lvl.contains rec) || s.items.any fun i => i.ctx == c.num && i.lvl.contains rec
/-- A cancelled level completes once its running blocks have ended (R361). -/
def State.cancelSettle (s : State) : State :=
  s.cancelled.foldl (fun s x => match s.ctx? x.1 with
    | some c =>
      if s.levelBusy c x.2 then s
      else
        let s := { s with cancelled := s.cancelled.filter (· != x) }
        if s.recHas c x.2 2 then s else (s.recSet c x.2 0 8 0).recFinish c x.2 0
    | none => { s with cancelled := s.cancelled.filter (· != x) }) s

/-- The buffer of a work-graph group is free again (R364). -/
def State.freeBatch (s : State) (ctx : Nat) (o : Origin) : State := match o with
  | .node desc buf => { s with nodes := s.nodes.map fun (n : Node) =>
      if n.ctx = ctx ∧ n.desc = desc then { n with busy := n.busy.filter (·.1 != buf) } else n }
  | _ => s
/-- The dependences of the graphs of a cancelled level end, and release what they hold (R238, R362). -/
def State.dropDeps (s : State) (c : Ctx) (rec : Nat) : State :=
  State.settleRefs { s with refs := s.refs.filter fun r =>
    !(r.waiter.isNone && r.queue.isNone && r.launch.any (·.1 == c.num) && (s.levels c 8 r.graph).contains rec) }
/-- Cancel the level whose record lies at an address (R15, R107): nothing where it is done or cancelled already. -/
def State.cancelLevel (s : State) (c : Ctx) (rec : Nat) : State :=
  if s.recHas c rec 2 || s.recHas c rec 4 then s
  else
    let level := s.recGet c rec 0x0C 1
    let s := s.recMark c rec 4
    let s := ({ s with cancelled := s.cancelled ++ [(c.num, rec)] }).dropDeps c rec
    -- unplaced indexes leave the count of their launch; the launch record itself completes by R361
    let gone := s.items.filter fun i => i.ctx == c.num && i.lvl.contains rec
    let s := { s with items := s.items.filter fun i => !(gone.any (·.id == i.id)) }
    let s := gone.foldl (fun s i =>
      let s := s.freeBatch i.ctx i.origin
      if i.lrec = 0 then s
      else (s.recAdd c i.lrec (-(i.stop - i.next : Nat))).settleRecs c settleFuel [] [i.lrec]) s
    let s := s.blocks.foldl (fun s b =>
      if b.ctx = c.num ∧ b.lvl.contains rec then s.cancelBlock b level rec else s) s
    s.cancelSettle.retireIdle

end Sys2Proof.Machine
end

