-- ==== Sys2Proof/Machine/Ctl.lean ====
section
/-!
DEFINITION. Fetching and clause headers (R33 to R35, R53, R211, R332), and class CTL's control flow (R89, R95 to R107):
branches, calls, tokens, `yield`, `exit`, `nop`, `lower`, `cancel`, and the delivery of a cancellation.
-/
namespace Sys2Proof.Machine
open Sys2Proof.Num

/-! ## Fetch (R332, R333) -/

/-- A fetch reaches the supervisor range only in the supervisor's handler (R333). -/
def Group.fetchSup (g : Group) : Bool := match g.traps with | t :: _ => t.cause == 8 | [] => false
/-- Fetch a word: the word, or the group fault of R332. -/
def State.fetch (s : State) (c : Ctx) (b : Block) (g : Group) (addr : Nat) : (Fault2 ⊕ W32) × State :=
  match s.xlate c b.die b.core addr .fetch 7 g.fetchSup with
  | (.inl m, s) => (.inl { cause := m.cause, sub := m.sub, faddr := addr }, s)
  | (.inr (pa, key), s) => (.inr (BitVec.ofNat 32 (leVal (s.readPhys key pa 4))), s)
/-- An ILLEGAL_CLAUSE fault (R53). -/
def clauseFault (sub : Nat) : Fault2 := grpFault 0x02 sub

/-- The class of a CLASS code (Table MAP-1). -/
def clsOf : Nat → Cls
  | 0 => .alu | 1 => .flt | 2 => .mem | 3 => .loc | 4 => .eng | 5 => .ctl | _ => .sys
/-- Fetch the words of instruction i of a clause: with its extension word where LONG says so (R33). -/
def State.fetchWords (s : State) (c : Ctx) (b : Block) (g : Group) (clause i : Nat) (hdr : W32) : (Fault2 ⊕ Words) × State :=
  let h := Header.ofWord hdr
  match s.fetch c b g (clause + h.offset i) with
  | (.inl f, s) => (.inl f, s)
  | (.inr w, s) =>
    if !h.isLong i then (.inr { hdr := hdr, iw0 := w }, s)
    else match s.fetch c b g (clause + h.offset i + 4) with
      | (.inl f, s) => (.inl f, s)
      | (.inr x, s) => (.inr { hdr := hdr, iw0 := w, iw1 := x }, s)
/-- The instruction that words hold, as instruction i of their clause. -/
def Words.decode (w : Words) (i : Nat) : Decoded :=
  let h := Header.ofWord w.hdr
  Sys2Proof.decode (clsOf h.cls) w.iw0 (if h.isLong i then some w.iw1 else none)

/-! ## Headers (R34, R35, R211) -/

/-- Classes of a DRAIN field (Table MAP-1). -/
def drainClasses (d : BitVec 5) : List Drn :=
  (if d.getLsbD 4 then [.dl] else []) ++ (if d.getLsbD 3 then [.ds] else []) ++ (if d.getLsbD 2 then [.da] else []) ++
  (if d.getLsbD 1 then [.de] else []) ++ (if d.getLsbD 0 then [.dq] else [])
/-- The header's DRAIN wait is over: CLASPW's check and wait, or the header is done (R34, R53 subcode 4, R211). -/
def State.headerEnd (s : State) (r : PRef) (b : Block) (w : W32) : State :=
  let h := Header.ofWord w
  let words : Words := { hdr := w }
  let at15 := fun (s : State) (f : Fault2) => match (s.group? r.blk r.grp).bind (·.path? r.slot) with
    | some p => s.trapAt r f words p.clause 15
    | none => s
  if h.claspw = 31 then s.updPath r fun p => { p with cond := .ready, hdrDone := true }
  else match b.clasps[h.claspw]? with
    | none => at15 s (clauseFault 4)
    | some k =>
      if k.mode = 0 then at15 s (s.claspFault b h.claspw 5)
      else if k.mode = 2 then at15 s (s.claspFault b h.claspw 8)
      else s.updPath r fun p => { p with cond := .wait (.clasp h.claspw (k.cycle % 2 == 1) true) words }
/-- A path that stands at a header reaches it: the checks of R53, then its DRAIN wait, then the rest. -/
def State.reachHeader (s : State) (r : PRef) (c : Ctx) (b : Block) (g : Group) (p : Path) : State :=
  match s.fetch c b g p.clause with
  | (.inl f, s) => s.trapAt r f {} p.clause 15
  | (.inr w, s) =>
    let h := Header.ofWord w
    match h.err with
    | some sub => s.trapAt r (clauseFault sub) { hdr := w } p.clause 15
    | none =>
      if (drainClasses h.drain).any fun d => g.count d != 0 then s.updPath r fun p => { p with cond := .drain }
      else s.headerEnd r b w
/-- HEADER_DRAIN_END: every class of the header's DRAIN has reached 0 (R34). -/
def execHeaderDrainEnd (r : PRef) (s : State) : Out :=
  match s.block? r.blk with
  | none => .fault .noSuchEvent
  | some b => match b.groups[r.grp]?, s.ctx? b.ctx with
    | some g, some c => match g.path? r.slot with
      | some p => match s.fetch c b g p.clause with
        | (.inl f, s) => .next (s.trapAt r f {} p.clause 15)
        | (.inr w, s) =>
          if p.cond != .drain || (drainClasses (Header.ofWord w).drain).any fun d => g.count d != 0 then .fault .noSuchEvent
          else .next (s.headerEnd r b w)
      | none => .fault .noSuchEvent
    | _, _ => .fault .noSuchEvent

/-- CANCEL_DELIVERY: a cancellation reaches a path in a checked wait or at a clause boundary (R15), or one that `rfe` re-entered
with a cancellation held back (R308). When both paths wait, the path in slot 0 takes the trap, and the other's wait ends without
an acquire. A fence wait of a resumed group ends too; a group that suspends takes none (R289). -/
def execCancelDelivery (r : PRef) (s : State) : Out :=
  match s.group? r.blk r.grp with
  | none => .fault .noSuchEvent
  | some g => match g.path? r.slot with
    | none => .fault .noSuchEvent
    | some p => match (if g.suspends then none else g.cancelDue p) with
      | none => .fault .noSuchEvent
      | some f => match p.waiting s.cc with
        | some (on, w) =>
          let other : PRef := { r with slot := 1 - r.slot }
          let s := match (g.path? (1 - r.slot)).bind (·.waiting s.cc) with
            | some (on', _) =>
              (((s.dropFlight other on').dropRefs r.blk r.grp (some other.slot)).updPath other fun q => { q with cond := .ready })
            | none => s
          .next ((s.dropFlight r on).cancelTrap r f w p.clause p.index)
        | none => match p.cond with
          | .ready =>
            if !g.fences.isEmpty then
              .next ((s.updGroup r.blk r.grp fun g => { g with fences := [], fenceFail := [] }).cancelTrap r f {} p.clause
                p.index)
            else if (p.index = 15 ∧ !p.hdrDone) ∨ p.owesCancel then .next (s.cancelTrap r f {} p.clause p.index)
            else .fault .noSuchEvent
          | _ => .fault .noSuchEvent

/-! ## Branches and calls (R89, R97, R98) -/

/-- The address a BR or JS word names (R44, R45). -/
def Cur.target (c : Cur) (off : Int) : Nat := wrapN 64 (c.wordAddr + 4 * off)
/-- The issuing path jumps to a header. -/
def State.jump (s : State) (c : Cur) (g : Group) (target : Nat) (sbit : Bool) : State :=
  s.setGroup c.ref.blk c.ref.grp (g.issuedBy c.ref.slot ((g.path? c.ref.slot).map (·.stepped (target, 15) sbit)))
/-- A BR selector's group-wide condition: p7 or a group predicate (R97). -/
def Cur.condBr (c : Cur) (f : Br) : Bool :=
  let k := f.sel.toNat
  (if k < 8 then true else c.g.qbit (k - 8)) != f.inv

/-- Push a path onto the divergence stack: its entry is written to the group's save slot (R90, Table REG-2); a save area that
cannot be written faults the context. -/
def State.pushed (s : State) (c : Cur) (e : StackEnt) (k : State → State) : State :=
  match s.vwrite c.c c.b.die c.b.core (slotAddr c.c c.b c.ref.grp + 0x500 + 16 * c.g.stack.length)
      (pathBytes e.clause e.index e.mask) with
  | (some s, _) => k s
  | (none, _) => s.faultCtx c.b.ctx
/-- `bra` under a lane predicate (R89): all lanes jump, none, or the path splits. With both slots busy and results outstanding the
path waits and issues the `bra` again: the predicate and the slots are read after the wait (DESIGN CHOICE, log 78). -/
def State.branchLanes (s : State) (c : Cur) (f : Br) : State :=
  let m := c.p.mask
  let taken := m &&& (if f.inv then ~~~(c.g.pmask f.sel.toNat) else c.g.pmask f.sel.toNat)
  let target := c.target f.off.toInt
  if taken = m then s.jump c c.g target f.s
  else if taken = 0 then s.advance c c.g f.s
  else
    let rest := m &&& ~~~taken
    let far : Path := { clause := target, index := 15, mask := taken, board := c.p.board, cancelled := c.p.cancelled }
    if (c.g.path? (1 - c.ref.slot)).isNone then
      let g := (c.g.setPath c.ref.slot (some { c.p with mask := rest })).setPath (1 - c.ref.slot) (some far)
      s.advance c g f.s
    else if !c.g.clear c.p.board then s.updPath c.ref fun p => { p with cond := .park [] }
    else if 64 ≤ c.g.stack.length then s.trap c (grpFault 0x17 1)
    else if popMask rest < popMask taken then
      let e : StackEnt := { clause := c.after.1, index := c.after.2, mask := rest }
      s.pushed c e fun s =>
        s.jump c { c.g.setPath c.ref.slot (some { c.p with mask := taken }) with stack := c.g.stack ++ [e] } target f.s
    else
      let e : StackEnt := { clause := target, index := 15, mask := taken }
      s.pushed c e fun s =>
        s.advance c { c.g.setPath c.ref.slot (some { c.p with mask := rest }) with stack := c.g.stack ++ [e] } f.s

/-- A CTL instruction that acts on the whole path, whatever its guard. -/
def State.whole (s : State) (uses : List Src) (effect : State → Cur → Out) : Out :=
  s.begin none uses (fun c => c.p.mask) false fun c _ => effect s c
def execBra (f : Br) (s : State) : Out :=
  s.whole [] fun s c =>
    if f.sel.toNat < 7 then .next (s.branchLanes c f)
    else .next (if c.condBr f then s.jump c c.g (c.target f.off.toInt) f.s else s.advance c c.g f.s)
def execJmp (f : Br) (s : State) : Out :=
  s.whole [] fun s c =>
    .next (if c.condBr f then s.jump c c.g (c.target f.off.toInt) f.s else s.advance c c.g f.s)
/-- Jump and write a link (R97, R98). -/
def State.callTo (s : State) (c : Cur) (e : Mask) (srcs : List Src) (d target : Nat) (sbit : Bool) : Out :=
  s.allocate c e srcs 0 (if d = 0 then 0 else 1) fun s =>
    let s := s.putFlight c e srcs (linkFlight s d c.nextClause) sbit
    .next (s.updPath c.ref fun p => { p with clause := target, index := 15 })
def execCall (f : Br) (s : State) : Out :=
  s.whole [gfld 62] fun s c =>
    if c.condBr f then s.callTo c c.p.mask [] 62 (c.target f.off.toInt) f.s else .next (s.advance c c.g f.s)

/-- The checks of a register target (R98): MISALIGNED, then ACCESS RANGE. -/
def targetBad (t : Nat) : Option Fault2 :=
  if t % 4 != 0 then some (grpFault 0x0A 0)
  else if 2 ^ 57 ≤ t then some (grpFault 0x09 1)
  else none
def execCallr (f : V3) (s : State) : Out :=
  s.issue none [f.ga, gfld f.d] [f.ga] f.maskQ f.s fun s c e =>
    let t := c.g.read f.ga 0
    match targetBad t with
    | some ft => .next (s.trap c ft)
    | none => s.callTo c e [f.ga] f.d.toNat t f.s
/-- A jump to a register's value. -/
def State.jumpReg (s : State) (f : V3) : Out :=
  s.issue none [f.ga] [f.ga] f.maskQ f.s fun s c e =>
    let t := c.g.read f.ga 0
    match targetBad t with
    | some ft => .next (s.trap c ft)
    | none => .next (s.jump c (c.g.killAll c.ref.slot e [f.ga]) t f.s)
def execRet (f : V3) (s : State) : Out := s.jumpReg f
def execJmpr (f : V3) (s : State) : Out := s.jumpReg f

/-! ## Tokens (R92, R102) -/

def execJset (f : Js) (s : State) : Out :=
  s.whole [] fun s c =>
    let k := f.token.toNat
    let t := c.g.toks.getD k {}
    if t.isOpen ∨ !c.g.mayMerge k then .next (s.trap c (grpFault 0x17 2))
    else
      let t : Tok := { isOpen := true, mask := c.p.mask, jaddr := c.target f.off.toInt % 2 ^ 57 }
      .next (s.advance c { c.g with toks := c.g.toks.set k t } f.s)
/-- `join` (R102). Where several joins of the clause name the token, the merged path goes on after the one of the path that arrived
last (DESIGN CHOICE, log 58: the spec does not say which). -/
def execJoin (f : Js) (s : State) : Out :=
  s.whole [] fun s c =>
    let k := f.token.toNat
    let t := c.g.toks.getD k {}
    if !t.isOpen then .next (s.advance c c.g f.s)
    else if t.jaddr != c.p.clause then .next (s.trap c (grpFault 0x17 3))
    else
      let t := { t with
        arrived := t.arrived ||| c.p.mask, parked := t.parked ||| c.p.mask, resumeClause := c.after.1,
        resumeIndex := c.after.2, board := t.board ++ c.p.board.filter (!t.board.contains ·), sbit := t.sbit || f.s }
      let g := { (c.g.issuedBy c.ref.slot none) with toks := c.g.toks.set k t }
      .next (s.setGroup c.ref.blk c.ref.grp g.settle)

/-! ## yield, exit, nop, lower (R103 to R106) -/

/-- The node of a work graph at a descriptor, and how many records it holds (R364). -/
def State.node? (s : State) (ctx desc : Nat) : Option Node := s.nodes.find? fun n => n.ctx == ctx && n.desc == desc
def State.nodeHeld (s : State) (ctx desc : Nat) : Nat := match s.node? ctx desc with | some n => n.recs.length | none => 0
/-- Whether what a stalled path of a group needs is there (R112, R216, R262, R308, R313, R314, R337, R367). -/
def State.needMet (s : State) (b : Block) (g : Group) : Need → Bool
  | .regs nv ng kv kg => (s.kernel? b.kobj).any fun k => s.allocFor b k g.index (g.heldV - kv) (g.heldG - kg) nv ng != .stall
  | .copy => (b.reqs.filter (·.st != .done)).length < 64
  | .ring => b.mtx.tail + 1 - b.mtxTl ≤ 64
  | .spawnQ _ _ => false
  | .node desc n => s.nodeHeld b.ctx desc + n ≤ 1024
  | .drained cls => cls.all fun d => g.count d == 0
  | .noTask => !b.mtx.beads.any (·.st == .running)
/-- Whether a path of a group could issue in this cc, its header aside (R85, R86): a stalled one where it would not stall again. -/
def State.couldIssue (s : State) (b : Block) (g : Group) (p : Path) : Bool :=
  decide (p.start ≤ s.cc) && match p.cond with
    | .ready => true
    | .stalled n => s.needMet b g n
    | _ => false
/-- Whether a group's paths may have grants: it goes on, no fence holds it, it does not suspend. -/
def State.grantable (s : State) (b : Block) (g : Group) : Bool := s.goes b g && g.fences.isEmpty && !g.suspends
/-- The paths of a quarter that could issue in this cc: block, group, slot. -/
def State.quarterPaths (s : State) (die core q : Nat) : List (Nat × Nat × Nat) :=
  (s.blocks.filter fun b => b.die == die && b.core == core && b.st != .saved).flatMap fun b =>
    (b.groups.filter fun g => s.grantable b g && (match g.slotNo with | some n => n / 16 == q | none => false)).flatMap fun g =>
      [0, 1].filterMap fun slot => if (g.path? slot).any (s.couldIssue b g) then some (b.id, g.index, slot) else none
def execYield (f : V3) (s : State) : Out :=
  s.whole [] fun s c =>
    let q := c.g.slotNo.getD 0 / 16
    let me := (c.ref.blk, c.ref.grp, c.ref.slot)
    let others := (s.quarterPaths c.b.die c.b.core q).filter (· != me)
    let s := s.advance c c.g f.s
    .next (s.updPath c.ref fun p => match p.cond with
      | .park _ => { p with cond := .park others }
      | _ => if others.isEmpty then p else { p with cond := .yielded others })
def execExit (f : V3) (s : State) : Out :=
  s.issue none [] [] f.maskP f.s fun s c e => .next ((s.advance c c.g f.s).exitLanes c.ref.blk c.ref.grp e)
def execNop (f : V3) (s : State) : Out := s.whole [] fun s c => .next (s.advance c c.g f.s)
/-- `lower` (R106): a block that a res reference holds at res stays resident under the res rules while the reference lasts. -/
def execLower (f : VI) (s : State) : Out :=
  s.whole [] fun s c =>
    let k := f.val.toNat
    if c.b.clsL < k then .next (s.trap c (classFault 3 0 0))
    else .next ((s.updBlock c.ref.blk fun b => { b with clsL := k, resRes := b.resRes || s.keepsRes c.b }).advance c c.g f.s)

/-! ## cancel (R107) -/

def execCancel (f : V3) (s : State) : Out :=
  s.issue none [f.ga] [f.ga] f.maskQ f.s fun s c e =>
    let level := if opReg f.a = 0 then c.b.lrec else c.g.read f.ga 0
    match s.checkLane c level 64 .both 9 with
    | (.inl m, s) => .next (s.trap c { cause := m.cause, sub := m.sub, faddr := if m.cause = 8 then level else 0 })
    | (.inr _, s) =>
      let s := s.putLater c e [f.ga] { id := 0, slot := 0, due := none, cls := .de } f.s
      .next (s.cancelLevel c.c level)

end Sys2Proof.Machine
end

