-- ==== Sys2Proof/Machine/Sys.lean ====
section
/-!
DEFINITION. Class SYS (R308, R310 to R314, R335 to R337): `trap`, `brk`, the return from a handler, system registers, chip
time, `icsync`, the accumulator image, and the page instructions of the supervisor.
-/
namespace Sys2Proof.Machine
open Sys2Proof.Num

/-! ## trap, brk, ctc, csrr, csrw, icsync (R311 to R313) -/

def execTrap (f : VI) (s : State) : Out :=
  s.issue none [] [] (·.maskQ f.gp f.gi) f.s fun s c _ =>
    let s := s.setGroup c.ref.blk c.ref.grp (c.g.issuedBy c.ref.slot (some c.p))
    .next (s.trapAt c.ref (grpFault 0x20 f.val.toNat) c.w c.after.1 c.after.2)
def execBrk (f : VI) (s : State) : Out :=
  s.issue none [] [] (·.maskQ f.gp f.gi) f.s fun s c _ => .next (s.trap c (grpFault 0x21 f.val.toNat))
def execCtc (f : V3) (s : State) : Out :=
  s.issue none [gfld f.d] [] f.maskQ f.s fun s c e => s.fixed c e [] (wrG f.d.toNat s.ct) 4 0 f.s

/-- The value of a system register (Table TRP-8). -/
def State.csrVal (s : State) (c : Cur) (n : Nat) : Nat :=
  match n with
  | 0 => c.g.fflags
  | 1 => c.g.gstat
  | 2 => c.g.b8fmt.toNat
  | 3 => c.b.mtx.mflags
  | 4 => c.g.trapnest.toNat
  | 5 => let k := c.g.slotNo.getD 0
    c.b.core + 2 ^ 6 * c.b.die + 2 ^ 11 * (k / 16) + 2 ^ 13 * k
  | 6 => c.b.side.toNat
  | 7 => c.b.clsL + 4 * s.curClass c.b
  | 8 => c.g.lkgen.toNat
  | _ => slotAddr c.c c.b c.ref.grp
def execCsrr (f : VI) (s : State) : Out :=
  s.issue none [gfld f.d] [] (·.maskQ f.gp f.gi) f.s fun s c e =>
    s.fixed c e [] (wrG f.d.toNat (s.csrVal c f.val.toNat)) 4 0 f.s
/-- The bits of a writable system register that are no reserved bits: `fflags`, `gstat`, `b8fmt`, `mflags`, `trapnest`. -/
def csrBits (n : Nat) : W64 := match n with
  | 0 => 0x1F | 1 => 0x1F | 2 => 0x1F1F | 3 => 0x7F | _ => 0x01FFFFFFFFFFF001
def execCsrw (f : VI) (s : State) : Out :=
  let a := gsrc f.a 1 1
  s.issue none [a] [a] (·.maskQ f.gp f.gi) f.s fun s c e =>
    let x : W64 := BitVec.ofNat 64 (c.g.read a 0)
    let n := f.val.toNat
    if x &&& ~~~(csrBits n) != 0 then .next (s.trap c (grpFault 0x01 7))
    else .next (s.putFlight c e [a]
      { id := 0, slot := 0, due := some (s.cc + 4), fixed := true, csr := some (n, x) } f.s)

def execIcsync (f : VI) (s : State) : Out :=
  s.issue none [] [] (·.maskQ f.gp f.gi) f.s fun s c e =>
    if c.g.count .ds != 0 then .next (s.stall c (.drained [.ds])) else .next (s.done c e [] f.s)

/-! ## rfe (R308) -/

/-- A frame as `rfe` reads it (Table TRP-3). -/
structure Frame where
  amask : Mask
  sdepth : Nat
  pc : Nat
  mapG : Nat
  mapV : Nat
  tokOpen : Nat
  ps : List (Nat × Nat)        -- of each slot: the word with clause and index, and the mask
  bank : Nat
  reserved : Bool              -- a reserved field is not 0
def Frame.ofBytes (bs : List Byte) : Frame :=
  let pcw := fieldAt bs 0x18 8
  { amask := BitVec.ofNat 32 (fieldAt bs 8 4), sdepth := fieldAt bs 3 1, pc := pcw, mapG := fieldAt bs 0x38 1,
    mapV := fieldAt bs 0x39 1, tokOpen := fieldAt bs 0x3A 2,
    ps := [(fieldAt bs 0x40 8, fieldAt bs 0x48 4), (fieldAt bs 0x50 8, fieldAt bs 0x58 4)], bank := fieldAt bs 0x60 8,
    reserved := fieldAt bs 2 1 / 8 != 0 || 2 ^ 62 ≤ pcw || fieldAt bs 0x3C 4 != 0 || fieldAt bs 0x68 24 != 0 ||
      2 ^ 61 ≤ fieldAt bs 0x40 8 || fieldAt bs 0x4C 4 != 0 || 2 ^ 61 ≤ fieldAt bs 0x50 8 || fieldAt bs 0x5C 4 != 0 }
def Frame.slot (f : Frame) : Nat := f.pc / 2 ^ 61 % 2
/-- PS of the other slot. -/
def Frame.other (f : Frame) : Nat × Nat := f.ps.getD (1 - f.slot) (0, 0)
/-- Whether masks overlap. -/
def overlap : List Mask → Bool
  | [] => false
  | m :: ms => ms.any (fun x => m &&& x != 0) || overlap ms
/-- The FRAME fault of R308. -/
def Frame.bad (f : Frame) (t : TrapSt) (g : Group) : Bool :=
  f.reserved || f.amask &&& ~~~t.amask != 0 ||
    overlap (f.amask :: BitVec.ofNat 32 f.other.2 :: (g.stack.take f.sdepth).map (·.mask))
/-- Registers 56 to 63 of the group as the bank holds them. -/
def bankG (bank : List Byte) (map : Nat) : List (Option W64) :=
  (List.range 8).map fun i => if map.testBit i then some (BitVec.ofNat 64 (fieldAt bank (8 * i) 8)) else none
def bankV (bank : List Byte) (map : Nat) : List (Option VReg) :=
  (List.range 8).map fun i => if map.testBit i then
    some { val := (List.range 32).map fun l => BitVec.ofNat 32 (fieldAt bank (0x80 + 128 * i + 4 * l) 4)
           dead := BitVec.ofNat 32 (fieldAt bank (0x40 + 4 * i) 4) } else none
/-- The path of the other slot after `rfe`: the interrupted path where the frame still shows it, else the one the frame
describes. -/
def Frame.otherPath (f : Frame) (t : TrapSt) (exited : Mask) : Option Path :=
  let (pw, m) := f.other
  let mask : Mask := BitVec.ofNat 32 m &&& ~~~exited
  if mask = 0 then none
  else if f.slot = t.slot ∧ t.otherAt = some (pw % 2 ^ 57, pw / 2 ^ 57 % 16, BitVec.ofNat 32 m) then
    t.other.map fun p => { p with mask := mask }
  else some { clause := pw % 2 ^ 57, index := pw / 2 ^ 57 % 16, mask := mask }
/-- The group after `rfe`, but for the lanes that exit. -/
def Group.returned (g : Group) (f : Frame) (t : TrapSt) (bank : List Byte) (ct0 : Nat) : Group :=
  let mask := f.amask &&& ~~~g.exited
  let me : Option Path := if mask = 0 then none else some
    { clause := f.pc % 2 ^ 57, index := f.pc / 2 ^ 57 % 16, mask := mask, board := t.trapped.board,
      cancelled := t.trapped.cancelled, start := ct0 }
  let oth := f.otherPath t g.exited
  { g with
    g := g.g.take 56 ++ bankG bank f.mapG, v := g.v.take 56 ++ bankV bank f.mapV
    stack := g.stack.take f.sdepth
    toks := g.toks.mapIdx fun k (x : Tok) => if f.tokOpen.testBit k then x else {}
    traps := g.traps.tail, trapnest := if t.nest then g.trapnest ||| 1 else g.trapnest
    slot0 := if f.slot = 0 then me else oth, slot1 := if f.slot = 0 then oth else me }
/-- References of the interrupted path of the other slot go back to the slot's own number. -/
def State.unlevel (s : State) (blk grp slot level : Nat) : State :=
  let at' (k : Nat) : PRef := { blk := blk, grp := grp, slot := k }
  { s with refs := s.refs.map fun (x : Ref) =>
      if x.waiter = some (at' (slot + 2 * level)) then { x with waiter := some (at' slot) } else x }
/-- The counts that `rfe` and `suspend` wait on. -/
def allDrn : List Drn := [.dl, .ds, .da, .dq, .de]

/-- After the last handler a cancellation that was held back is due at the re-entered path's first issue (R308). -/
def Group.owes (g : Group) (slot : Nat) : Group :=
  if g.traps.isEmpty ∧ g.cancel.isSome then match g.path? slot with
    | some p => g.setPath slot (some { p with owesCancel := !p.cancelled })
    | none => g
  else g
/-- `rfe` (R308). Reserved bytes 0x60 to 0x7F of the trap bank that it reloads from are read past, whatever they hold (DESIGN CHOICE,
log 74: the checks of R308 name the frame alone). -/
def execRfe (_f : V3) (s : State) : Out :=
  s.whole [] fun s c => match c.g.traps with
    | [] => .next (s.trap c (grpFault 0x01 0x09))
    | t :: _ =>
      if allDrn.any fun d => c.g.count d != 0 then .next (s.stall c (.drained allDrn))
      else match s.vread c.c c.b.die c.b.core t.frame 0x180 with
        | (none, s) => .next (s.faultCtx c.b.ctx)
        | (some bs, s) =>
          let fr := Frame.ofBytes bs
          if fr.bad t c.g then .next (s.trap c (grpFault 0x01 0x0A))
          else match s.vread c.c c.b.die c.b.core fr.bank 0x480 with
            | (none, s) => .next (s.faultCtx c.b.ctx)
            | (some bank, s) =>
              let keep := { c.g with g := c.g.g.take 56, v := c.g.v.take 56 }
              let nv := ((List.range 8).filter fr.mapV.testBit).length
              let ng := ((List.range 8).filter fr.mapG.testBit).length
              match s.allocFor c.b c.k c.ref.grp keep.heldV keep.heldG nv ng with
              | .stall => .next (s.stall c (.regs nv ng (c.g.heldV - keep.heldV) (c.g.heldG - keep.heldG)))
              | .maxLive => .next (s.trap c (grpFault 0x03 3))
              | .ok =>
                let g := (c.g.returned fr t bank (s.cc + 1)).owes fr.slot
                let s := s.dropRefs c.ref.blk c.ref.grp (some 0)
                let s := s.dropRefs c.ref.blk c.ref.grp (some 1)
                let s := s.unlevel c.ref.blk c.ref.grp (1 - t.slot) c.g.traps.length
                let s := s.setGroup c.ref.blk c.ref.grp { g with turn := 1 - c.ref.slot }
                .next ((s.updGroup c.ref.blk c.ref.grp Group.settle).exitLanes c.ref.blk c.ref.grp (t.amask &&& ~~~fr.amask))

/-! ## accsv and accld (R314) -/

/-- Pieces of a region at 4,096-byte boundaries. -/
def pagesOf : Nat → Nat → Nat → List (Nat × Nat)
  | 0, _, _ => []
  | k + 1, a, n => if n = 0 then [] else
    let m := min n (4096 - a % 4096)
    (a, m) :: pagesOf k (a + m) (n - m)
/-- The first address of n bytes that fails an access check, and how (R157). -/
def State.spanMiss (s : State) (c : Ctx) (die core addr n : Nat) (a : Acs) (scope : Nat := 7) :
    Option (Nat × Miss) × State :=
  (pagesOf (n / 4096 + 2) addr n).foldl (fun acc x => match acc.1 with
    | some _ => acc
    | none => match acc.2.reach c die core x.1 x.2 a scope with
      | (.inl m, s) => (some (x.1, m), s)
      | (.inr _, s) => (none, s)) (none, s)
/-- The group access fault at an address (R157). -/
def spanFault (e : Mask) (addr : Nat) (m : Miss) : Fault2 := memFault true e (fun _ => addr) [(lowLane e, m)]
/-- POISON of a group access (R160). -/
def poisonFault (e : Mask) (addr : Nat) : Fault2 := { spanFault e addr ⟨0, 0x0B, 0, 0⟩ with cause := 0x0B, sub := 0 }
/-- Check a region as a group access of R157, aligned to 4,096; the frame holds the first address that fails. -/
def State.grpRegion (s : State) (c : Cur) (e : Mask) (addr n : Nat) (a : Acs) (k : State → Out) : Out :=
  if 2 ^ 57 ≤ addr then .next (s.trap c (spanFault e addr ⟨1, 0x09, 1, 0⟩))
  else if addr % 4096 != 0 then .next (s.trap c (spanFault e addr ⟨2, 0x0A, 0, 0⟩))
  else match s.spanMiss c.c c.b.die c.b.core addr n a with
    | (some (at', m), s) => .next (s.trap c (spanFault e at' m))
    | (none, s) => k s

def execAccsv (f : V3) (s : State) : Out :=
  s.issue none [f.ga] [f.ga] f.maskQ f.s fun s c e =>
    let a := c.g.read f.ga 0
    if !c.b.mtx.present then .next (s.trap c (taskFault 7))
    else s.grpRegion c e a imageSize .write fun s =>
      if c.b.mtx.beads.any (·.st == .running) then .next (s.stall c .noTask)
      else match (s.bankAccs c.c c.b).1 with
        | none => .next (s.faultCtx c.b.ctx)
        | some accs => match s.vwrite c.c c.b.die c.b.core a { c.b.mtx with accs := accs }.image with
          | (some s, _) => .next (s.putLater c e [f.ga] { id := 0, slot := 0, due := none, cls := .ds, store := true } f.s)
          | (none, s) => .next (s.stall c .noTask)
def execAccld (f : V3) (s : State) : Out :=
  s.issue none [f.ga] [f.ga] f.maskQ f.s fun s c e =>
    let a := c.g.read f.ga 0
    if !c.b.mtx.present then .next (s.trap c (taskFault 7))
    else s.grpRegion c e a imageSize .read fun s =>
      if c.b.mtx.beads.any fun x => x.st == .queued || x.st == .running then .next (s.trap c (taskFault 8))
      else match s.reach c.c c.b.die c.b.core a imageSize .read with
        | (.inl _, s) => .next (s.stall c .noTask)
        | (.inr ps, s) =>
          let ((bs, bad), s) := s.readPieces ps
          if bad then .next (s.putLater c e [f.ga]
            { id := 0, slot := 0, due := none, cls := .dl, poison := poisonOf true e (fun _ => a) [lowLane e] } f.s)
          else match accsOf c.b.mtx.accs bs with
            | none => .next (s.trap c (taskFault 9))
            | some accs =>
              let s := s.updBlock c.ref.blk fun b => { b with mtx := { b.mtx with accs := accs, stored := false } }
              .next (s.putLater c e [f.ga] { id := 0, slot := 0, due := none, cls := .dl } f.s)

/-! ## pgmap and pginv (R333, R335 to R337) -/

/-- Supervisor mode: the handler's clause lies in the supervisor range (R333). -/
def Cur.supervisor (c : Cur) : Bool := c.g.fetchSup && supBase ≤ c.p.clause && c.p.clause < 2 ^ 57
/-- PRIV. -/
def privFault : Fault2 := grpFault 0x01 0x0B

/-- Whether a template names a page (R336): V, LEAF, a listed SIZE, FRAME 0, no reserved bit. -/
def templateOk (t : Nat) : Bool := t % 2 == 1 && t / 2 % 2 == 1 && leafFieldsOk t && leafFrame t == 0
/-- The table at the leaf level of a page, made where it is missing, or the STATUS that ends the walk. An entry that is not 0
though its V is 0 stands: `Cas64` fails, and nothing is mapped there (DESIGN CHOICE, log 68: PRESENT). -/
def State.tableFor (s : State) (die va level : Nat) : Nat → Nat → (Nat ⊕ Nat) × State
  | 0, table => (.inr table, s)
  | n + 1, table =>
    if n + 1 = level + 1 ∨ n < level then (.inr table, s)
    else
      let pa := table + 8 * (va / 2 ^ (12 + 9 * n) % 512)
      let e := s.phys pa 8
      if e % 2 = 0 then match s.popFrame die 0 with
        | (none, s) => (.inl 2, s)
        | (some f, s) =>
          if e ≠ 0 then (.inl 1, s.pushFrame die 0 f)
          else State.tableFor (s.writeEntry pa (f + 1)) die va level n f
      else if e / 2 % 2 = 1 then (.inl 1, s)
      else State.tableFor s die va level n (leafFrame e)
/-- Write the granules of a fresh frame as zeros under a key. -/
def State.zeroFrame (s : State) (key : BitVec 256) (frame : Nat) : Nat → State
  | 0 => s
  | n + 1 => State.zeroFrame (s.writePhys (some key) (frame + 64 * n) (List.replicate 64 0)) key frame n
/-- `Pgmap` of R336 for a template with V set: the STATUS. -/
def State.mapPage (s : State) (c : Ctx) (die va t : Nat) : Nat × State :=
  if !templateOk t then (7, s)
  else
    let size := leafSize t
    let level := pageLevel size
    let base := va % 2 ^ 57 / 2 ^ pageLog size * 2 ^ pageLog size
    match s.tableFor die base level 5 c.ptroot with
    | (.inl st, s) => (st, s)
    | (.inr table, s) => match s.popFrame die size with
      | (none, s) => (2, s)
      | (some f, s) =>
        let s := match s.keyFor c.num t with
          | some (some k) => s.zeroFrame k f (2 ^ pageLog size / 64)
          | _ => s
        let slots := (List.range (pageEntries size)).map fun i => table + 8 * (base / 2 ^ (12 + 9 * level) % 512 + i)
        if s.phys (slots.headD table) 8 != 0 then (1, s.pushFrame die size f)
        else if slots.any fun a => s.phys a 8 != 0 then
          (3, (s.tlbDrop c.num base (2 ^ pageLog size)).soil f (2 ^ pageLog size))
        else (0, (slots.foldl (fun s a => s.writeEntry a (t + f)) s).pageMapped c.num base size f)

/-- `pgmap` (R336); the reserved bytes of its record, from 0x18 on, are ignored (DESIGN CHOICE, log 74). -/
def execPgmap (f : V3) (s : State) : Out :=
  s.issue none [f.ga] [f.ga] f.maskQ f.s fun s c e =>
    if !c.supervisor then .next (s.trap c privFault)
    else
      let r := c.g.read f.ga 0
      if r < 2 ^ 57 ∧ r % 32 ≠ 0 then .next (s.trap c (spanFault e r ⟨2, 0x0A, 0, 0⟩))
      else s.access c true e (fun _ => r) 32 .both 7 fun s ps =>
        let ((bs, bad), s) := s.readPieces (ps.headD (0, [])).2
        let va := leVal (bs.take 8)
        let t := leVal ((bs.drop 8).take 8)
        if bad then .next (s.trap c (poisonFault e r))
        else if t % 2 = 0 then s.beginWait c e [f.ga] { kind := 12, cls := 2, clsL := 2 } (.host va (r + 16))
        else
          let (st, s) := s.mapPage c.c c.b.die va t
          .next ((s.vset c.c c.b.die c.b.core (r + 16) 8 st).done c e [f.ga] f.s)
/-- HOST_FAULT_REPLY: the host has mapped the page; or it refuses, and the handler ends the group with PAGE_FAULT REFUSED (R332,
R334, R336; DEDUCED, log 69: at the reply). -/
def execHostFaultReply (r : PRef) (refused : Bool) (s : State) : Out :=
  match s.waiter? r with
  | some x => match x.on with
    | .host _ status =>
      let t := (s.vset x.c x.b.die x.b.core status 8 (if refused then 5 else 4)).waitMet r x.p x.on x.w
      .next (if refused then t.killGroup r.blk r.grp 0x08 4 else t)
    | _ => .fault .noSuchEvent
  | none => .fault .noSuchEvent
/-- Whether the frames that a translation names have moved on through a migration record in FORWARD (R339). -/
def State.forwarded (s : State) (t : TlbEnt) : Bool :=
  let f := leafFrame t.leaf.toNat
  s.migs.any fun m => m.newBase.isSome && decide (m.base ≤ f) && decide (f + 2 ^ t.logSize ≤ m.base + m.size)
/-- The flights of a group's waits, which have made no access. -/
def Group.waitFlights (g : Group) : List Nat :=
  (([g.slot0, g.slot1].filterMap id) ++ g.traps.filterMap (·.other)).filterMap fun p => match p.cond with
    | .wait on _ | .ended on _ _ => on.flight?
    | _ => none
/-- The accesses, copy requests and tasks of a context that may use translations (R337). -/
def State.usersOf (s : State) (ctx : Nat) : List Using := (s.blocks.filter (·.ctx == ctx)).flatMap fun b =>
  (b.groups.flatMap fun g => (g.flights.filter fun f =>
    (f.cls == .dl || f.cls == .ds || f.cls == .da) && !f.arrived && !g.waitFlights.contains f.id).map fun f => .flight f.id) ++
  ((b.reqs.filter (·.st == .moving)).map fun r => .copy r.id) ++
  ((b.mtx.beads.filter (·.st == .running)).map fun x => .task b.id x.num)
/-- Whether one of them goes on. -/
def State.goesOn (s : State) (u : Using) : Bool := match u with
  | .flight id => s.blocks.any fun b => b.groups.any fun g => g.flights.any fun f => f.id == id && !f.arrived
  | .copy id => s.blocks.any fun b => b.reqs.any fun r => r.id == id && r.st == .moving
  | .task blk num => s.blocks.any fun b => b.id == blk && b.mtx.beads.any fun x => x.num == num && x.st == .running
/-- A `pginv` that is issued drops what the TLBs hold of the range; where another operation may have used one of those entries, it
holds its path until that has completed (R337). Then pages whose leaves were cleared or split go on (R331). -/
def execPginv (f : V3) (s : State) : Out :=
  s.issue none [f.ga, f.gb] [f.ga, f.gb] f.maskQ f.s fun s c e =>
    if !c.supervisor then .next (s.trap c privFault)
    else
      let va := c.g.read f.ga 0
      let n := c.g.read f.gb 0
      if va % 4096 != 0 || n % 4096 != 0 || n == 0 || decide (2 ^ 57 < va + n) then
        .next (s.trap c (grpFault 0x09 1))
      else if c.g.count .ds != 0 || c.g.count .da != 0 then .next (s.stall c (.drained [.ds, .da]))
      else
        let users := if (s.tlb.filter (·.overlaps c.b.ctx va n)).all s.forwarded then [] else s.usersOf c.b.ctx
        let s := (s.notePages c.b.ctx va n).tlbDrop c.b.ctx va n
        if users.isEmpty then .next ((s.settlePages c.b.ctx va n).done c e [f.ga, f.gb] f.s)
        else .next (s.putFlight c e [f.ga, f.gb]
          { id := 0, slot := 0, due := none, board := true, fence := some users, inval := some (va, n) } true)

end Sys2Proof.Machine
end

