-- ==== Sys2Proof/Machine/Locket.lean ====
section
/-!
DEFINITION. Lockets (R282 to R301): their layout and seal, `suspend` and its seal, the claim of `resume` and of a resume
queue, `lkcopy`, `lkdrop`, `rqpush`, and the end of a fence wait.
-/
namespace Sys2Proof.Machine
open Sys2Proof.Num

/-! ## Layout (R283, R284, R286) -/

/-- A 16-byte token record (Table GRP-4). -/
def Tok.bytes (t : Tok) : List Byte :=
  leBytes 8 (t.jaddr % 2 ^ 57 + if t.isOpen then 2 ^ 63 else 0) ++ leBytes 4 t.mask.toNat ++ leBytes 4 t.arrived.toNat
/-- The bits of a test on 0 to n − 1. -/
def bitMap (n : Nat) (f : Nat → Bool) : Nat := ((List.range n).map fun i => if f i then 2 ^ i else 0).sum
def Group.mappedV (g : Group) (n : Nat) : Bool := ((g.v[n]?).join).isSome
def Group.mappedG (g : Group) (n : Nat) : Bool := ((g.g[n]?).join).isSome
/-- The bytes of one fence entry (Table LKT-4): name, value, scope. -/
def fenceBytes (f : Nat × Nat × Nat) : List Byte := leBytes 8 (f.1 % 2 ^ 37 + 2 ^ 40 * f.2.2) ++ leBytes 8 f.2.1
/-- Pad bytes with zeros to n. -/
def padTo (n : Nat) (bs : List Byte) : List Byte := bs ++ List.replicate (n - bs.length) 0

/-- The body of a group's locket, from offset 0x40 on (Table LKT-3); `other` is the other path slot. -/
def Group.lkBody (g : Group) (other : Option Path) (fences : List (Nat × Nat × Nat)) (hs : List Nat) : List Byte :=
  let toks := (List.range 16).filter fun k => (g.toks.getD k {}).isOpen
  let views := (List.range 16).filter fun k => viewGen (g.t.getD k 0) != 0
  let gs := (List.range 64).filter g.mappedG
  let vs := (List.range 64).filterMap fun n => (g.v[n]?).join
  pathBytes? other ++ leBytes 8 (bitMap 64 g.mappedV) ++ leBytes 8 (bitMap 64 g.mappedG) ++
    ((List.range 7).map fun i => leBytes 4 (g.p.getD i 0).toNat).flatten ++
    leBytes 1 (bitMap 7 fun i => g.q.getD i false) ++ leBytes 1 g.stack.length ++ leBytes 2 0 ++
    leBytes 2 (bitMap 16 toks.contains) ++ leBytes 2 (bitMap 16 views.contains) ++ leBytes 4 g.exited.toNat ++
    leBytes 8 g.gstat ++ ((List.range 8).map fun i => leBytes 8 (g.e.getD i 0).toNat).flatten ++
    ((List.range 32).map fun i => leBytes 4 (g.seq.getD i 0).toNat).flatten ++
    padTo 64 (fences.map fenceBytes).flatten ++ padTo 16 (hs.map (leBytes 4)).flatten ++
    (toks.map fun k => (g.toks.getD k {}).bytes).flatten ++
    (g.stack.map fun e => pathBytes e.clause e.index e.mask).flatten ++
    (views.map fun k => leBytes 16 (g.t.getD k 0).toNat).flatten ++
    (gs.map fun k => leBytes 8 (g.gval k)).flatten ++
    (vs.map fun r => leBytes 4 r.dead.toNat).flatten ++ (if vs.length % 2 = 1 then leBytes 4 0 else []) ++
    (vs.map fun r => (r.val.map fun x => leBytes 4 x.toNat).flatten).flatten

/-- The seal of a locket's bytes under a key (R286). -/
def sealOf (key : BitVec 256) (bs : List Byte) : List Byte :=
  (hmac256 (bytes256 key) (bs.take 8 ++ leBytes 4 0 ++ (bs.drop 12).take 44 ++ (bs.drop 0x150).take 0x50)).take 8
/-- Bytes with n of them at an offset replaced. -/
def patch (bs : List Byte) (o : Nat) (new : List Byte) : List Byte := bs.take o ++ new ++ bs.drop (o + new.length)
/-- A whole locket, sealed. -/
def lkSealed (key : BitVec 256) (bs : List Byte) : List Byte := patch bs 0x38 (sealOf key bs)

/-- The header of Table LKT-2, with SEAL 0. -/
def lkHeader (flags gen ctx hdie kobj pc lcls ccls cflags sdreg amask size : Nat) : List Byte :=
  leBytes 4 0x544B4C56 ++ leBytes 2 0x0100 ++ leBytes 2 flags ++ leBytes 4 1 ++ leBytes 4 gen ++ leBytes 4 ctx ++
    leBytes 1 hdie ++ leBytes 3 0 ++ leBytes 8 kobj ++ leBytes 8 pc ++ leBytes 1 lcls ++ leBytes 1 ccls ++ leBytes 1 cflags ++
    leBytes 1 sdreg ++ leBytes 4 amask ++ leBytes 4 size ++ leBytes 4 0 ++ leBytes 8 0

/-- The carried handles and the fences of a locket's bytes; unused entries are 0. -/
def lkHandles (bs : List Byte) : List Nat := ((List.range 4).map fun i => fieldAt bs (0x190 + 4 * i) 4).filter (· != 0)
def lkFences (bs : List Byte) : List (Nat × Nat × Nat) :=
  ((List.range 4).filterMap fun i =>
    let x := fieldAt bs (0x150 + 16 * i) 8
    let v := fieldAt bs (0x158 + 16 * i) 8
    if x = 0 ∧ v = 0 then none else some (x % 2 ^ 37, v, bits x 43 40))

/-- Where the variable records of a locket begin, and its BODYSZ (R284): tokens, stack, views, group registers, dead bits,
vector registers, size. -/
structure LkAt where
  toks : Nat
  stack : Nat
  views : Nat
  gregs : Nat
  vdead : Nat
  vregs : Nat
  size : Nat
def bitList (n x : Nat) : List Nat := (List.range n).filter x.testBit
def lkAt (bs : List Byte) : LkAt :=
  let t := (bitList 16 (fieldAt bs 0x80 2)).length
  let d := fieldAt bs 0x7D 1
  let v := (bitList 16 (fieldAt bs 0x82 2)).length
  let g := (bitList 64 (fieldAt bs 0x58 8)).length
  let n := (bitList 64 (fieldAt bs 0x50 8)).length
  let a := 0x1A0 + 16 * t
  let b := a + 16 * d
  let c := b + 16 * v
  let e := c + 8 * g
  let f := e + 8 * ((n + 1) / 2)
  { toks := 0x1A0, stack := a, views := b, gregs := c, vdead := e, vregs := f, size := f + 128 * n - 0x40 }

/-! ## The checks of Table LKT-8 -/

/-- LOCKET_INVALID at a locket. -/
def lkFault (sub la : Nat) : Fault2 := { cause := 0x14, sub := sub, faddr := la }
/-- MAGIC, LVER, CTXID, in that order (R285, R292). -/
def lkHdrBad (c : Ctx) (bs : List Byte) : Option Nat :=
  if fieldAt bs 0 4 ≠ 0x544B4C56 then some 1
  else if fieldAt bs 4 2 ≠ 0x0100 then some 2
  else if fieldAt bs 0x10 4 ≠ c.num then some 3
  else none
def lkSealBad (c : Ctx) (bs : List Byte) : Bool := (bs.drop 0x38).take 8 != sealOf c.sealKey bs
/-- Parked lanes of an open token's record: ARRIVED less EXITED. -/
def lkParked (bs : List Byte) (i : Nat) : Mask :=
  BitVec.ofNat 32 (fieldAt bs ((lkAt bs).toks + 16 * i + 12) 4) &&& ~~~(BitVec.ofNat 32 (fieldAt bs 0x84 4))
/-- Whether a reserved field of a locket is not 0 (Tables LKT-2 to LKT-4, GRP-3, GRP-4, MTX-3). -/
def lkReservedBad (bs : List Byte) : Bool :=
  let at' := lkAt bs
  let toks := bitList 16 (fieldAt bs 0x80 2)
  let depth := fieldAt bs 0x7D 1
  let pathBad := fun o => fieldAt bs o 8 / 2 ^ 61 != 0 || fieldAt bs (o + 12) 4 != 0
  fieldAt bs 0x15 3 != 0 || fieldAt bs 6 2 / 4 != 0 || fieldAt bs 0x20 8 / 2 ^ 61 != 0 ||
    fieldAt bs 0x2A 1 / 8 != 0 || fieldAt bs 0x2B 1 / 64 != 0 || fieldAt bs 0x34 4 != 0 || pathBad 0x40 ||
    fieldAt bs 0x58 8 % 2 == 1 || fieldAt bs 0x7C 1 / 128 != 0 || fieldAt bs 0x7E 2 != 0 || fieldAt bs 0x88 8 / 32 != 0 ||
    (List.range 4).any (fun i => fieldAt bs (0x150 + 16 * i) 8 / 2 ^ 44 != 0 || bits (fieldAt bs (0x150 + 16 * i) 8) 39 37 != 0) ||
    (List.range toks.length).any (fun i => bits (fieldAt bs (at'.toks + 16 * i) 8) 62 57 != 0) ||
    (List.range depth).any (fun i => pathBad (at'.stack + 16 * i)) ||
    (List.range ((at'.gregs - at'.views) / 16)).any (fun i =>
      bits (fieldAt bs (at'.views + 16 * i) 8) 15 12 != 0 || fieldAt bs (at'.views + 16 * i + 12) 4 != 0) ||
    ((bitList 64 (fieldAt bs 0x50 8)).length % 2 == 1 && fieldAt bs (at'.vregs - 4) 4 != 0)
/-- Whether a record of an open token is of a closed one, or that of a nonempty view of an empty one. -/
def lkRecordsBad (bs : List Byte) : Bool :=
  let at' := lkAt bs
  (List.range ((at'.stack - at'.toks) / 16)).any (fun i => fieldAt bs (at'.toks + 16 * i) 8 / 2 ^ 63 == 0) ||
    (List.range ((at'.gregs - at'.views) / 16)).any fun i => bits (fieldAt bs (at'.views + 16 * i) 8) 31 16 == 0
/-- BODY of Table LKT-8. -/
def lkBodyBad (pkg : Pkg) (k : Kernel) (bs : List Byte) : Bool :=
  let at' := lkAt bs
  let toks := bitList 16 (fieldAt bs 0x80 2)
  let depth := fieldAt bs 0x7D 1
  let addrBad := fun x => !(k.textBase ≤ x && x < k.textBase + k.textSize && x % 4 == 0)
  let slot1 := fieldAt bs 0x48 4
  let masks : List Mask := [BitVec.ofNat 32 (fieldAt bs 0x2C 4), BitVec.ofNat 32 slot1, BitVec.ofNat 32 (fieldAt bs 0x84 4)] ++
    ((List.range depth).map fun i => BitVec.ofNat 32 (fieldAt bs (at'.stack + 16 * i + 8) 4)) ++
    ((List.range toks.length).map (lkParked bs))
  let addrs := [fieldAt bs 0x20 8 % 2 ^ 57] ++ (if slot1 = 0 then [] else [fieldAt bs 0x40 8 % 2 ^ 57]) ++
    ((List.range depth).map fun i => fieldAt bs (at'.stack + 16 * i) 8 % 2 ^ 57) ++
    ((List.range toks.length).map fun i => fieldAt bs (at'.toks + 16 * i) 8 % 2 ^ 57)
  let flags := fieldAt bs 6 2
  let hdie := fieldAt bs 0x14 1
  fieldAt bs 0x30 4 != at'.size || decide (64 < depth) || lkReservedBad bs || lkRecordsBad bs ||
    decide (2 < fieldAt bs 0x28 1) || decide (2 < fieldAt bs 0x29 1) || bits (fieldAt bs 0x2A 1) 2 1 == 3 ||
    addrs.any addrBad || fieldAt bs 0x2C 4 == 0 || (masks.map popMask).sum != 32 || masks.foldl (· ||| ·) 0 != allLanes ||
    fieldAt bs 0x50 8 / 2 ^ k.vregs != 0 || fieldAt bs 0x58 8 / 2 ^ k.gregs != 0 || decide (k.gregs ≤ fieldAt bs 0x2B 1) ||
    (flags % 2 == 1) != !(lkHandles bs).isEmpty || (flags / 2 % 2 == 1) != !(lkFences bs).isEmpty ||
    (hdie == 0xFF && !(lkHandles bs).isEmpty) || (hdie != 0xFF && (lkHandles bs).isEmpty && pkg.dies ≤ hdie)
/-- A buffer that a locket of a context carries. -/
def State.carriedBuf (s : State) (ctx die la h : Nat) : Option Buf := match s.handle die h with
  | .buf u => if u.st = .carried ∧ u.holder = la ∧ u.holderKind = ctx then some u else none
  | _ => none
/-- The checks after the claim (R292), from SEAL on: the failing subcode, or the kernel. SEAL comes before KERNEL, as R292 orders
them, also for a locket of a destroyed context, of which a case of R349 names KERNEL (DEDUCED, log 76). -/
def State.lkCheck (s : State) (c : Ctx) (la : Nat) (bs : List Byte) : Nat ⊕ Kernel :=
  if lkSealBad c bs then .inl 4
  else match s.kernels.find? fun k => k.kobj == fieldAt bs 0x18 8 && k.ctx == c.num && k.st != .retired with
    | none => .inl 5
    | some k =>
      if c.ceil < fieldAt bs 0x28 1 ∨ c.ceil < fieldAt bs 0x29 1 then .inl 8
      else if lkBodyBad s.pkg k bs then .inl 7
      else if (lkHandles bs).any fun h => (s.carriedBuf c.num (fieldAt bs 0x14 1) la h).isNone then .inl 9
      else .inr k

/-! ## Reading and claiming (R282, R292) -/

/-- Read n bytes as a group load: the bytes, or its fault (R157, R160). -/
def State.lkRead (s : State) (c : Ctx) (die core : Nat) (e : Mask) (a n : Nat) : (Fault2 ⊕ List Byte) × State :=
  if 2 ^ 57 ≤ a then (.inl (spanFault e a ⟨1, 0x09, 1, 0⟩), s)
  else match s.spanMiss c die core a n .read with
    | (some (at', m), s) => (.inl (spanFault e at' m), s)
    | (none, s) => match s.reach c die core a n .read with
      | (.inl m, s) => (.inl (spanFault e a m), s)
      | (.inr ps, s) => match s.readPieces ps with
        | ((_, true), s) => (.inl (poisonFault e a), s)
        | ((bs, false), s) => (.inr bs, s)
/-- The 64 bytes of a locket's header after MISALIGNED, MAGIC, LVER and CTXID. -/
def State.lkHead (s : State) (c : Ctx) (die core : Nat) (e : Mask) (la : Nat) : (Fault2 ⊕ List Byte) × State :=
  if la % 128 ≠ 0 then (.inl (grpFault 0x0A 0), s)
  else match s.lkRead c die core e la 64 with
    | (.inl f, s) => (.inl f, s)
    | (.inr h, s) => match lkHdrBad c h with
      | some sub => (.inl (lkFault sub la), s)
      | none => (.inr h, s)
/-- Whether the STATE word can be exchanged: the access faults of the compare-and-swap. -/
def State.lkCas (s : State) (c : Ctx) (die core : Nat) (e : Mask) (la : Nat) : Option Fault2 × State :=
  match s.spanMiss c die core (la + 8) 4 .both with
  | (some (at', m), s) => (some (spanFault e at' m), s)
  | (none, s) => (none, s)
def State.lkState (s : State) (c : Ctx) (die core la v : Nat) : State := s.vset c die core (la + 8) 4 v
/-- Claim a locket and check it: its bytes and its kernel, or the fault that leaves it as it was (R292). -/
def State.claimLocket (s : State) (c : Ctx) (die core : Nat) (e : Mask) (la : Nat) :
    (Fault2 ⊕ (List Byte × Kernel)) × State :=
  match s.lkHead c die core e la with
  | (.inl f, s) => (.inl f, s)
  | (.inr h, s) =>
    let st := fieldAt h 8 4
    if 2 ≤ st ∧ st ≤ 4 then (.inl { cause := 0x13, sub := st, faddr := la }, s)
    else if st ≠ 1 then (.inl (lkFault 6 la), s)
    else match s.lkCas c die core e la with
      | (some f, s) => (.inl f, s)
      | (none, s) =>
        let s := s.lkState c die core la 2
        match s.lkRead c die core e la (64 + fieldAt h 0x30 4) with
        | (.inl f, s) => (.inl f, s.lkState c die core la 1)
        | (.inr bs, s) => match s.lkCheck c la bs with
          | .inl sub => (.inl (lkFault sub la), s.lkState c die core la 1)
          | .inr k => (.inr (bs, k), s)
/-- The hardware queues configured for a block's launch on its core, as HQEN and HQCLS (R176). -/
def State.hqConfig (s : State) (b : Block) : Nat × Nat :=
  let qs := s.hqs.filter fun q => q.die == b.die && q.core == b.core && q.launch == b.hqLaunch
  ((qs.map fun q => 2 ^ q.num).sum, (qs.map fun q => q.cls * 2 ^ (2 * q.num)).sum)
/-- The work item of a claimed locket (R293): a block of one group of the resumer's launch, with that launch's levels and
hardware queues; `limit` is its queue's service bound (R235). -/
def lkItem (c : Ctx) (la : Nat) (bs : List Byte) (k : Kernel) (lrec : Nat) (lvl : List Nat) (prio launchNo : Nat)
    (hq : Nat × Nat) (limit : Option Nat) : Item :=
  let hdie := fieldAt bs 0x14 1
  { id := 0, ctx := c.num, kobj := k.kobj, arg := 0, lrec := lrec, lvl := lvl, jrec := 0, origin := .locket, nblk := 1,
    next := 0, stop := 1, clsL := fieldAt bs 0x28 1, prom := fieldAt bs 0x2A 1 % 2 == 1, prio := prio, hqEn := hq.1,
    hqCls := hq.2, launchNo := launchNo, ready := 0, level := 0, lanes := allLanes, locket := some (la, bs),
    hdie := if hdie = 0xFF then none else some hdie, limit := limit, spawnCore := none }

/-! ## suspend (R289 to R291) -/

/-- SUSPEND_BOUND. -/
def suspFault (sub la : Nat) : Fault2 := { cause := 0x15, sub := sub, faddr := la }
/-- Whether every other group of a block has left it. -/
def Block.lastGroup (b : Block) (gi : Nat) : Bool :=
  b.groups.all fun g => g.index == gi || g.st == .exited || g.st == .suspended
/-- The checks at issue: a fault, or the handles to carry. -/
def State.suspendCheck (s : State) (c : Cur) (la : Nat) (quad : List Nat) : Fault2 ⊕ List Nat :=
  let busy := c.b.mtx.beads.any (·.st != .done)
  if la % 128 ≠ 0 then .inl (grpFault 0x0A 0)
  else if 2 ^ 57 ≤ la then .inl (grpFault 0x09 1)
  else if !c.g.traps.isEmpty then .inl (suspFault 4 la)
  else if !c.b.clasps.isEmpty then .inl (suspFault 1 la)
  else if c.g.t.any (fun v => viewGen v != 0) && (busy || c.b.mtx.accs.any (·.dirty)) then .inl (suspFault 2 la)
  else if c.b.lastGroup c.ref.grp && busy then .inl (suspFault 3 la)
  else
    let hs := (quad.filter (· != 0)).eraseDups
    match hs.findSome? fun h => match s.handle c.b.die h with
      | .bad => some (handleFault 6 h)
      | .stale => some (handleFault 1 h)
      | .buf u => if u.heldBy c.b then none else some (handleFault 2 h) with
    | some f => .inl f
    | none => .inr hs
/-- The group registers that operands with L = 1 release. -/
def killsOf (srcs : List Src) : List Nat := (srcs.filter (·.l)).flatMap (·.regs)
/-- `suspend` (R289): the operands keep their registers until the locket is written, since a trap in the wait leaves the group
unchanged (DEDUCED, log 80). -/
def execSuspend (f : V3) (s : State) : Out :=
  let h : Src := { f.gb with n := 4 }
  let srcs := if opReg f.b = 0 then [f.ga] else [f.ga, h]
  s.issue none (srcs ++ [gfld f.d]) srcs f.maskQ f.s fun s c _ =>
    let la := c.g.read f.ga 0
    let quad := if opReg f.b = 0 then [] else (List.range 4).map fun i => c.g.gval (opReg f.b + i)
    match s.suspendCheck c la quad with
    | .inl ft => .next (s.trap c ft)
    | .inr hs =>
      let p : Path := { c.p with cond := .suspending f.d.toNat la hs (killsOf srcs) c.w }
      .next ((s.setGroup c.ref.blk c.ref.grp (c.g.issuedBy c.ref.slot (some p))).sided c.ref.blk)

/-- The fence entries of a group's uncompleted copy requests: of each scope the highest value (R290). -/
def Block.fencesOf (b : Block) (gi : Nat) : List (Nat × Nat × Nat) :=
  let rs := b.reqs.filter fun r => r.grp == gi && r.st != .done
  (rs.map (·.scope)).eraseDups.map fun sc =>
    (blockName b, ((rs.filter (·.scope == sc)).map (·.value)).foldl max 0, sc)
/-- Whether a suspending group has drained: the counts of R290 at 0, no result in flight that the locket's registers would
miss, and at most four scopes left. -/
def Group.suspendReady (g : Group) (b : Block) : Bool :=
  allDrn.all (fun d => g.count d == 0) && g.flights.all (·.arrived) && (b.fencesOf g.index).length ≤ 4
/-- A group that is now data: its registers and slots are released. -/
def Group.gone (g : Group) : Group :=
  { g with st := .suspended, v := List.replicate 64 none, g := List.replicate 64 none, slot0 := none, slot1 := none,
           stack := [], toks := List.replicate 16 {}, flights := [], fences := [], slotNo := none, cancel := none }
/-- Bytes of the locket of a suspending group. -/
def State.locketOf (s : State) (c : Ctx) (b : Block) (g : Group) (r : PRef) (p : Path) (d : Nat) (hs : List Nat) (w : Words) :
    List Byte :=
  let fences := b.fencesOf g.index
  let body := g.lkBody (g.path? (1 - r.slot)) fences hs
  let (clause, index) := p.next w
  let hdr := lkHeader ((if hs.isEmpty then 0 else 1) + (if fences.isEmpty then 0 else 2)) ((g.lkgen.toNat + 1) % 2 ^ 32) c.num
    (if hs.isEmpty then 0xFF else b.die) b.kobj (pcWord clause index) b.clsL (s.curClass b) (b.prom.toNat + 2 * g.role) d
    p.mask.toNat body.length
  lkSealed c.sealKey (hdr ++ body)
/-- The buffers of a block that a locket carries from now on (Table LKT-7); the copy requests that the group has issued go on
writing them until they complete (R291). -/
def State.carry (s : State) (die ctx la : Nat) (hs reqs : List Nat) : State :=
  hs.foldl (fun s h => match s.handle die h with
    | .buf u => s.setBuf { u with st := .carried, holder := la, holderKind := ctx, writers := reqs }
    | _ => s) s

/-- A group without the registers that its `suspend` gives up. -/
def Group.without (g : Group) (kills : List Nat) : Group := { g with g := kills.foldl (fun rs n => rs.set n none) g.g }
/-- The fault that the write of n bytes of a locket meets: the region cannot be written, or it is CLAIMED (R282, R289). -/
def State.sealFault (s : State) (c : Ctx) (b : Block) (m : Mask) (la n : Nat) : Option Fault2 × State :=
  match s.spanMiss c b.die b.core la n .write with
  | (some (at', x), s) => (some (spanFault m at' x), s)
  | (none, s) => match s.lkCas c b.die b.core m la with
    | (some f, s) => (some f, s)
    | (none, s) => (if s.vword c b.die b.core (la + 8) 4 = 2 then some (suspFault 5 la) else none, s)
/-- SUSPEND_SEAL: the counts have reached 0; the locket is written and sealed, and the group instance ends (R289). -/
def execSuspendSeal (r : PRef) (s : State) : Out :=
  match s.block? r.blk with
  | none => .fault .noSuchEvent
  | some b => match s.ctx? b.ctx, b.groups[r.grp]? with
    | some c, some g => match g.path? r.slot with
      | none => .fault .noSuchEvent
      | some p => match p.cond with
        | .suspending d la hs kills w =>
          if !g.suspendReady b then .fault .noSuchEvent
          else
            let bs := s.locketOf c b (g.without kills) r p d hs w
            match s.sealFault c b p.mask la bs.length with
            | (some ft, s) => .next (s.trapAt r ft w p.clause p.index)
            | (none, s) =>
              let s := match s.vwrite c b.die b.core la bs with | (some s, _) => s | (none, s) => s
              let own := (b.reqs.filter fun q => q.grp == g.index && q.st != .done).map (·.id)
              let s := (s.carry b.die c.num la hs own).groupEnded r.blk r.grp
              .next (s.updGroup r.blk r.grp Group.gone)
        | _ => .fault .noSuchEvent
    | _, _ => .fault .noSuchEvent

/-! ## resume, lkcopy, lkdrop, rqpush (R292, R296, R297, R300) -/

def execResume (f : V3) (s : State) : Out :=
  s.issue none [f.ga] [f.ga] f.maskQ f.s fun s c e =>
    let la := c.g.read f.ga 0
    match s.claimLocket c.c c.b.die c.b.core e la with
    | (.inl ft, s) => .next (s.killTrap c e [f.ga] ft)
    | (.inr (bs, k), s) =>
      let s :=
        if s.anyCancelled c.c c.b.lvl then s
        else
          let s := if c.b.lrec = 0 then s else s.recAdd c.c c.b.lrec 1
          s.addItem (lkItem c.c la bs k c.b.lrec c.b.lvl c.b.prio c.b.hqLaunch (s.hqConfig c.b) none)
      .next ((s.sided c.ref.blk).putLater c e [f.ga] { id := 0, slot := 0, due := none, cls := .de } f.s)

/-- The whole of a SEALED locket after its checks and its seal; a reserved field that is not 0 refuses it after them (R5; the place in
the order is DEDUCED, log 66). -/
def State.lkSource (s : State) (c : Ctx) (die core : Nat) (e : Mask) (la : Nat) : (Fault2 ⊕ List Byte) × State :=
  match s.lkHead c die core e la with
  | (.inl f, s) => (.inl f, s)
  | (.inr h, s) => match s.lkRead c die core e la (64 + fieldAt h 0x30 4) with
    | (.inl f, s) => (.inl f, s)
    | (.inr bs, s) =>
      if lkSealBad c bs then (.inl (lkFault 4 la), s)
      else if fieldAt bs 8 4 ≠ 1 then (.inl (lkFault 6 la), s)
      else if lkReservedBad bs then (.inl (lkFault 7 la), s)
      else (.inr bs, s)
/-- The checks of `lkcopy` on carried handles and on its destination (R296). -/
def State.lkDest (s : State) (c : Ctx) (die core : Nat) (e : Mask) (la lb : Nat) (bs : List Byte) : Option Fault2 × State :=
  let n := bs.length
  if !(lkHandles bs).isEmpty then (some (lkFault 9 la), s)
  else if la < lb + n ∧ lb < la + n then (some (lkFault 0x0A la), s)
  else if lb % 128 ≠ 0 then (some (grpFault 0x0A 0), s)
  else if 2 ^ 57 ≤ lb then (some (spanFault e lb ⟨1, 0x09, 1, 0⟩), s)
  else match s.spanMiss c die core lb n .write with
    | (some (at', m), s) => (some (spanFault e at' m), s)
    | (none, s) => match s.lkCas c die core e lb with
      | (some f, s) => (some f, s)
      | (none, s) => (if s.vword c die core (lb + 8) 4 = 2 then some (lkFault 0x0D lb) else none, s)
def execLkcopy (f : V3) (s : State) : Out :=
  s.issue none [f.ga, f.gb, gfld f.d] [f.ga, f.gb] f.maskQ f.s fun s c e =>
    let la := c.g.read f.ga 0
    let lb := c.g.read f.gb 0
    match s.lkSource c.c c.b.die c.b.core e la with
    | (.inl ft, s) => .next (s.trap c ft)
    | (.inr bs, s) => match s.lkDest c.c c.b.die c.b.core e la lb bs with
      | (some ft, s) => .next (s.trap c ft)
      | (none, s) => s.allocate c e [f.ga, f.gb] 0 (if f.d = 0 then 0 else 1) fun s =>
        let gen := (fieldAt bs 0x0C 4 + 1) % 2 ^ 32
        let bs := lkSealed c.c.sealKey (patch bs 0x0C (leBytes 4 gen))
        let s := match s.vwrite c.c c.b.die c.b.core lb bs with | (some s, _) => s | (none, s) => s
        .next (s.putLater c e [f.ga, f.gb] { id := 0, slot := 0, due := none, cls := .dl, writes := wrG f.d.toNat gen } f.s)

def execLkdrop (f : V3) (s : State) : Out :=
  s.issue none [f.ga] [f.ga] f.maskQ f.s fun s c e =>
    let la := c.g.read f.ga 0
    match s.lkSource c.c c.b.die c.b.core e la with
    | (.inl ft, s) => .next (s.trap c ft)
    | (.inr bs, s) => match s.lkCas c.c c.b.die c.b.core e la with
      | (some ft, s) => .next (s.trap c ft)
      | (none, s) =>
        let s := s.lkState c.c c.b.die c.b.core la 4
        let s := (lkHandles bs).foldl (fun s h => match s.carriedBuf c.b.ctx (fieldAt bs 0x14 1) la h with
          | some u => s.freeBuf u
          | none => s) s
        .next ((s.sided c.ref.blk).putLater c e [f.ga] { id := 0, slot := 0, due := none, cls := .da } f.s)

/-- Push an address onto a resume queue (R300): the LOCKET_INVALID subcode or another fault, or the state after it. -/
def State.pushResume (s : State) (c : Ctx) (die core : Nat) (e : Mask) (la k : Nat) : Fault2 ⊕ State :=
  let q := c.rqs.getD k {}
  if la % 128 ≠ 0 then .inl (grpFault 0x0A 0)
  else if !q.en then .inl (lkFault 0x0B la)
  else if 2 ^ q.logCap ≤ q.tail - q.head then .inl (lkFault 0x0C la)
  else
    let a := q.base + 8 * (q.tail % 2 ^ q.logCap)
    match s.spanMiss c die core a 8 .write with
    | (some (at', m), _) => .inl (spanFault e at' m)
    | (none, s) =>
      let s := s.vset c die core a 8 la
      let q' : ResumeQ := { q with
        tail := q.tail + 1, headSince := if q.tail = q.head then s.ct else q.headSince, pushed := q.pushed ++ [s.ct] }
      .inr (s.updCtx c.num fun c => { c with rqs := c.rqs.set k q' })
def execRqpush (f : V3) (s : State) : Out :=
  s.issue none [f.ga] [f.ga] f.maskQ f.s fun s c e =>
    match s.pushResume c.c c.b.die c.b.core e (c.g.read f.ga 0) (f.b.toNat / 8) with
    | .inl ft => .next (s.trap c ft)
    | .inr s => .next ((s.sided c.ref.blk).putLater c e [f.ga] { id := 0, slot := 0, due := none, cls := .dq } f.s)

/-! ## Resume queues (R299 to R301) -/

/-- The effective priority of a resume queue's head entry. -/
def ResumeQ.level (q : ResumeQ) (ct : Nat) : Nat := min 15 (q.prio + if q.age = 0 then 0 else (ct - q.headSince) / q.age)
/-! ## Fences (R295) -/

/-- Whether a fence is met, with the failed value that it covers (R228, R229): the block has reached the value, or left. A block
that was restored on another core is found under the name it had. -/
def State.fenceMet (s : State) (ctx : Nat) (f : Nat × Nat × Nat) : Option (Option (Nat × Nat × Nat) × State) :=
  match (s.named ctx f.1) <|> (s.blocks.find? fun b => b.ctx == ctx && b.oldNames.contains f.1) with
  | some b =>
    if b.copyTl < f.2.1 then none
    else match b.failv with
      | y :: ys => if y.1 ≤ f.2.1 then some (some y, s.updBlock b.id fun b => { b with failv := ys }) else some (none, s)
      | [] => some (none, s)
  | none => match s.leftFails.find? fun x => x.1 == f.1 && x.2.1 ≤ f.2.1 with
    | some x => some (some x.2, { s with leftFails := s.leftFails.filter (· != x) })
    | none => some (none, s)
/-- A block whose group waits on fences, and the first fence that is met. -/
def State.fenceDue (s : State) (b : Block) : Option (Group × Nat) :=
  (b.groups.filter fun g => g.isResident).findSome? fun g =>
    ((List.range g.fences.length).find? fun i => (s.fenceMet b.ctx (g.fences.getD i (0, 0, 0))).isSome).map fun i => (g, i)
/-- The class that held until the fences were met ends; a res reference goes on holding a block that was res by it (R232,
R293). -/
def State.fencesOver (s : State) (blk : Nat) : State :=
  s.updBlock blk fun b => { b with implied := 0, resRes := b.resRes || s.keepsRes b }
/-- FENCE_WAIT_END: a fence of a resumed group is met; a covered request that failed is to be reported (R295). -/
def execFenceWaitEnd (blk : Nat) (s : State) : Out :=
  match s.block? blk with
  | none => .fault .noSuchEvent
  | some b => match s.fenceDue b with
    | none => .fault .noSuchEvent
    | some (g, i) => match s.fenceMet b.ctx (g.fences.getD i (0, 0, 0)) with
      | none => .fault .noSuchEvent
      | some (bad, s) =>
        let g := { g with fences := g.fences.eraseIdx i, fenceFail := g.fenceFail ++ bad.toList }
        let s := s.setGroup blk g.index g
        .next (if g.fences.isEmpty then s.fencesOver blk else s)
/-- After the last fence the group takes COPY_FAILED for each wait that covered a failed request, one after the other, before its
first instruction (R295). -/
def State.fenceReport (s : State) (b : Block) (g : Group) : Option State :=
  match g.fenceFail, g.path? 0 with
  | y :: ys, some p =>
    if !g.fences.isEmpty ∨ !g.traps.isEmpty then none
    else
      let s := s.updGroup b.id g.index fun g => { g with fenceFail := ys }
      some (s.trapAt { blk := b.id, grp := g.index, slot := 0 } (copyFailed y) {} p.clause p.index)
  | _, _ => none

end Sys2Proof.Machine
end

