-- ==== Sys2Proof/Machine/Spawn.lean ====
section
/-!
DEFINITION. `spawn` and `emit` (R365 to R367), and the records gathered for a work-graph node (R364).
-/
namespace Sys2Proof.Machine
open Sys2Proof.Num

/-! ## Work-graph nodes (R364) -/

/-- A node descriptor. -/
structure NodeDesc where
  kobj : Nat
  batch : Nat
  lrec : Nat
  timer : Nat
  nbuf : Nat
  cls : Nat
  prom : Bool
  prio : Nat
  bad : Bool                   -- a reserved bit set or a field out of range
  deriving DecidableEq, Repr
def NodeDesc.ofBytes (bs : List Byte) : NodeDesc :=
  let f := fieldAt bs
  { kobj := f 0 8, batch := f 8 8, lrec := f 0x10 8, timer := if f 0x18 4 = 0 then 4000 else f 0x18 4, nbuf := f 0x1C 2,
    cls := f 0x1E 1, prom := f 0x1F 1 == 1, prio := f 0x20 1,
    bad := f 8 8 % 4096 != 0 || f 0x10 8 % 64 != 0 || f 0x1C 2 == 0 || decide (32 < f 0x1C 2) || decide (2 < f 0x1E 1) ||
      decide (1 < f 0x1F 1) || decide (15 < f 0x20 1) || f 0x21 31 != 0 }
def State.setNode (s : State) (n : Node) : State :=
  { s with nodes := s.nodes.map fun x => if x.ctx = n.ctx ∧ x.desc = n.desc then n else x }
/-- Append records to a node, as one step. -/
def State.nodeAppend (s : State) (ctx desc : Nat) (vals : List W32) : State :=
  let new := vals.map fun x => (x, s.ct)
  match s.node? ctx desc with
  | some n => s.setNode { n with recs := n.recs ++ new }
  | none => { s with nodes := s.nodes ++ [{ ctx := ctx, desc := desc, recs := new, taken := 0, busy := [] }] }
/-- The number of a node's next record. -/
def State.nodeNext (s : State) (ctx desc : Nat) : Nat := match s.node? ctx desc with
  | some n => n.taken + n.recs.length
  | none => 0

def execEmit (f : V3) (s : State) : Out :=
  let b := f.srcB 1
  s.issue none [f.ga, b] [f.ga, b] f.maskP f.s fun s c e =>
    let desc := c.g.read f.ga 0
    if desc % 64 ≠ 0 then .next (s.trap c (grpFault 0x0A 0))
    else match s.lkRead c.c c.b.die c.b.core e desc 64 with
      | (.inl ft, s) => .next (s.trap c ft)
      | (.inr bs, s) =>
        if (NodeDesc.ofBytes bs).bad then .next (s.trap c (taskFault 0x0C))
        else if 1024 < s.nodeHeld c.b.ctx desc + popMask e then .next (s.stall c (.node desc (popMask e)))
        else
          let s := s.nodeAppend c.b.ctx desc ((lanesOf e).map fun l => BitVec.ofNat 32 (c.g.read b l))
          .next ((s.sided c.ref.blk).putLater c e [f.ga, b] { id := 0, slot := 0, due := none, cls := .dq } f.s)

/-! ## spawn (R366) -/

/-- Spawns of a core that its spawn queue holds. -/
def State.spawnCount (s : State) (die core : Nat) : Nat :=
  ((s.items.filter fun i => i.spawnCore == some (die, core) && i.queued).map (·.dist)).eraseDups.length
/-- Whether a core's spawn queue of 256 entries has room. -/
def State.spawnRoom (s : State) (die core : Nat) : Bool := s.spawnCount die core < 256
/-- Raise a join record (R366); its reserved bytes are ignored (DESIGN CHOICE, log 74). -/
def State.joinRaise (s : State) (c : Ctx) (die core j cls n : Nat) (prom : Bool) : State :=
  let count := s.vword c die core j 8
  let cls := if count = 0 then cls else min (s.vword c die core (j + 8) 1 % 4) cls
  let prom := if count = 0 then prom else prom && s.vword c die core (j + 9) 1 % 2 == 1
  (((s.vset c die core (j + 8) 1 cls).vset c die core (j + 9) 1 prom.toNat).vset c die core j 8 (wrapN 64 (count + n : Nat)))
/-- The children of a task record: they count in the parent's launch, and go to the core's spawn queue once it has room. -/
def State.enqueueChildren (s : State) (c : Cur) (k : Kernel) (arg j cls n : Nat) (prom : Bool) : State :=
  if s.anyCancelled c.c c.b.lvl then s
  else
    let s := if c.b.lrec = 0 then s else s.recAdd c.c c.b.lrec n
    let hq := s.hqConfig c.b
    s.addItem
      { id := 0, ctx := c.b.ctx, kobj := k.kobj, arg := BitVec.ofNat 64 arg, lrec := c.b.lrec, lvl := c.b.lvl, jrec := j,
        origin := .spawn, nblk := n, next := 0, stop := n, clsL := cls, prom := prom, prio := c.b.prio, hqEn := hq.1,
        hqCls := hq.2, launchNo := c.b.hqLaunch, ready := 0, level := 0, lanes := allLanes, locket := none, hdie := none,
        spawnCore := some (c.b.die, c.b.core), queued := s.spawnRoom c.b.die c.b.core }
/-- `spawn` (R366): after its counts are raised it stalls while its core's spawn queue is full; its kills are done by then. -/
def execSpawn (f : V3) (s : State) : Out :=
  let srcs := [f.ga, f.gb]
  s.issue none srcs srcs f.maskQ f.s fun s c e =>
    let j := c.g.read f.ga 0
    let t := c.g.read f.gb 0
    if t % 32 ≠ 0 then .next (s.killTrap c e srcs (grpFault 0x0A 0))
    else if j % 16 ≠ 0 then .next (s.killTrap c e srcs (grpFault 0x0A 0))
    else match s.lkRead c.c c.b.die c.b.core e t 32 with
      | (.inl ft, s) => .next (s.killTrap c e srcs ft)
      | (.inr bs, s) => match s.kernelFor c.b.ctx (fieldAt bs 0 8) with
        | .inr _ => .next (s.killTrap c e srcs (taskFault 0x0A))
        | .inl k =>
          let n := fieldAt bs 0x10 4
          let cls := fieldAt bs 0x14 1
          if n = 0 ∨ 65535 < n ∨ 2 < cls ∨ 1 < fieldAt bs 0x15 1 ∨ fieldAt bs 0x16 10 ≠ 0 then
            .next (s.killTrap c e srcs (taskFault 0x0B))
          else match (if j = 0 then (none, s) else s.spanMiss c.c c.b.die c.b.core j 16 .both) with
            | (some (at', m), s) => .next (s.killTrap c e srcs (spanFault e at' m))
            | (none, s) =>
              let cls := min cls c.b.clsL
              let prom := fieldAt bs 0x15 1 == 1
              let s := if j = 0 then s else s.joinRaise c.c c.b.die c.b.core j cls n prom
              let id := s.uid
              let s := (s.enqueueChildren c k (fieldAt bs 8 8) j cls n prom).sided c.ref.blk
              if s.items.all fun i => i.id != id || i.queued then
                .next (s.putLater c e srcs { id := 0, slot := 0, due := none, cls := .de } f.s)
              else .next (s.setGroup c.ref.blk c.ref.grp ((c.g.killAll c.ref.slot e srcs).issuedBy c.ref.slot
                (some { c.p with cond := .stalled (.spawnQ id c.w) })))
/-- The path of a `spawn` whose children have entered the spawn queue goes on from the next cc. -/
def Path.spawned (p : Path) (item cc : Nat) : Path := match p.cond with
  | .stalled (.spawnQ n w) =>
    if n = item then { p.stepped (p.next w) (w.iw0.getLsbD 31) with start := cc + 1 } else p
  | _ => p
/-- The words of a `spawn` of a group that waits with an item. -/
def Group.spawning? (g : Group) (item : Nat) : Option (Nat × Words) :=
  let ps : List (Nat × Option Path) := [(0, g.slot0), (1, g.slot1)] ++ g.traps.map fun (t : TrapSt) => (1 - t.slot, t.other)
  ps.findSome? fun x => x.2.bind fun p => match p.cond with
    | .stalled (.spawnQ n w) => if n = item then some (x.1, w) else none
    | _ => none
/-- The items that `spawn`s of a group wait with. -/
def Group.spawnItems (g : Group) : List Nat :=
  ([g.slot0, g.slot1] ++ g.traps.map (·.other)).filterMap fun p => p.bind fun p => match p.cond with
    | .stalled (.spawnQ n _) => some n
    | _ => none
/-- The `spawn` that goes on next, by its item: one whose children wait for a spawn queue that has room; or one whose children a
cancelled level has dropped, which stalls on the queue all the same (R15, R366). -/
def State.spawnNext (s : State) : Option Nat :=
  ((s.items.find? fun i => !i.queued && i.spawnCore.any fun x => s.spawnRoom x.1 x.2).map (·.id)) <|>
  s.blocks.findSome? fun b => if !s.spawnRoom b.die b.core then none else
    (b.groups.flatMap (·.spawnItems)).find? fun n => !s.items.any (·.id == n)
/-- A spawn queue has room for the children of a `spawn` that stalls (R366): they enter it, and the path goes on. -/
def State.spawnGo (s : State) : Option State :=
  s.spawnNext.map fun id =>
    let s := { s with items := s.items.map fun (x : Item) => if x.id = id then { x with queued := true, ready := s.ct } else x }
    let (d, s) := s.delay
    { s with
      uid := s.uid + 1
      blocks := s.blocks.map fun b => { b with groups := b.groups.map fun g => match g.spawning? id with
        | some (slot, w) =>
          { g.mapPaths (·.spawned id s.cc) with
            flights := g.flights ++ [{ id := s.uid, slot := slot, due := some (s.cc + d), cls := .de, words := w }] }
        | none => g } }

end Sys2Proof.Machine
end

