-- ==== Sys2Proof/Machine/Place.lean ====
section
/-!
DEFINITION. Placement and residency: blocks and their launch state (R84, R116, R234, R235, R348, R363, R397), the block of a
locket (R293), the end of a block (R104, R123, R361), the register steward (R118, R119), promotion to res (R240, R241),
pre-emption (R315) and context switches (R243, R317).
-/
namespace Sys2Proof.Machine
open Sys2Proof.Num

/-! ## Group slots (R397) -/

/-- Slots of a core in use. -/
def State.slotsUsed (s : State) (die core : Nat) : List Nat :=
  (s.blocks.filter fun b => b.die == die && b.core == core).flatMap fun b => b.groups.filterMap fun g =>
    if g.isResident then g.slotNo else none
/-- The slot that the next group takes: the quarter with the fewest groups, its lowest free slot. -/
def nextSlot (used : List Nat) : Option Nat :=
  let held := fun q => (used.filter fun x => x / 16 == q).length
  let q := (List.range 4).foldl (fun best q => if held q < held best then q else best) 0
  ((List.range 16).map (16 * q + ·)).find? fun x => !used.contains x
/-- Slots for n groups in order. -/
def takeSlots : Nat → List Nat → Option (List Nat)
  | 0, _ => some []
  | n + 1, used => match nextSlot used with
    | none => none
    | some x => (takeSlots n (x :: used)).map (x :: ·)

/-! ## Admission (R116, R167, R202, R234, R345, R348) -/

/-- Sum of the reservations of a core's resident groups that a test keeps, in one pool. -/
def State.reserved (s : State) (die core : Nat) (vec : Bool) (keep : Block → Bool) : Nat :=
  (s.blocks.map fun b =>
    if b.die != die || b.core != core || b.st == .saved || !keep b then 0 else match s.kernel? b.kobj with
      | none => 0
      | some k => (b.groups.filter (·.isResident)).length * (if vec then (s.reserve b k).1 else (s.reserve b k).2)).sum
/-- The largest max-live of the resident groups of a core whose class is below res. -/
def State.maxLive (s : State) (die core : Nat) (vec : Bool) (but : Nat) : Nat :=
  (s.blocks.map fun b =>
    if b.die != die || b.core != core || b.st == .saved || b.id == but || s.curClass b == 2 || !b.groups.any (·.isResident) then 0
    else match s.kernel? b.kobj with | none => 0 | some k => if vec then k.vmax else k.gmax).foldl max 0
/-- R116 for a block of n groups on a core: `res` by its class; `but` is the block itself where it is there already;
`held` what its groups hold beyond their reservations. -/
def State.poolsFit (s : State) (die core : Nat) (k : Kernel) (n : Nat) (res : Bool) (but : Nat) (heldV heldG : Nat) : Bool :=
  let fit := fun (vec : Bool) (mx fl held : Nat) =>
    let own := max held (n * if res then mx else fl)
    let others := (s.blocks.map fun b =>
      if b.id == but || b.die != die || b.core != core || b.st == .saved then 0 else match s.kernel? b.kobj with
        | none => 0
        | some k => (b.groups.map fun g => if !g.isResident then 0 else
            if vec then max g.heldV (s.reserve b k).1 else max g.heldG (s.reserve b k).2).sum).sum
    let resv := s.reserved die core vec fun b => b.id != but
    decide (others + own ≤ 4096) &&
      (if res then decide (resv + n * mx + s.maxLive die core vec but ≤ 4096)
       else decide (mx + s.reserved die core vec (fun b => b.id != but && s.curClass b == 2) ≤ 4096))
  fit true k.vmax k.vfloor heldV && fit false k.gmax k.gfloor heldG
/-- Scratchpad bytes of a slice that are taken. -/
def State.scratchUsed (s : State) (die core : Nat) : Nat :=
  ((s.blocks.filter fun b => b.die == die && b.core == core).map (·.scratchLeft)).sum +
    ((s.bufs.filter fun u => u.die == die && u.slice == core && u.st != .free).map fun u => roundUp u.size 128).sum
/-- Blocks that occupy a core. -/
def State.onCore (s : State) (die core : Nat) : List Block :=
  s.blocks.filter fun b => b.die == die && b.core == core && b.st != .saved
/-- The lowest free block slot of a core. -/
def State.freeBslot (s : State) (die core : Nat) : Option Nat :=
  (List.range 16).find? fun k => !(s.onCore die core).any (·.bslot == k)
/-- The lowest free record of a context's save area (R345). -/
def State.freeRecord (s : State) (c : Ctx) : Option Nat :=
  (List.range c.saveblks).find? fun n => !s.blocks.any fun b => b.ctx == c.num && b.recNo == n
/-- R348: a new block of a tenant of n groups. What the package measures of the tenant is free (log 67). -/
def State.budgetOk (s : State) (tenant n : Nat) : Bool :=
  match s.tenants.find? (·.num == tenant) with
  | none => false
  | some t =>
    let used := ((s.blocks.filter fun b => (s.ctx? b.ctx).any (·.tenant == tenant)).map fun b =>
      (b.groups.filter (·.isResident)).length).sum
    decide (used + n ≤ t.cores) && decide (Config.traffic tenant s.ct < t.bw) && decide (Config.power tenant s.ct < t.power)
/-- Whether the hardware queues of a launch are free on a core, or its own (R176). -/
def State.hqFree (s : State) (die core en launch : Nat) : Bool :=
  (bitList 8 en).all fun q => !s.hqs.any fun h => h.die == die && h.core == core && h.num == q && h.launch != launch
/-- What the core itself must have for n groups: slots, a block slot, pools, clasps, scratchpad. -/
def State.coreFits (s : State) (die core : Nat) (k : Kernel) (n : Nat) (res : Bool) (clasps scratch but heldV heldG : Nat) :
    Bool :=
  decide (die < s.pkg.dies) && decide (core < 56) && (takeSlots n (s.slotsUsed die core)).isSome &&
    (s.freeBslot die core).isSome && s.poolsFit die core k n res but heldV heldG &&
    decide ((((s.onCore die core).map (·.clasps.length)).sum) + clasps ≤ 256) &&
    decide (s.scratchUsed die core + scratch ≤ 3145728)
/-- The number of groups and clasps that an item's block has: a locket's has one and none (R293), a work-graph node's has one
group (R364). -/
def Item.shape (i : Item) (k : Kernel) : Nat × Nat :=
  if i.locket.isSome then (1, 0) else match i.origin with | .node _ _ => (1, k.clasps) | _ => (k.ngroups, k.clasps)
/-- The class of an item's block by itself: a locket's current class counts until its fences are met (R293). -/
def Item.own (i : Item) : Nat := match i.locket with
  | some (_, bs) => if (lkFences bs).isEmpty then i.clsL else max i.clsL (fieldAt bs 0x29 1)
  | none => i.clsL
/-- The class of the references held on an item's work. -/
def State.itemRefs (s : State) (i : Item) : Nat := refMax (s.refs.filter fun r => r.covers i.ctx i.lvl i.jrec)
/-- The class of an item in the order of placement: a promotion to res counts as evt (R239, R240). -/
def State.itemClass (s : State) (i : Item) : Nat := if i.own = 2 then 2 else max i.own (min 1 (s.itemRefs i))
/-- Registers that an item's groups hold from the start: those that a locket restores (R293). -/
def Item.holds (i : Item) : Nat × Nat := match i.locket with
  | some (_, bs) =>
    let sd := fieldAt bs 0x2B 1
    let gs := bitList 64 (fieldAt bs 0x58 8)
    ((bitList 64 (fieldAt bs 0x50 8)).length, gs.length + if sd = 0 || gs.contains sd then 0 else 1)
  | none => (0, 0)
/-- Whether a started evt block of a context is saved, or groups of it are spilled: then no opt block of the context is placed or
returned (R235). -/
def State.evtAway (s : State) (ctx : Nat) : Bool := s.blocks.any fun b =>
  b.ctx == ctx && s.curClass b == 1 && (b.st == .saved || b.groups.any (·.st == .spilled))
/-- Whether an item's next block may be placed at all: its context runs, a record is free, and the budgets have room, which do
not gate the residency of a target of a promotion to res (R345, R348). -/
def State.mayPlace (s : State) (i : Item) (c : Ctx) (n : Nat) : Bool :=
  i.queued && c.st == .running && !(s.itemClass i == 0 && s.evtAway i.ctx) && (s.freeRecord c).isSome &&
    (s.budgetOk c.tenant n || s.itemRefs i == 2)
/-- Whether an item's next block can be placed on a core. -/
def State.admits (s : State) (i : Item) (die core : Nat) : Bool :=
  match s.ctx? i.ctx, s.kernel? i.kobj with
  | some c, some k =>
    let (n, cl) := i.shape k
    s.mayPlace i c n && i.hdie.all (· == die) &&
      s.coreFits die core k n (i.own == 2) cl k.scratch 0 i.holds.1 i.holds.2 && s.hqFree die core i.hqEn i.launchNo
  | _, _ => false

/-! ## The order of placement (R235) -/

/-- The key of an item in the order: class, then level for evt; the earliest readiness breaks ties. -/
def State.itemKey (s : State) (i : Item) : Nat := s.itemClass i * 64 + (if s.itemClass i = 1 then min 15 (i.prio + i.level) else 0)
def State.itemBefore (s : State) (a b : Item) : Bool :=
  decide (s.itemKey b < s.itemKey a) || (s.itemKey a == s.itemKey b && decide (a.ready < b.ready))
/-- The items in placement order. -/
def State.ordered (s : State) : List Item := s.items.foldl (fun xs i => insertBy s.itemBefore i xs) []
/-- Cores of the package. -/
def Pkg.cores (p : Pkg) : List (Nat × Nat) := (List.range p.dies).flatMap fun d => (List.range 56).map fun c => (d, c)
/-! ## The tree of distributors (R363) -/

/-- A core's place in the tree: its die, cluster and core. -/
def corePath (x : Nat × Nat) : List Nat := [x.1, clusterOf x.2, x.2]
/-- The length of the part that two places have in common. -/
def sharedUp : List Nat → List Nat → Nat
  | a :: xs, b :: ys => if a = b then sharedUp xs ys + 1 else 0
  | _, _ => 0
/-- Parts of one range that lie in the subtree of a node. -/
def State.partsIn (s : State) (dist : Nat) (node : List Nat) : List Item :=
  s.items.filter fun i => i.dist == dist && node.isPrefixOf i.node
/-- Indexes that some parts hold. -/
def partsLeft (xs : List Item) : Nat := (xs.map fun i => i.stop - i.next).sum
/-- The sibling nodes between which a core takes work of an item: its own, and the one that holds the item. -/
def stealNodes (i : Item) (x : Nat × Nat) : List Nat × List Nat :=
  let n := sharedUp i.node (corePath x) + 1
  ((corePath x).take n, i.node.take n)
/-- Whether a core may take an index of an item: the item's node lies above the core, or a node above the core whose range is
empty takes from its sibling that holds the item and two indexes or more. -/
def State.mayTake (s : State) (i : Item) (x : Nat × Nat) : Bool :=
  i.node.isPrefixOf (corePath x) ||
    ((s.partsIn i.dist (stealNodes i x).1).isEmpty && decide (2 ≤ partsLeft (s.partsIn i.dist (stealNodes i x).2)))
/-- Cores that may place the next block of an item. -/
def State.coresFor (s : State) (i : Item) : List (Nat × Nat) :=
  s.pkg.cores.filter fun x => s.mayTake i x && s.admits i x.1 x.2

/-- Cut n indexes off the top of some parts, the highest first; they go to a node. -/
def State.moveTop (s : State) (node : List Nat) : List Item → Nat → State
  | [], _ => s
  | i :: rest, n =>
    let r := i.stop - i.next
    if n = 0 then s
    else if r ≤ n then
      State.moveTop { s with items := s.items.map fun x => if x.id = i.id then { x with node := node } else x } node rest (n - r)
    else
      let cutAt := i.stop - n
      { s with uid := s.uid + 1
               items := (s.items.map fun x => if x.id = i.id then { x with stop := cutAt } else x) ++
                 [{ i with id := s.uid, next := cutAt, node := node }] }
/-- Parts with the highest indexes first. -/
def topFirst (xs : List Item) : List Item := xs.foldr (insertBy fun i j => decide (j.next < i.next)) []
/-- A node whose range is empty takes the upper floor(r / 2) indexes of a sibling. -/
def State.steal (s : State) (dist : Nat) (thief victim : List Nat) : State :=
  let xs := s.partsIn dist victim
  s.moveTop thief (topFirst xs) (partsLeft xs / 2)
/-- How many of r indexes the j-th of m children gets: contiguous parts, as even as can be. -/
def partLen (r m j : Nat) : Nat := r / m + if j < r % m then 1 else 0
/-- Split an item's range among the children of its node that may take blocks, a core's own child first: what that child gets, and
the rest as parts of their own. Which child gets which part is the model's (DESIGN CHOICE, log 50). -/
def State.splitItem (s : State) (i : Item) (kids : List (List Nat)) : Item × State :=
  let r := i.stop - i.next
  let m := min r kids.length
  let mine := { i with node := kids.headD [], stop := i.next + partLen r m 0 }
  let others := ((List.range m).drop 1).foldl (fun (acc : Nat × List Item) j =>
    let stop := acc.1 + partLen r m j
    (stop, acc.2 ++ [{ i with id := s.uid + j, node := kids.getD j [], next := acc.1, stop := stop }])) (mine.stop, [])
  (mine, { s with uid := s.uid + m
                  items := (s.items.map fun x => if x.id = i.id then mine else x) ++ others.2 })
/-- Hand an item down to a core, level by level; `able` are the cores that may take its blocks. -/
def State.handDown (s : State) (x : Nat × Nat) (able : List (Nat × Nat)) : Nat → Item → Item × State
  | 0, i => (i, s)
  | n + 1, i =>
    if 3 ≤ i.node.length then (i, s)
    else
      let kid := fun (y : Nat × Nat) => (corePath y).take (i.node.length + 1)
      let kids := (kid x :: ((able.filter fun y => i.node.isPrefixOf (corePath y)).map kid)).eraseDups
      let (i, s) := s.splitItem i kids
      State.handDown s x able n i
/-- The part of an item whose next index a core places: taken from a sibling where it must be, and handed down to the core. -/
def State.takePart (s : State) (i : Item) (x : Nat × Nat) : Item × State :=
  let able := s.pkg.cores.filter fun y => s.admits i y.1 y.2
  if i.node.isPrefixOf (corePath x) then s.handDown x able 3 i
  else
    let (thief, victim) := stealNodes i x
    let s := s.steal i.dist thief victim
    match (topFirst (s.partsIn i.dist thief)).getLast? with
    | some j => s.handDown x able 3 j
    | none => (i, s)

/-! ## Launch state (R84, R65, R73) -/

/-- The sequence state of a lane at group start (R73). -/
def seqStart (blk grp lane : Nat) : W32 :=
  let z := (0x6A09E667 : W32) ^^^ (BitVec.ofNat 32 (blk * 0x01000193)) ^^^ BitVec.ofNat 32 (grp * 256) ^^^ BitVec.ofNat 32 lane
  if z = 0 then 1 else z
/-- A group at its start. -/
def Group.start (i role slot tag age : Nat) (arg : W64) (blk nblk entry : Nat) (lanes : Mask) : Group :=
  { index := i, role := role, slotNo := some slot, st := .resident
    g := none :: some arg :: some (BitVec.ofNat 64 blk) :: some (BitVec.ofNat 64 i) :: some (BitVec.ofNat 64 nblk) ::
      List.replicate 59 none
    v := List.replicate 64 none, p := List.replicate 7 0, q := List.replicate 7 false, e := List.replicate 8 0
    t := List.replicate 16 0, fflags := 0, stale := false, staleEn := false, qovf := false, b8fmt := 0x0404, trapnest := 0
    lkgen := 0, seq := (List.range 32).map (seqStart blk i), slot0 := some { clause := entry, index := 15, mask := lanes }
    slot1 := none, turn := 0, stack := [], toks := List.replicate 16 {}, flights := [], fm := 0, kinds := List.replicate 32 0
    exited := ~~~lanes, traps := [], cancel := none, tag := tag, fences := [], fenceFail := [], victim := false, age := age
    landed := [] }

/-- Take a context's core of a block: slot, generation, record. -/
def State.bgenOf (s : State) (die core bslot : Nat) : Nat := match s.bgens.find? (·.1 == (die, core, bslot)) with
  | some x => x.2
  | none => 0
/-- The block of an item on a core, without its groups. -/
def State.newBlock (s : State) (i : Item) (k : Kernel) (die core bslot recNo nclasps : Nat) : Block :=
  { id := s.uid, ctx := i.ctx, kobj := i.kobj, index := i.next, nblk := i.nblk, arg := i.arg, lrec := i.lrec, lvl := i.lvl
    jrec := i.jrec, origin := i.origin, die := die, core := core, bslot := bslot, bgen := s.bgenOf die core bslot, recNo := recNo
    clsL := i.clsL, clsLaunch := i.clsL, prom := i.prom, promRes := none, resRes := false, prio := i.prio, st := .running, side := false
    failed := none, groups := [], clasps := List.replicate nclasps {}, userTl := 0, copyTl := 0, mtxTl := 0, copyLast := 0
    first := false, prevT := 0, reqs := [], failv := [], cpFail := 0, mtFail := 0, fmOut := 0, kindsOut := 0, scratchLeft := k.scratch
    mtx := { present := k.roles.contains 1 }, implied := 0, hqLaunch := i.launchNo, lanes := i.lanes, evict := false, started := s.ct
    runTime := 0, waited := s.ct - i.ready, since := 0, bstate := none, oldNames := [] }
/-- Configure the hardware queues of a launch on a core where they are not yet (R176). -/
def State.configHqs (s : State) (hq : Nat × Nat) (launch die core : Nat) : State :=
  (bitList 8 hq.1).foldl (fun s q =>
    if s.hqs.any fun h => h.die == die && h.core == core && h.num == q && h.launch == launch then s
    else { s with
      hqs := s.hqs ++ [{ die := die, core := core, num := q, launch := launch, cls := hq.2 / 4 ^ q % 4,
                         poison := match s.hqPoison.find? (·.1 == (die, core, q)) with | some x => x.2 | none => [] }]
      hqPoison := s.hqPoison.filter (·.1 != (die, core, q)) }) s
/-- An item's next index has been taken. -/
def State.takeIndex (s : State) (i : Item) : State :=
  { s with items := s.items.filterMap fun x =>
      if x.id = i.id then (if x.next + 1 < x.stop then some { x with next := x.next + 1 } else none) else some x }
/-- The kernel has one more live block; a LOADED kernel is ACTIVE from the first block placed on (R123; DESIGN CHOICE, log 79: the
event names the launch, the action the block). -/
def Kernel.enter (k : Kernel) : Kernel := { k with live := k.live + 1, st := if k.st = .loaded then .active else k.st }

/-- A block enters a core: its kernel has one more, its launch's hardware queues are configured, its index is taken, a block
with a matrix context starts with an empty ring, and the stack entries of a resumed group stand in its save slot (R90, R123, R176,
R261, R293). -/
def State.enterBlock (s : State) (i : Item) (c : Ctx) (k : Kernel) (b : Block) : State :=
  let s := { s with blocks := s.blocks ++ [b] }
  let s := ((s.setKernel k.enter).configHqs (i.hqEn, i.hqCls) i.launchNo b.die b.core).takeIndex i
  let put := fun (s : State) (a : Nat) (bs : List Byte) => match s.vwrite c b.die b.core a bs with
    | (some s, _) => s
    | (none, s) => s.faultCtx i.ctx
  let s := if b.mtx.present then put s (ringBase c b) (List.replicate 4096 0) else s
  b.groups.foldl (fun s g => if g.stack.isEmpty then s else
    put s (slotAddr c b g.index + 0x500) (g.stack.map fun e => pathBytes e.clause e.index e.mask).flatten) s

/-- The groups of a new block in their slots. -/
def newGroups (i : Item) (k : Kernel) (tag age : Nat) (slots : List Nat) : List Group :=
  slots.mapIdx fun gi slot =>
    Group.start gi (k.roles.getD gi 0) slot (tag + gi) (age + gi) i.arg i.next i.nblk (k.textBase + k.entry) i.lanes

/-- BLOCK_PLACEMENT: a block gets its core, its record and its launch state (R84, R363). -/
def execBlockPlacement (item : Nat) (core : CoreId) (s : State) : Out :=
  match s.items.find? (·.id == item) with
  | none => .fault .noSuchEvent
  | some i =>
    if i.locket.isSome ∨ !(s.coresFor i).contains (core.die, core.core) then .fault .noSuchEvent
    else
      let (i, s) := s.takePart i (core.die, core.core)
      match s.ctx? i.ctx, s.kernel? i.kobj, s.freeBslot core.die core.core with
      | some c, some k, some bslot => match s.freeRecord c, takeSlots (i.shape k).1 (s.slotsUsed core.die core.core) with
        | some recNo, some slots =>
          let b := s.newBlock i k core.die core.core bslot recNo k.clasps
          let b := { b with groups := newGroups i k (s.uid + 1) (s.uid + 1) slots }
          .next (State.enterBlock { s with uid := s.uid + 1 + slots.length } i c k b)
        | _, _ => .fault .noSuchEvent
      | _, _, _ => .fault .noSuchEvent

/-- PLACEMENT_AGEING: a waiting evt item gains a level for a full 1 ms (R235). -/
def execPlacementAgeing (item : Nat) (s : State) : Out :=
  match s.items.find? (·.id == item) with
  | none => .fault .noSuchEvent
  | some i =>
    if s.itemClass i ≠ 1 ∨ s.ct < i.ready + 1000000 * (i.level + 1) then .fault .noSuchEvent
    else .next { s with items := s.items.map fun x => if x.id = item then { x with level := x.level + 1 } else x }

/-! ## The block of a locket (R293) -/

/-- The resume point after `join k` in a clause: the first `join` of the token among the clause's words. A clause may hold several,
and a locket does not say which one the parked lanes came through (R293; DESIGN CHOICE, log 58). -/
def State.joinAfter (s : State) (c : Ctx) (b : Block) (g : Group) (jaddr k : Nat) : Nat × Nat :=
  match (s.fetch c b g jaddr).1 with
  | .inl _ => (jaddr, 15)
  | .inr hdr =>
    let h := Header.ofWord hdr
    match (List.range h.count).find? fun i => match (s.fetchWords c b g jaddr i hdr).1 with
      | .inr w => match w.decode i with
        | .ok (.join f) => f.token.toNat == k
        | _ => false
      | .inl _ => false with
    | none => (jaddr, 15)
    | some i => if i + 1 < h.count then (jaddr, i + 1) else (jaddr + h.bytes, 15)
/-- A path from 16 bytes (Table GRP-3). -/
def pathAt (bs : List Byte) (o : Nat) : Option Path :=
  let m : Mask := BitVec.ofNat 32 (fieldAt bs (o + 8) 4)
  let x := fieldAt bs o 8
  if m = 0 then none else some { clause := x % 2 ^ 57, index := x / 2 ^ 57 % 16, mask := m }
/-- The group that a locket's bytes describe, with its tokens' resume points. -/
def groupOf (bs : List Byte) (slot tag age : Nat) (after : Nat → Nat → Nat × Nat) : Group :=
  let at' := lkAt bs
  let vs := bitList 64 (fieldAt bs 0x50 8)
  let gs := bitList 64 (fieldAt bs 0x58 8)
  let toks := bitList 16 (fieldAt bs 0x80 2)
  let views := bitList 16 (fieldAt bs 0x82 2)
  let exited : Mask := BitVec.ofNat 32 (fieldAt bs 0x84 4)
  let gen := fieldAt bs 0x0C 4
  let pc := fieldAt bs 0x20 8
  let sd := fieldAt bs 0x2B 1
  let regs := (List.range 64).map fun n => (gs.idxOf? n).map fun i => BitVec.ofNat 64 (fieldAt bs (at'.gregs + 8 * i) 8)
  let g := Group.start 0 (fieldAt bs 0x2A 1 / 2 % 4) slot tag age 0 0 0 0 allLanes
  { g with
    g := if sd = 0 then regs else regs.set sd (some (BitVec.ofNat 64 gen))
    v := (List.range 64).map fun n => (vs.idxOf? n).bind fun i =>
      let dead : Mask := BitVec.ofNat 32 (fieldAt bs (at'.vdead + 4 * i) 4) ||| exited
      if dead = allLanes then none else some
        { val := (List.range 32).map fun l => BitVec.ofNat 32 (fieldAt bs (at'.vregs + 128 * i + 4 * l) 4), dead := dead }
    p := (List.range 7).map fun i => BitVec.ofNat 32 (fieldAt bs (0x60 + 4 * i) 4)
    q := (List.range 7).map fun i => (fieldAt bs 0x7C 1).testBit i
    e := (List.range 8).map fun i => BitVec.ofNat 64 (fieldAt bs (0x90 + 8 * i) 8)
    t := (List.range 16).map fun n => match views.idxOf? n with
      | some i => BitVec.ofNat 128 (fieldAt bs (at'.views + 16 * i) 16)
      | none => 0
    stale := (fieldAt bs 0x88 1).testBit 0, staleEn := (fieldAt bs 0x88 1).testBit 1, qovf := (fieldAt bs 0x88 1).testBit 2
    lkgen := BitVec.ofNat 32 gen
    seq := (List.range 32).map fun l => BitVec.ofNat 32 (fieldAt bs (0xD0 + 4 * l) 4)
    slot0 := some { clause := pc % 2 ^ 57, index := pc / 2 ^ 57 % 16, mask := BitVec.ofNat 32 (fieldAt bs 0x2C 4) }
    slot1 := pathAt bs 0x40
    stack := (List.range (fieldAt bs 0x7D 1)).filterMap fun i =>
      (pathAt bs (at'.stack + 16 * i)).map fun p => { clause := p.clause, index := p.index, mask := p.mask }
    toks := (List.range 16).map fun k => match toks.idxOf? k with
      | none => {}
      | some i =>
        let o := at'.toks + 16 * i
        let j := fieldAt bs o 8 % 2 ^ 57
        let r := after j k
        { isOpen := true, mask := BitVec.ofNat 32 (fieldAt bs (o + 8) 4), arrived := BitVec.ofNat 32 (fieldAt bs (o + 12) 4),
          jaddr := j, parked := lkParked bs i, resumeClause := r.1, resumeIndex := r.2 }
    exited := exited, fences := lkFences bs }

/-- LOCKET_PLACEMENT: the resumed group's state is loaded, its buffers move to its block, and the locket is CONSUMED (R293). -/
def execLocketPlacement (item : Nat) (core : CoreId) (s : State) : Out :=
  match s.items.find? (·.id == item) with
  | none => .fault .noSuchEvent
  | some i => match i.locket with
    | none => .fault .noSuchEvent
    | some (la, bs) =>
      if !(s.coresFor i).contains (core.die, core.core) then .fault .noSuchEvent
      else match s.ctx? i.ctx, s.kernel? i.kobj, s.freeBslot core.die core.core with
      | some c, some k, some bslot => match s.freeRecord c, nextSlot (s.slotsUsed core.die core.core) with
        | some recNo, some slot =>
          let b := s.newBlock i k core.die core.core bslot recNo 0
          let b := { b with implied := if (lkFences bs).isEmpty then 0 else i.own }
          let dummy := groupOf bs slot (s.uid + 1) (s.uid + 1) fun _ _ => (0, 15)
          let g := groupOf bs slot (s.uid + 1) (s.uid + 1) (s.joinAfter c b dummy)
          let b := { b with groups := [g.settle] }
          let s := State.enterBlock { s with uid := s.uid + 2 } i c k b
          let s := (lkHandles bs).foldl (fun s h => match s.carriedBuf c.num core.die la h with
            | some u => s.setBuf { u with st := .held, holder := b.id, holderKind := 0 }
            | none => s) s
          .next (s.lkState c core.die core.core la 3)
        | _, _ => .fault .noSuchEvent
      | _, _, _ => .fault .noSuchEvent

/-! ## The end of a block (R104, R123, R175, R361) -/

/-- The name of a block is void: a wait on its counter ends, with ACCESS NAME where the value is not reached (R213). -/
def State.nameGone (s : State) (b : Block) : State :=
  s.wake fun x on => match on with
    | .tl 6 n name _ =>
      if name = blockName b ∧ x.ctx = b.ctx then some (if n ≤ b.userTl then none else some nameFault) else none
    | _ => none
/-- The hardware queues of a launch on a core go with its last block there (R176). -/
def State.dropHqs (s : State) (launch die core : Nat) : State :=
  if s.blocks.any fun x => x.die == die && x.core == core && x.hqLaunch == launch then s
  else
    let gone := s.hqs.filter fun h => h.die == die && h.core == core && h.launch == launch
    { s with
      hqs := s.hqs.filter fun h => !(h.die == die && h.core == core && h.launch == launch)
      hqPoison := ((gone.filter (!·.poison.isEmpty)).map fun h => ((h.die, h.core, h.num), h.poison)) ++ s.hqPoison }
/-- The generation of a core's block slot advances (R166). -/
def State.nextBgen (s : State) (die core bslot : Nat) : State :=
  { s with bgens := ((die, core, bslot), (s.bgenOf die core bslot + 1) % 65536) :: s.bgens.filter (·.1 != (die, core, bslot)) }
/-- A block leaves: its buffers are freed, its name is void, its queues and its kernel's count go down. A saved block has left its
slot before. -/
def State.depart (s : State) (b : Block) : State :=
  let mine := s.bufs.filter fun u =>
    (u.st == .held && u.holder == b.id) || (u.st == .transfer && u.target == b.id)
  let s := mine.foldl (fun s u => s.freeBuf u) s
  let s := (if b.st = .saved then s else s.nextBgen b.die b.core b.bslot).nameGone b
  let s := { s with
    blocks := s.blocks.filter (·.id != b.id)
    leftFails := s.leftFails ++ b.failv.map fun (y : Nat × Nat × Nat) => (blockName b, y.1, y.2.1, y.2.2) }
  let s := s.dropHqs b.hqLaunch b.die b.core
  match s.kernel? b.kobj with
  | some k =>
    let n := k.live - 1
    s.setKernel { k with live := n, st := if n = 0 ∧ k.st = .active then .loaded else k.st }
  | none => s
/-- A block leaves for good: a work-graph group gives its buffer back, and kernels may retire (R123, R364). -/
def State.leave (s : State) (b : Block) : State := ((s.depart b).freeBatch b.ctx b.origin).retireIdle
/-- Whether every group of a block has ended, with its operations (R104). -/
def Block.ended (b : Block) : Bool :=
  b.groups.all fun g => (g.st == .exited || g.st == .suspended) && g.flights.all (·.arrived)
/-- Whether every operation of an exited block has completed (R104, R231, R277). -/
def Block.complete (b : Block) : Bool := b.ended && b.reqs.isEmpty && b.mtx.beads.all (·.st == .done)
/-- Add a block's report to its launch's record (Table QUE-8). -/
def State.report (s : State) (c : Ctx) (b : Block) : State :=
  let r := b.lrec
  if r = 0 then s
  else
    let s := match b.failed with
      | none => s
      | some (cause, sub) =>
        let s := (s.recSet c r 0x20 4 (s.recGet c r 0x20 4 + 1)).recMark c r 8
        if s.recGet c r 0x24 1 = 0 then (s.recSet c r 0x24 1 cause).recSet c r 0x25 1 sub else s
    let fm := b.groups.foldl (fun m g => m ||| g.fm) b.fmOut
    let kinds := b.groups.foldl (fun m g => m ||| kindBits g.fm g.kinds) b.kindsOut
    let s := s.recSet c r 0x28 4 (s.recGet c r 0x28 4 ||| fm.toNat)
    let s := s.recSet c r 0x2C 1 (s.recGet c r 0x2C 1 ||| kinds)
    let s := if b.cpFail = 0 then s else s.recSet c r 0x30 4 (s.recGet c r 0x30 4 + b.cpFail)
    if b.mtFail = 0 then s else s.recSet c r 0x34 4 (s.recGet c r 0x34 4 + b.mtFail)
/-- The run time of a block so far. -/
def Block.ran (b : Block) (ct : Nat) : Nat := b.runTime + (if b.st = .saved then 0 else ct - b.started)
/-- Count a completed block of a launch (R315). -/
def State.noteRun (s : State) (b : Block) : State :=
  let old := match s.launchMeans.find? (·.1 == b.hqLaunch) with | some x => x.2 | none => (0, 0)
  { s with launchMeans := (b.hqLaunch, old.1 + 1, old.2 + b.ran s.ct) :: s.launchMeans.filter (·.1 != b.hqLaunch) }
/-- A bead of a block whose groups have ended is HALTED: it is discarded, and counts as a failed task (R277). -/
def State.discardHalted (s : State) (c : Ctx) (b : Block) (x : Bead) : State :=
  (s.updBlock b.id fun y => { y with mtFail := y.mtFail + 1 }).discardBead c b x
/-- BLOCK_COMPLETION: a HALTED bead of an exited block is discarded; when every operation has completed, the block's report is added, it leaves its core, and its
records' counts go down (R104, R361, R366). -/
def execBlockCompletion (blk : Nat) (s : State) : Out :=
  match s.block? blk with
  | none => .fault .noSuchEvent
  | some b => match s.ctx? b.ctx with
    | none => .fault .noSuchEvent
    | some c =>
      if !b.complete then
        match (if b.ended && b.st != .saved then b.mtx.beads.find? (·.st == .halted) else none) with
        | some x => .next (s.discardHalted c b x)
        | none => .fault .noSuchEvent
      else
        let s := ((s.report c b).noteRun b).leave b
        let s := if b.jrec = 0 then s else s.vset c b.die b.core b.jrec 8 (wrapN 64 (s.vword c b.die b.core b.jrec 8 - 1))
        let s := if b.lrec = 0 then s else { s with inbox := .recordRetire b.lrec (.block b.ctx) :: s.inbox }
        .next s
/-- RECORD_RETIRE: a unit retires from a completion record (R361, R362). -/
def execRecordRetire (recAddr : Nat) (what : Retiree) (s : State) : Out :=
  match what with
  | .block ctx => match s.ctx? ctx with
    | some c => .next ((s.recRetire c recAddr).cancelSettle)
    | none => .fault .noSuchEvent
  | .member ctx child => match s.ctx? ctx with
    | some c =>
      if s.recHas c child 2 ∧ s.recGet c child 0x10 8 = recAddr then .next ((s.recRetire c recAddr).cancelSettle)
      else .fault .noSuchEvent
    | none => .fault .noSuchEvent

/-! ## The save slot (R110, Table REG-2) -/

/-- What the core writes into a group's save slot, as stretches of bytes: reserved bytes and the stack above DEPTH are 0 (R5).
The bytes of registers that are not mapped are undefined: free values, of which `u` gives the one at a place from 0x900 on
(DESIGN CHOICE, log 2). -/
def Group.slotBytes (g : Group) (a : Nat) (u : Nat → Byte) : List (Nat × List Byte) :=
  let any := fun (o n : Nat) => (List.range n).map fun i => u (o - 0x900 + i)
  [(a + 0x180, pathBytes? g.slot0 ++ pathBytes? g.slot1 ++ leBytes 8 g.stack.length ++ leBytes 8 g.fflags ++
      leBytes 8 g.gstat ++ leBytes 8 (bitMap 64 g.mappedV) ++ leBytes 8 (bitMap 64 g.mappedG) ++ leBytes 8 0 ++
      ((List.range 32).map fun i => leBytes 4 (g.seq.getD i 0).toNat).flatten ++
      ((List.range 8).map fun i => leBytes 4 (g.p.getD i 0).toNat).flatten ++ leBytes 8 (bitMap 7 fun i => g.q.getD i false) ++
      leBytes 8 0 ++ ((List.range 8).map fun i => leBytes 8 (g.e.getD i 0).toNat).flatten ++
      ((List.range 16).map fun i => leBytes 16 (g.t.getD i 0).toNat).flatten ++ leBytes 8 g.b8fmt.toNat ++
      leBytes 8 g.trapnest.toNat ++ leBytes 8 g.lkgen.toNat ++ leBytes 0x28 0),
   (a + 0x400, ((List.range 16).map fun k => (g.toks.getD k {}).bytes).flatten ++
      padTo 0x400 (g.stack.map fun e => pathBytes e.clause e.index e.mask).flatten)] ++
  ((List.range 64).map fun n => (a + 0x900 + 8 * n, match (g.g[n]?).join with
    | some x => leBytes 8 x.toNat
    | none => any (0x900 + 8 * n) 8)) ++
  ((List.range 64).map fun n => (a + 0xB00 + 4 * n, match (g.v[n]?).join with
    | some r => leBytes 4 r.dead.toNat
    | none => any (0xB00 + 4 * n) 4)) ++
  ((List.range 64).map fun n => (a + 0xC00 + 128 * n, match (g.v[n]?).join with
    | some r => (r.val.map fun x => leBytes 4 x.toNat).flatten
    | none => any (0xC00 + 128 * n) 128))
/-- Write a group's save slot; a slot that cannot be written faults the context (R342). -/
def State.writeSlot (s : State) (b : Block) (g : Group) : State :=
  match s.ctx? b.ctx with
  | none => s
  | some c =>
    let bytes := g.slotBytes (slotAddr c b g.index) fun i => Config.freeByte (s.free + i)
    match State.vwriteAll { s with free := s.free + 0x2300 } c b.die b.core bytes with
    | some s => s
    | none => s.faultCtx b.ctx

/-! ## The register steward (R118, R119) -/

/-- Every result of a group has returned, also those of its checked waits (R57, R118; DEDUCED, log 61). -/
def Group.returnedAll (g : Group) : Bool := g.flights.all (·.arrived)
/-- A group that a steward may choose: resident, in no handler, of class below res and no target of a promotion to res. -/
def State.mayVictim (s : State) (b : Block) (g : Group) : Bool :=
  g.isResident && !s.frozen b && g.traps.isEmpty && !g.victim && s.curClass b < 2 && s.refClass b < 2
/-- Whether one group stands before another in the steward's choice: lowest class, within opt the most registers, then the
youngest. -/
def State.victimBefore (s : State) (x y : Block × Group) : Bool :=
  let cx := s.curClass x.1
  let cy := s.curClass y.1
  let hx := x.2.heldV + x.2.heldG
  let hy := y.2.heldV + y.2.heldG
  decide (cx < cy) || (cx == cy && (if cx = 0 && hx != hy then decide (hy < hx) else decide (y.2.age < x.2.age)))
/-- The steward's choice on a core. -/
def State.chooseVictim (s : State) (die core : Nat) : Option (Block × Group) :=
  ((s.onCore die core).flatMap fun b => (b.groups.filter (s.mayVictim b)).map fun g => (b, g)).foldl (fun best x =>
    match best with
    | none => some x
    | some y => if s.victimBefore x y then some x else some y) none
/-- The time of a block away from its core starts (R235). -/
def State.awayFrom (s : State) (blk : Nat) : State := s.updBlock blk fun b =>
  if b.st == .saved || b.groups.any (·.st == .spilled) then b else { b with since := s.ct }
/-- A block of which no group is away any more: the time counts towards its ageing, and it does not return first again. -/
def State.backAgain (s : State) (blk : Nat) : State := s.updBlock blk fun b =>
  if b.st == .saved || b.groups.any (·.st == .spilled) then b else { b with waited := b.waited + (s.ct - b.since), first := false }
/-- Whether a level of a block is cancelled. -/
def State.blockCancelled (s : State) (b : Block) : Bool := (s.ctx? b.ctx).any fun c => s.anyCancelled c b.lvl
/-- Spill a group: its registers go to its save slot, and their storage is free (R118). In a cancelled level it ends as by `exit`
(R318). -/
def State.spill (s : State) (b : Block) (g : Group) : State :=
  let s := ((s.awayFrom b.id).writeSlot b g).updGroup b.id g.index fun g =>
    { g with st := .spilled, slotNo := none, victim := false }
  if s.blockCancelled b then (s.markCancelled b).exitLanes b.id g.index allLanes else s
/-- Victims of a core that can be spilled now: alone, or with their whole block (R240). -/
def State.spillable (s : State) (die core : Nat) : Option (Block × List Group) :=
  (s.onCore die core).findSome? fun b =>
    let vs := b.groups.filter fun g => g.victim && g.isResident
    if vs.isEmpty || s.frozen b then none
    else if b.evict then (if vs.all (·.returnedAll) then some (b, vs) else none)
    else (vs.find? (·.returnedAll)).map fun g => (b, [g])
/-- The cc a steward has counted. -/
def State.stewardCount (s : State) (die core : Nat) : Nat := match s.stewards.find? (·.1 == (die, core)) with
  | some x => x.2
  | none => 0
def State.setSteward (s : State) (die core n : Nat) : State :=
  { s with stewards := ((die, core), n) :: s.stewards.filter (·.1 != (die, core)) }
/-- Whether a victim of a core's steward is not spilled yet. -/
def State.victimWaits (s : State) (die core : Nat) : Bool :=
  (s.onCore die core).any fun b => !s.frozen b && b.groups.any fun g => g.victim && g.isResident
/-- STEWARD_SPILL: a victim whose results have returned is spilled, and the count starts again; at a count of 64 a victim is
chosen (R118). -/
def execStewardSpill (c : CoreId) (s : State) : Out :=
  match s.spillable c.die c.core with
  | some (b, gs) =>
    let s := gs.foldl (fun s g => s.spill b g) s
    .next ((if b.evict then s else s.setSteward c.die c.core 0).updBlock b.id fun b => { b with evict := false })
  | none =>
    if s.stewardCount c.die c.core < 64 ∨ s.victimWaits c.die c.core then .fault .noSuchEvent
    else match s.chooseVictim c.die c.core with
      | none => .fault .noSuchEvent
      | some (b, g) => .next (s.updGroup b.id g.index fun g => { g with victim := true })

/-- Whether a spilled group can return: a slot, and in each pool room for what it saved plus 16 and for its reservation. -/
def State.canReturn (s : State) (b : Block) (g : Group) : Bool :=
  match s.kernel? b.kobj with
  | none => false
  | some k =>
    let r := s.reserve b k
    b.st != .saved && (nextSlot (s.slotsUsed b.die b.core)).isSome &&
      decide (s.poolUse b.die b.core (b.id, g.index) true + max (g.heldV + 16) r.1 ≤ 4096) &&
      decide (s.poolUse b.die b.core (b.id, g.index) false + max (g.heldG + 16) r.2 ≤ 4096)
/-- A path that goes on after its group came back: from the next cc. -/
def Group.restart (g : Group) (cc : Nat) : Group :=
  { g with slot0 := g.slot0.map fun p => { p with start := cc + 1 }, slot1 := g.slot1.map fun p => { p with start := cc + 1 } }
/-- Put a spilled group back into a slot. -/
def State.giveSlot (s : State) (b : Block) (gi : Nat) : State :=
  let slot := nextSlot (s.slotsUsed b.die b.core)
  s.updGroup b.id gi fun g => { g.restart s.cc with st := .resident, slotNo := slot }
/-- Whether a block returns before another: one that a check named while it was being spilled (R241), then by class (R119, R235),
then the greater of two keys, then the older. -/
def State.backBefore (s : State) (key : Block → Nat) (x y : Block) (ageX ageY : Nat) : Bool :=
  if x.first != y.first then x.first
  else if s.curClass x != s.curClass y then s.curClass y < s.curClass x
  else if key x != key y then key y < key x
  else ageX < ageY
/-- The effective priority of an evt block that is away: its time away counts like a wait for placement (R235). -/
def State.awayLevel (s : State) (b : Block) : Nat :=
  if s.curClass b = 1 then min 15 (b.prio + (b.waited + (s.ct - b.since)) / 1000000) else 0
/-- The spilled group of a core that returns next, of the contexts that run: by class, among evt groups by the effective priority of
R235, then the oldest (R119; DESIGN CHOICE, log 62); no opt group before the evt blocks of its context (R235). -/
def State.nextReturn (s : State) (die core : Nat) : Option (Block × Group) :=
  let xs := ((s.onCore die core).filter fun b =>
    (s.ctx? b.ctx).any (·.st == .running) && !(s.curClass b == 0 && s.evtAway b.ctx)).flatMap fun b =>
    (b.groups.filter fun g => g.st == .spilled).map fun g => (b, g)
  xs.foldl (fun best x => match best with
    | none => some x
    | some y => if s.backBefore s.awayLevel x.1 y.1 x.2.age y.2.age then some x else some y) none
/-- SPILL_RETURN: a spilled group returns (R119). -/
def execSpillReturn (blk grp : Nat) (s : State) : Out :=
  match s.block? blk with
  | none => .fault .noSuchEvent
  | some b => match b.groups[grp]? with
    | none => .fault .noSuchEvent
    | some g => if g.st = .spilled ∧ s.canReturn b g then .next ((s.giveSlot b grp).backAgain blk) else .fault .noSuchEvent

/-! ## Queues that stop (R350, R351, R358) -/

/-- The control block of a queue is written: the fields marked "device" (Table QUE-1). -/
def State.writeQcb (s : State) (q : UQueue) (st : Nat) : State :=
  match s.ctx? q.ctx with
  | none => s
  | some c =>
    let s := (s.vset c 0 0 (q.qcb + 0x0B) 1 st).vset c 0 0 (q.qcb + 0x0C) 1 q.errc
    let s := (s.vset c 0 0 (q.qcb + 0x10) 4 (q.head % 2 ^ 32)).vset c 0 0 (q.qcb + 0x18) 2 q.lseq
    ((s.vset c 0 0 (q.qcb + 0x1A) 2 (q.pseq % 65536)).vset c 0 0 (q.qcb + 0x20) 8 q.qtl).vset c 0 0 (q.qcb + 0x30) 8 q.errpc
def State.setUq (s : State) (q : UQueue) : State := { s with uqs := s.uqs.map fun x => if x.num = q.num then q else x }
/-- A queue is unmapped: it saves its control block first, and takes up no packet any more (SAVING, R351). `heir` is the queue
that takes its slot then. -/
def State.unmapQueue (s : State) (q : UQueue) (heir : Option Nat) : State :=
  let q := { q with st := .saving, heir := heir }
  (s.setUq q).writeQcb q 4
/-- A queue stops at a packet (R358). What its earlier SIGNAL packets wait for goes on. -/
def State.queueError (s : State) (q : UQueue) (errc addr : Nat) : State :=
  let s := { s with refs := s.refs.filter (·.queue != some q.num) }
  let q := { q with st := .error, errc := errc, errpc := addr, slot := none, pkt := none, hold := none, ibs := [], fault := none }
  ((s.setUq q).writeQcb q 5).settleRefs

/-! ## Promotion to res (R240, R241) -/

/-- Whether a block that is a target of a promotion to res is not resident under the res rules yet. -/
def State.wantsRes (s : State) (b : Block) : Bool := s.refClass b == 2 && max b.clsL b.implied < 2 && !b.resRes
/-- Whether its groups fit its core with their reservations at max-live. -/
def State.resFits (s : State) (b : Block) : Bool :=
  match s.kernel? b.kobj with
  | none => false
  | some k =>
    let gs := b.groups.filter fun g => g.isResident || g.st == .spilled
    let spilled := (gs.filter (·.st == .spilled)).length
    s.poolsFit b.die b.core k gs.length true b.id ((gs.map fun g => max g.heldV k.vmax).sum) ((gs.map fun g => max g.heldG k.gmax).sum) &&
      (takeSlots spilled (s.slotsUsed b.die b.core)).isSome
/-- The block of a core that is spilled whole to make room for another block: opt, not promoted, no target, most registers, then
the youngest. -/
def State.chooseEvict (s : State) (die core but : Nat) : Option Block :=
  let size := fun (x : Block) => ((x.groups.filter (·.isResident)).map fun g => g.heldV + g.heldG).sum
  ((s.onCore die core).filter fun x => x.id != but && s.curClass x == 0 && !x.evict &&
      x.groups.any (·.isResident) && x.groups.all (·.traps.isEmpty) && !s.frozen x &&
      !s.refs.any fun r => r.block == some x.id || r.covers x.ctx x.lvl x.jrec).foldl (fun best x => match best with
    | none => some x
    | some y => if size y < size x ∨ (size x = size y ∧ y.id < x.id) then some x else some y) none
/-- Whether an eviction on a core has begun. -/
def State.evicting (s : State) (die core : Nat) : Bool := (s.onCore die core).any (·.evict)
/-- Choose the next block of a core that makes room. -/
def State.evictOn (s : State) (die core but : Nat) : Option State :=
  if s.evicting die core then none
  else (s.chooseEvict die core but).map fun x => s.updBlock x.id fun x => { x with evict := true, groups := x.groups.map fun g =>
    if g.isResident then { g with victim := true } else g }
/-- Whether a saved block can be restored on a core: its groups that were resident become so again. Its context runs, or is being
switched in (R317); no opt block goes before an evt block of its context (R235). -/
def State.restorable (s : State) (b : Block) (die core : Nat) : Bool :=
  match s.ctx? b.ctx, s.kernel? b.kobj with
  | some c, some k =>
    let gs := b.groups.filter (·.st == .preempted false)
    b.st == .saved && (c.st == .running || (c.st == .switching && c.incoming)) && die == b.die &&
      !(s.curClass b == 0 && s.evtAway b.ctx) && s.hqFree die core (s.hqConfig b).1 b.hqLaunch &&
      s.coreFits die core k gs.length (s.curClass b == 2) b.clasps.length (if core = b.core then 0 else b.scratchLeft) b.id
        ((gs.map (·.heldV)).sum) ((gs.map (·.heldG)).sum)
  | _, _ => false
/-- The cores on which a saved block can be restored. -/
def State.restoreCores (s : State) (b : Block) : List Nat := (List.range 56).filter fun k => s.restorable b b.die k
/-- Whether a spill of a block has begun and goes on. -/
def Block.spilling (b : Block) : Bool := b.groups.any fun g => g.victim && g.isResident
/-- The effort to make a placed or saved target resident under the res rules (R240): a spill of it that has begun goes on to its
end first (R241); for a saved one the first core that could take it and has a block to spill makes room, its own before others. -/
def State.promoteBlock (s : State) (b : Block) : Option State :=
  if !s.wantsRes b then none
  else if b.st = .saved then
    (if !(s.restoreCores b).isEmpty ∨ s.blocks.any (·.evict) then none
     else (b.core :: (List.range 56).filter fun k => k != b.core && s.hqFree b.die k (s.hqConfig b).1 b.hqLaunch).findSome? fun k =>
       s.evictOn b.die k b.id)
  else if b.spilling then none
  else if s.resFits b then
    let s := (List.range b.groups.length).foldl (fun s gi => match s.group? b.id gi with
      | some g => if g.st = .spilled then s.giveSlot b gi else s
      | none => s) s
    some ((s.updBlock b.id fun b => { b with resRes := true }).backAgain b.id)
  else s.evictOn b.die b.core b.id
/-- The effort for an unplaced target: where no core can take its next block, the first core that has a block to spill makes room
(R240). -/
def State.promoteItem (s : State) (i : Item) : Option State :=
  match s.ctx? i.ctx, s.kernel? i.kobj with
  | some c, some k =>
    if s.itemRefs i < 2 ∨ i.own = 2 ∨ !s.mayPlace i c (i.shape k).1 ∨ !(s.coresFor i).isEmpty ∨
        s.blocks.any (·.evict) then none
    else (s.pkg.cores.filter fun x => s.mayTake i x && i.hdie.all (· == x.1)).findSome? fun x => s.evictOn x.1 x.2 s.uid
  | _, _ => none
/-- Whether the effort for a target of a promotion to res goes on at a core: it is there, or it is saved or waits for placement and the
core could take it. -/
def State.effortOn (s : State) (die core : Nat) : Bool :=
  s.blocks.any (fun b => s.wantsRes b && b.die == die && (s.ctx? b.ctx).any (·.st == .running) &&
    (b.core == core || (b.st == .saved && s.hqFree die core (s.hqConfig b).1 b.hqLaunch))) ||
  s.items.any fun i => s.itemRefs i == 2 && i.own != 2 && s.mayTake i (die, core) && i.hdie.all (· == die) &&
    match s.ctx? i.ctx, s.kernel? i.kobj with
    | some c, some k => s.mayPlace i c (i.shape k).1
    | _, _ => false
/-- The cores that take a saved block now: an opt block none at which such an effort goes on (DESIGN CHOICE, log 81). -/
def State.restoreNow (s : State) (b : Block) : List Nat :=
  if s.curClass b = 0 then (s.restoreCores b).filter fun k => !s.effortOn b.die k else s.restoreCores b
/-- PROMOTION_RESIDENT: the target becomes resident under the res rules, or the next block is chosen to make room (R240). The number
is that of a block or of an item that waits for placement. -/
def execPromotionResident (blk : Nat) (s : State) : Out :=
  match (s.block? blk).bind s.promoteBlock, (s.items.find? (·.id == blk)).bind s.promoteItem with
  | some s, _ | none, some s => .next s
  | none, none => .fault .noSuchEvent

/-- Whether everything that a reference is held on is resident under the res rules. -/
def State.refResident (s : State) (r : Ref) : Bool :=
  (s.blocks.all fun b => !(r.block == some b.id || r.covers b.ctx b.lvl b.jrec) || s.curClass b == 2) &&
    !s.items.any fun i => r.covers i.ctx i.lvl i.jrec && i.own < 2
/-- The context of a reference's waiter: a group's, a queue's, or that of the launch that depends on another. -/
def State.refCtx (s : State) (r : Ref) : Option Nat := match r.waiter with
  | some w => (s.block? w.blk).map (·.ctx)
  | none => match r.queue with
    | some q => (s.uqs.find? (·.num == q)).map (·.ctx)
    | none => r.launch.map (·.1)
/-- Whether a reference's context runs; while it does not, a budget pauses (R243). -/
def State.refRuns (s : State) (r : Ref) : Bool := (s.refCtx r).any fun n => (s.ctx? n).any (·.st == .running)
/-- The queue that a failed promotion stops, and the packet: the waiter's, or that of the GRAPH packet which took the dependence
up (R238, R362). -/
def State.refOwner (s : State) (r : Ref) : Option (UQueue × Nat) := match r.queue with
  | some q => (s.uqs.find? (·.num == q)).map fun u => (u, match u.pkt with | some p => p.2 | none => 0)
  | none => r.owner.bind fun o => (s.uqs.find? (·.num == o.1)).map fun u => (u, o.2)
/-- PROMOTION_BUDGET_EXPIRY: after 200,000 ct without residency the waiter takes WAIT_CLASS NO_ROOM (R241). A queue that waits
goes to ERROR with cause WAIT_CLASS (R238), from MAPPED_ACTIVE, the one state that leads there (R351). -/
def execPromotionBudgetExpiry (ref : Nat) (s : State) : Out :=
  match s.refs.find? (·.id == ref) with
  | none => .fault .noSuchEvent
  | some r => match r.budget with
    | none => .fault .noSuchEvent
    | some t =>
      if s.ct < t ∨ !s.refRuns r then .fault .noSuchEvent
      else if s.refResident r then
        .next { s with refs := s.refs.map fun x => if x.id = ref then { x with budget := none } else x }
      else
        let gone : State := { s with refs := s.refs.filter (·.id != ref) }
        match r.waiter.bind s.waiter?, r.waiter with
        | some x, some w => .next (s.waitFault w x.p x.on x.w (classFault 2 r.name r.detail))
        | _, _ => match s.refOwner r with
          | some (u, addr) =>
            if u.st = .error ∨ u.st = .destroyed then .next gone.settleRefs
            else if u.st = .active then .next (gone.queueError u 3 addr) else .fault .noSuchEvent
          | none => .next gone.settleRefs

/-! ## Pre-emption (R309, R315) -/

/-- Every group of a block ends as by `exit`, and its launch's record shows CANCELLED (R318). -/
def State.endGroups (s : State) (b : Block) : State :=
  (List.range b.groups.length).foldl (fun s gi => s.exitLanes b.id gi allLanes) (s.markCancelled b)
/-- Flush-and-restart: the block and what it holds are discarded, and a fresh block with the same index is placed; kernels retire
after that (R123). A block of a cancelled level ends instead (R318). -/
def State.flush (s : State) (b : Block) : State :=
  if s.blockCancelled b then s.endGroups b
  else
    let hq := s.hqConfig b
    let s := (List.range b.groups.length).foldl (fun s gi => s.groupEnded b.id gi) s
    ((s.depart b).addItem
      { id := 0, ctx := b.ctx, kobj := b.kobj, arg := b.arg, lrec := b.lrec, lvl := b.lvl, jrec := b.jrec, origin := b.origin,
        nblk := b.nblk, next := b.index, stop := b.index + 1, clsL := b.clsLaunch, prom := b.prom, prio := b.prio,
        hqEn := hq.1, hqCls := hq.2, launchNo := b.hqLaunch, ready := 0, level := 0, lanes := b.lanes, locket := none,
        hdie := none, spawnCore := none }).retireIdle
/-- Discard a block's groups and what it holds (R318, R349): its slots of the binding table are reset, its buffers freed. -/
def State.discard (s : State) (b : Block) : State :=
  ((List.range b.groups.length).foldl (fun s gi => s.groupEnded b.id gi) s).leave b
/-- Whether a block is flushed and restarted. -/
def State.flushable (s : State) (b : Block) : Bool :=
  (s.kernel? b.kobj).any (·.idem) && !b.side && b.groups.all (·.traps.isEmpty) && b.origin != .locket
/-- What keeps a block from being saved: a handler in its first 20,000 ct, a suspend that goes on (R289, R309), an access that
another package has not answered. -/
def Block.unsavable (b : Block) : Bool :=
  b.groups.any fun g => (g.isResident || g.st == .spilled) &&
    (g.traps.any (·.guarded) || g.suspends || g.flights.any fun f => !f.tags.isEmpty)
/-- Results in flight return before a group is saved, in the order of their completion. -/
def State.landAll (s : State) (blk gi : Nat) : State :=
  match s.group? blk gi with
  | none => s
  | some g => ((g.flights.filter (·.due.isSome)).foldr (insertBy fun x y => flightBefore (x.due.getD 0, x) (y.due.getD 0, y)) []).foldl (fun s f =>
      if f.poison.isSome then s.arrivePoison blk gi f.id else s.finish blk gi f) s
/-- Save a group: its state goes to its save slot, and it is PREEMPTED. -/
def State.saveGroup (s : State) (blk gi : Nat) : State :=
  let s := s.landAll blk gi
  match s.block? blk with
  | none => s
  | some b => match b.groups[gi]? with
    | none => s
    | some g =>
      if g.st = .resident ∨ g.st = .spilled then
        let was := g.st == .spilled
        (s.writeSlot b g).updGroup blk gi fun g => { g with st := .preempted was, slotNo := none, victim := false }
      else s
/-- The bytes of a BSTATE, whose layout is not published: free values (R345; DESIGN CHOICE, log 16). -/
def bstateBytes (n : Nat) : List Byte := (List.range 4096).map fun i => Config.freeByte (n + i)
/-- Whether a block's record still holds the BSTATE that its last save wrote (R345). -/
def State.bstateKept (s : State) (c : Ctx) (b : Block) : Bool := match b.bstate with
  | some n => (s.vread c b.die b.core (c.record b.recNo) 4096).1 == some (bstateBytes n)
  | none => true
/-- Write a block's BSTATE, the reserved bytes of its record, which are 0 (R5), and its bank; a record that cannot be written faults the context (R342, R345). -/
def State.saveRecord (s : State) (c : Ctx) (b : Block) : State :=
  let put := fun (s : State) (o : Nat) (bs : List Byte) => match s.vwrite c b.die b.core (c.record b.recNo + o) bs with
    | (some s, _) => s
    | (none, s) => s.faultCtx b.ctx
  let s := (put { s with free := s.free + 4096 } 0 (bstateBytes s.free)).updBlock b.id fun x => { x with bstate := some s.free }
  let s := put s 0x22040 (List.replicate 0xFC0 0)
  if b.mtx.bank.isSome then put s 0x2000 b.mtx.image else s
/-- Save a block (R315): running tasks stop at their boundaries, the bank is written, the copy context stops, and the block leaves
its slot; it keeps its name while it is saved. -/
def State.saveBlock (s : State) (b : Block) : State :=
  match s.ctx? b.ctx with
  | none => s
  | some c =>
    if !s.bstateKept c b then s.faultCtx b.ctx
    else
      let s := s.awayFrom b.id
      let s := (List.range b.groups.length).foldl (fun s gi => s.saveGroup b.id gi) s
      let s := (b.mtx.beads.filter fun (x : Bead) => x.st == BeadSt.running).foldl (fun (s : State) x =>
        s.stopBead c b x (s.beadW c b x.num).koff x.flags none) s
      let s := (s.saveRecord c b).nextBgen b.die b.core b.bslot
      let s := s.updBlock b.id fun x =>
        { x with st := .saved, evict := false, runTime := b.ran s.ct,
                 reqs := x.reqs.map fun (r : CopyReq) => { r with late := true },
                 mtx := { x.mtx with bank := none, stored := x.mtx.stored || x.mtx.bank.isSome } }
      if s.anyCancelled c b.lvl then s.endGroups b else s
/-- Save a block, now or as soon as nothing keeps it. -/
def State.saveOrWait (s : State) (b : Block) : State :=
  if b.unsavable then s.updBlock b.id fun b => { b with st := .stopping } else s.saveBlock b
/-- Steps 2 and 3 of R315. -/
def State.stopBlock (s : State) (b : Block) : State := if s.flushable b then s.flush b else s.saveOrWait b
/-- The estimate of a block's remaining time; none where no block of its launch has completed (R315). -/
def State.estimate (s : State) (b : Block) : Option Nat :=
  (s.launchMeans.find? fun x => x.1 == b.hqLaunch && x.2.1 != 0).map fun x => x.2.2 / x.2.1 - b.ran s.ct
/-- Whether a block has become res while its context runs: it is not pre-empted any more (R234). -/
def State.sparedRes (s : State) (b : Block) : Bool := s.curClass b == 2 && (s.ctx? b.ctx).any (·.st == .running)
/-- A block goes on as before it was chosen. -/
def State.goOn (s : State) (b : Block) : State := s.updBlock b.id fun b => { b with st := .running }
/-- PREEMPT_REQUEST: drain, flush and restart, or save (R315). A block that waits to be saved is saved, or goes on where it has
become res (R234). -/
def execPreemptRequest (blk : Nat) (s : State) : Out :=
  match s.block? blk with
  | none => .fault .noSuchEvent
  | some b =>
    if s.frozen b then .fault .noSuchEvent
    else if b.st = .stopping then
      (if s.sparedRes b then .next (s.goOn b) else if b.unsavable then .fault .noSuchEvent else .next (s.saveBlock b))
    else if b.st ≠ .running ∨ s.curClass b = 2 then .fault .noSuchEvent
    else match s.estimate b with
      | some t => if t < 10000 then .next (s.updBlock blk fun b => { b with st := .draining s.ct }) else .next (s.stopBlock b)
      | none => .next (s.stopBlock b)
/-- PREEMPT_DRAIN_TIMEOUT: a drained block has not exited 10 µs after the choice (R315). -/
def execPreemptDrainTimeout (blk : Nat) (s : State) : Out :=
  match s.block? blk with
  | none => .fault .noSuchEvent
  | some b => match b.st with
    | .draining t =>
      if s.frozen b then .fault .noSuchEvent
      else if s.sparedRes b then .next (s.goOn b)
      else if s.ct < t + 10000 then .fault .noSuchEvent
      else .next (s.stopBlock b)
    | _ => .fault .noSuchEvent

/-- A saved block enters a slot of a core: its own slot under its old name, where no other block has had the slot since; else
another, under that slot's name, and waits on the old name end (R166, R213; DESIGN CHOICE, log 8). Its launch's hardware queues
follow it to another core (R176). -/
def State.reseat (s : State) (b : Block) (core bslot : Nat) : State :=
  if core = b.core ∧ bslot = b.bslot ∧ s.bgenOf b.die b.core b.bslot = (b.bgen + 1) % 65536 then
    { s with bgens := ((b.die, b.core, b.bslot), b.bgen) :: s.bgens.filter (·.1 != (b.die, b.core, b.bslot)) }
  else
    let hq := s.hqConfig b
    let s := (s.nameGone b).updBlock b.id fun x =>
      { x with core := core, bslot := bslot, bgen := s.bgenOf b.die core bslot, oldNames := blockName b :: x.oldNames }
    (s.dropHqs b.hqLaunch b.die b.core).configHqs hq b.hqLaunch b.die core
/-- BLOCK_RESTORE: a saved block is restored on a core of its die, and its groups go on where they stood (R243, R315). -/
def execBlockRestore (blk : Nat) (core : CoreId) (s : State) : Out :=
  match s.block? blk with
  | none => .fault .noSuchEvent
  | some b =>
    if !s.restorable b core.die core.core then .fault .noSuchEvent
    else
      let own := core.core == b.core && !(s.onCore b.die b.core).any (·.bslot == b.bslot)
      match (if own then some b.bslot else s.freeBslot core.die core.core) with
      | none => .fault .noSuchEvent
      | some bslot =>
        let s := (s.reseat b core.core bslot).updBlock blk fun b => { b with st := .running, started := s.ct }
        let s := (List.range b.groups.length).foldl (fun s gi => match s.block? blk, s.group? blk gi with
          | some b, some g =>
            if g.st = .preempted false then s.giveSlot b gi
            else if g.st = .preempted true then s.updGroup blk gi fun g => { g with st := .spilled } else s
          | _, _ => s) s
        .next ((s.backAgain blk).updCtx b.ctx fun c => { c with restore := c.restore.filter (· != blk) })
/-- Whether the res blocks of a context that is switched in let a block be restored: they go first, in the order of their age
(R243). -/
def Ctx.letsBack (c : Ctx) (blk : Nat) : Bool := c.restore.isEmpty || (c.restore.contains blk && c.restore.all (blk ≤ ·))
/-- Saved blocks in the order of their return: the res blocks of a context that is switched in, by age (R243), then by class, among
evt blocks by the effective priority of R235, then by age (DESIGN CHOICE, log 62). -/
def State.returnOrder (s : State) : List Block :=
  let held := fun (b : Block) => (s.ctx? b.ctx).any fun c => c.restore.contains b.id
  let before := fun (x y : Block) =>
    if held x && held y then decide (x.id < y.id)
    else if held x != held y then held x
    else s.backBefore s.awayLevel x y x.id y.id
  (s.blocks.filter (·.st == .saved)).foldr (insertBy before) []

/-! ## Context switches (R243, R317, R342) -/

/-- Move the ends of a context's promotion budgets by a span of ct: remaining time out, ends again in (R243). -/
def State.shiftBudgets (s : State) (ctx : Nat) (f : Nat → Nat) : State :=
  { s with refs := s.refs.map fun (r : Ref) => if s.refCtx r = some ctx then { r with budget := r.budget.map f } else r }
/-- CONTEXT_SWITCH_OUT: placement and queues stop, the blocks are saved, the banks are written, and the context is SUSPENDED
once every queue and every block is saved (R317); a save area that fails leaves it FAULTED (R342). -/
def execContextSwitchOut (ctx : Nat) (s : State) : Out :=
  match s.ctx? ctx with
  | none => .fault .noSuchEvent
  | some c =>
    if c.st ≠ .running ∧ !(c.st = .switching ∧ !c.incoming) then .fault .noSuchEvent
    else
      let first := c.st == .running
      let s := if first then (s.shiftBudgets ctx (· - s.ct)).setCtxState ctx .switching else s
      let s := if first then s.uqs.foldl (fun s q => if q.ctx = ctx ∧ (q.st = .active ∨ q.st = .mappedIdle) then
        s.unmapQueue { q with again := true } none else s) s else s
      let ready := fun (b : Block) => b.ctx == ctx && b.st != .saved && (first || !b.unsavable)
      let due := s.blocks.filter ready
      let s := due.foldl (fun s b => if (s.ctx? ctx).any (·.st == .faulted) then s else s.saveOrWait b) s
      if (s.ctx? ctx).any (·.st == .faulted) then .next s
      else if s.blocks.all (fun b => b.ctx != ctx || b.st == .saved) ∧ s.uqs.all (fun q => q.ctx != ctx || q.st != .saving) then
        .next (s.setCtxState ctx .suspended)
      else if first ∨ !due.isEmpty then .next s else .fault .noSuchEvent
/-- Contexts that hold a context slot (R342). -/
def State.slotCtxs (s : State) : Nat := (s.ctxs.filter fun c => c.st == .running || c.st == .switching).length
/-- The queues of a context that had a slot when it was switched out are to be mapped again (R317). -/
def State.mapAgain (s : State) (ctx : Nat) : State :=
  { s with
    uqs := s.uqs.map fun (q : UQueue) =>
      if q.ctx = ctx ∧ q.again then { q with again := false, st := if q.st = .idle then .pending else q.st, pendSince := s.ct } else q
    inbox := .schedulerPass :: s.inbox }
/-- CONTEXT_SWITCH_IN: the context is SWITCHING while its saved blocks are restored, the res blocks before any other; once no
block is left that a core can take, it runs, its budgets go on, and its queues are mapped again (R243, R317, R342). -/
def execContextSwitchIn (ctx : Nat) (s : State) : Out :=
  match s.ctx? ctx with
  | none => .fault .noSuchEvent
  | some c =>
    if c.st = .switching ∧ c.incoming then
      (if !c.restore.isEmpty ∨ s.blocks.any (fun b => b.ctx == ctx && !(s.restoreNow b).isEmpty) then .fault .noSuchEvent
       else
         let s := (s.updCtx ctx fun c => { c with incoming := false }).setCtxState ctx .running
         .next ((s.shiftBudgets ctx (· + s.ct)).mapAgain ctx))
    else if (c.st ≠ .ready ∧ c.st ≠ .suspended) ∨ 64 ≤ s.slotCtxs then .fault .noSuchEvent
    else
      let res := (s.blocks.filter fun b => b.ctx == ctx && b.st == .saved && s.curClass b == 2).map (·.id)
      .next ((s.updCtx ctx fun c => { c with restore := res, incoming := true }).setCtxState ctx .switching)
/-- CONTEXT_FAULT: an unusable save area or a poisoned record; issue stops and the blocks stay as they are (R342). -/
def execContextFault (ctx : Nat) (s : State) : Out :=
  match s.ctx? ctx with
  | none => .fault .noSuchEvent
  | some c => if c.st = .running ∨ c.st = .suspended then .next (s.faultCtx ctx) else .fault .noSuchEvent

/-! ## Resume queues (R299 to R301) -/

/-- The locket at the head of a resume queue. -/
def State.rqHead (s : State) (c : Ctx) (q : ResumeQ) : Nat := s.vword c 0 0 (q.base + 8 * (q.head % 2 ^ q.logCap)) 8
/-- The ct by which a queue's service bound wants its head entry resumed. -/
def ResumeQ.limit (q : ResumeQ) : Option Nat := if q.bound = 0 then none else some (q.pushed.headD q.headSince + q.bound)
/-- What the front end finds when it resumes the head entry of a queue: a fault, or the block's item, with the state after the
claim (R292, R301). -/
def State.rqResume (s : State) (c : Ctx) (q : ResumeQ) : (Fault2 ⊕ Item) × State :=
  let la := s.rqHead c q
  if q.lrec % 64 ≠ 0 ∨ s.recHas c q.lrec 2 then (.inl (lkFault 0x0E la), s)
  else match s.claimLocket c 0 0 allLanes la with
    | (.inl f, s) => (.inl f, s)
    | (.inr (bs, k), s) =>
      (.inr { lkItem c la bs k q.lrec (s.levels c 8 q.lrec) q.prio s.uid (0, 0) q.limit with ready := q.pushed.headD s.ct }, s)
/-- Whether a locket of a context that has been claimed can be placed now: it goes before the next head entry of a queue. -/
def State.claimedFits (s : State) (ctx : Nat) : Bool :=
  s.items.any fun i => i.ctx == ctx && i.locket.isSome && !(s.coresFor i).isEmpty
/-- Whether the head entry of a queue is served now: the distributor can place its block, or it faults (R301; DESIGN CHOICE, log
64). -/
def State.rqReady (s : State) (c : Ctx) (q : ResumeQ) : Bool :=
  q.en && q.head != q.tail && !s.claimedFits c.num && match (s.rqResume c q).1 with
    | .inl _ => true
    | .inr i => s.anyCancelled c i.lvl || !(s.coresFor i).isEmpty
/-- The queue that the front end serves next: of those that can be served, the highest effective priority, then the lowest
number. -/
def State.nextResume (s : State) (c : Ctx) : Option Nat :=
  (List.range c.rqs.length).foldl (fun best i =>
    let q := c.rqs.getD i {}
    let better := match best with
      | none => true
      | some j => decide ((c.rqs.getD j {}).level s.ct < q.level s.ct)
    if better && s.rqReady c q then some i else best) none
/-- RESUME_QUEUE_SERVICE: the front end resumes the head entry; a fault drops it and is logged (R301). In a cancelled level nothing
is placed (R15). -/
def execResumeQueueService (ctx : Nat) (s : State) : Out :=
  match s.ctx? ctx with
  | none => .fault .noSuchEvent
  | some c => match s.nextResume c with
    | none => .fault .noSuchEvent
    | some i =>
      let q := c.rqs.getD i {}
      let la := s.rqHead c q
      let put := fun (s : State) (q : ResumeQ) => s.updCtx ctx fun c => { c with rqs := c.rqs.set i q }
      let q' : ResumeQ := { q with head := q.head + 1, headSince := s.ct, pushed := q.pushed.tail }
      match s.rqResume c q with
      | (.inl f, s) =>
        .next (((put s { q' with errCnt := min 65535 (q.errCnt + 1) }).stageCtx ctx).logEvent 1 ctx f.cause f.sub la 0)
      | (.inr x, s) =>
        let s := put s q'
        if s.anyCancelled c x.lvl then .next s
        else .next ((if q.lrec = 0 then s else s.recAdd c q.lrec 1).addItem x)

end Sys2Proof.Machine
end

