-- ==== Sys2Proof/Machine/Queue.lean ====
section
/-!
DEFINITION. The front end (R350 to R362, R364): kicks, the mapping of queues, packets, and the groups of work-graph nodes.
-/
namespace Sys2Proof.Machine
open Sys2Proof.Num

/-! ## Queues and kicks (R351 to R353) -/

def State.uq? (s : State) (n : Nat) : Option UQueue := s.uqs.find? fun q => q.num == n && q.st != .destroyed
/-- Change a queue. -/
def State.updUq (s : State) (n : Nat) (f : UQueue → UQueue) : State :=
  { s with uqs := s.uqs.map fun (q : UQueue) => if q.num = n ∧ q.st ≠ .destroyed then f q else q }
/-- Words from HEAD to a tail, modulo 2^32. -/
def UQueue.ahead (q : UQueue) (t : Nat) : Nat := (t + 2 ^ 32 - q.head % 2 ^ 32) % 2 ^ 32
/-- Whether a tail lies within the ring (R352). -/
def UQueue.tailOk (q : UQueue) (t : Nat) : Bool := q.ahead t ≤ 2 ^ (q.logsz - 3)
/-- Take a tail: kept where the tail held lies farther ahead. A queue with words left becomes pending or active. -/
def UQueue.takeTail (q : UQueue) (t ct : Nat) : UQueue :=
  let q := if q.ahead q.tail < q.ahead t then { q with tail := t } else q
  if q.tail = q.head then q
  else match q.st with
    | .idle => { q with st := .pending, pendSince := ct }
    | .mappedIdle => { q with st := .active, nextRead := 0, retry := 1000 }
    | _ => q
/-- KICK: a write to the doorbell page of a context (R352, R370). -/
def execKick (page : Nat) (value : W64) (s : State) : Out :=
  let x := value.toNat
  match s.uq? (x % 2 ^ 16) with
  | none => .next s
  | some q =>
    let sq := x / 2 ^ 16 % 2 ^ 16
    let t := x / 2 ^ 32
    let d := (sq + 2 ^ 16 - q.lseq) % 2 ^ 16
    if q.ctx ≠ page ∨ q.st = .error ∨ d = 0 ∨ 32767 < d ∨ !q.tailOk t then .next s
    else .next { (s.updUq q.num fun q => { q with lseq := sq }.takeTail t s.ct) with inbox := .schedulerPass :: s.inbox }
/-- The code of a queue's state (Table QUE-2). -/
def QState.code : QState → Nat
  | .idle => 0 | .pending => 1 | .active => 2 | .mappedIdle => 3 | .saving => 4 | .error => 5 | .destroyed => 6
/-- TAIL_RECONCILE: TAIL of mapped queues and of idle unmapped ones is applied like a kick's, and the fields marked "device" are
written (R350, R353). -/
def execTailReconcile (s : State) : Out :=
  if s.ct < s.lastReconcile + 100000 then .fault .noSuchEvent
  else
    let one := fun (s : State) (q : UQueue) =>
      if q.st = .active ∨ q.st = .mappedIdle ∨ q.st = .idle then match s.ctx? q.ctx with
        | some c =>
          let t := s.vword c 0 0 (q.qcb + 0x14) 4
          let q := if q.tailOk t then q.takeTail t s.ct else q
          (s.setUq q).writeQcb q q.st.code
        | none => s
      else s
    .next { s.uqs.foldl one s with lastReconcile := s.ct, inbox := .schedulerPass :: s.inbox }

/-! ## Mapping (R354) -/

/-- The effective priority of a pending queue. -/
def UQueue.level (q : UQueue) (ct : Nat) : Nat := min 15 (q.prio + (ct - q.pendSince) / 1000000)
/-- Pending queues whose context runs, in the order of step 2. -/
def State.nextPending (s : State) (skip : List Nat) : Option UQueue :=
  (s.uqs.filter fun q => q.st == .pending && !skip.contains q.num && (s.ctx? q.ctx).any (·.st == .running)).foldl
    (fun best q => match best with
      | none => some q
      | some b =>
        let lq := q.level s.ct
        let lb := b.level s.ct
        if lb < lq ∨ (lb = lq ∧ (q.pendSince < b.pendSince ∨ (q.pendSince = b.pendSince ∧ q.num < b.num))) then some q
        else some b) none
/-- The lowest free queue slot. -/
def State.freeQslot (s : State) : Option Nat := (List.range 256).find? fun k => !s.uqs.any (·.slot == some k)
/-- A mapped queue whose ring is drained and that holds no packet is idle (R351). -/
def UQueue.drained (q : UQueue) : UQueue :=
  if q.ibs.isEmpty ∧ q.pkt.isNone ∧ q.head = q.tail ∧ q.st = .active then { q with st := .mappedIdle } else q
/-- A queue gets a slot: its control block is loaded. Bits of it that are reserved, or that a queue may not change any more, are
ignored (DESIGN CHOICE, log 67, 74). -/
def State.mapQueue (s : State) (q : UQueue) (slot : Nat) : State :=
  match s.ctx? q.ctx with
  | none => s
  | some c =>
    let f := fun o n => s.vword c 0 0 (q.qcb + o) n
    let q := { q with st := .active, slot := some slot, heldSince := s.ct, rbase := f 0 8, logsz := f 8 1, prio := f 9 1 % 16,
                      cls := f 0x0A 1, bound := f 0x28 8, nextRead := 0, retry := 1000, heir := none }
    let q := q.drained
    (s.setUq q).writeQcb q q.st.code
/-- Step 2: free slots go to pending queues. -/
def State.fillSlots (s : State) : Nat → State
  | 0 => s
  | n + 1 => match s.freeQslot, s.nextPending [] with
    | some k, some q => State.fillSlots (s.mapQueue q k) n
    | _, _ => s
/-- The mapped queue that a pending one displaces: lowest PRIO, longest held, lowest slot; `done` are never victims. -/
def State.victimQueue (s : State) (p : UQueue) (done : List Nat) : Option UQueue :=
  let lv := p.level s.ct
  let key := fun (q : UQueue) => (q.prio, q.heldSince, q.slot.getD 0)
  (s.uqs.filter fun q => (q.st == .active || q.st == .mappedIdle) && !done.contains q.num &&
      (decide (q.prio < lv) || (lv == 15 && decide (q.heldSince + 1000000 ≤ s.ct)))).foldl (fun best q => match best with
    | none => some q
    | some b =>
      let x := key q
      let y := key b
      if x.1 < y.1 ∨ (x.1 = y.1 ∧ (x.2.1 < y.2.1 ∨ (x.2.1 = y.2.1 ∧ x.2.2 < y.2.2))) then some q else some b) none
/-- Step 3: pending queues displace mapped ones. -/
def State.displace (s : State) : Nat → List Nat → List Nat → State
  | 0, _, _ => s
  | n + 1, seen, done => match s.nextPending seen with
    | none => s
    | some p => match s.victimQueue p done with
      | none => State.displace s n (p.num :: seen) done
      | some m => State.displace (s.unmapQueue m (some p.num)) n (p.num :: m.num :: seen) (p.num :: m.num :: done)
/-- A queue's control block has been written: its slot is free, and goes to the queue that displaced it (R351, R354). A queue
without words left waits for a kick, also one that holds a packet or a buffer. -/
def State.queueSaved (s : State) (q : UQueue) : State :=
  let q' := { q with st := if q.tail != q.head then .pending else .idle, slot := none, heir := none, pendSince := s.ct }
  let s := (s.setUq q').writeQcb q' q'.st.code
  match q.heir.bind s.uq?, q.slot with
  | some p, some k => if p.st = .pending ∧ (s.ctx? p.ctx).any (·.st == .running) then s.mapQueue p k else s
  | _, _ => s
/-- Step 1: every idle mapped queue is unmapped; its control block is written in the pass, so that step 2 finds its slot free. -/
def State.unmapIdle (s : State) : State :=
  s.uqs.foldl (fun s q => if q.st = .mappedIdle then (s.unmapQueue q none).queueSaved { q with st := .saving, heir := none } else s) s
/-- SCHEDULER_PASS: a pass every 1 ms; on a wake, free slots are filled (R354). -/
def execSchedulerPass (s : State) : Out :=
  if s.ct < s.lastPass + 1000000 then .next (s.fillSlots 256)
  else
    let before := (s.uqs.filter (·.slot.isSome)).map (·.num)
    let s := s.unmapIdle.fillSlots 256
    let fresh := (s.uqs.filter fun q => q.slot.isSome && !before.contains q.num).map (·.num)
    .next { s.displace 512 [] fresh with lastPass := s.ct }

/-! ## Packets (R355 to R358) -/

/-- Address of word i of a packet: in the ring, or linear in a buffer (R350). -/
def UQueue.wordAt (q : UQueue) (addr i : Nat) : Nat :=
  if q.ibs.isEmpty then q.rbase + (addr - q.rbase + 8 * i) % 2 ^ q.logsz else addr + 8 * i
/-- Read bytes of a ring or a buffer: the bytes, or how the read fails. -/
def State.feRead (s : State) (c : Ctx) (a n : Nat) : Miss ⊕ List Byte := match s.reach c 0 0 a n .read with
  | (.inr ps, s) => .inr (s.readPieces ps).1.1
  | (.inl m, _) => .inl m
/-- Read n words of a packet. -/
def State.pktBytes (s : State) (c : Ctx) (q : UQueue) (addr i : Nat) : Nat → Miss ⊕ List Byte
  | 0 => .inr []
  | n + 1 => match s.feRead c (q.wordAt addr i) 8 with
    | .inl m => .inl m
    | .inr bs => match State.pktBytes s c q addr (i + 1) n with
      | .inl m => .inl m
      | .inr rest => .inr (bs ++ rest)
/-- A read of the packet at an address has failed: a page fault waits for the page service, any other failure stops the queue at
once (R358; DESIGN CHOICE, log 67). -/
def State.readFails (s : State) (q : UQueue) (addr : Nat) (m : Miss) : State :=
  if m.cause = 8 then s.updUq q.num fun q => { q with fault := some m.va } else s.queueError q 4 addr
/-- The address at which a queue stands: its packet, or where the next header lies. -/
def UQueue.here (q : UQueue) : Nat := match q.pkt, q.ibs with
  | some p, _ => p.2
  | none, (a, _) :: _ => a
  | none, [] => q.rbase + 8 * q.head % 2 ^ q.logsz
/-- Buffers that end here are left (R357). -/
def popIbs : List (Nat × Nat) → List (Nat × Nat)
  | [] => []
  | (a, e) :: r => if e ≤ a then popIbs r else (a, e) :: r
/-- The packet is over: the queue goes on to the next, or is drained (R351). -/
def State.packetDone (s : State) (n : Nat) : State :=
  let s := State.settleRefs { s with refs := s.refs.filter (·.queue != some n) }
  s.updUq n fun q =>
    { q with pkt := none, hold := none, ibs := popIbs q.ibs }.drained
/-- LEN of a packet type: whether it is in range (Table QUE-6). -/
def lenOk (typ len : Nat) : Bool := match typ with
  | 0 => 1 ≤ len | 1 => len == 7 | 2 => 4 ≤ len | 3 => 3 ≤ len | 4 => len == 3 | 5 => len == 3 | 6 => len == 2 | _ => len == 3
/-- Read the header where the queue stands, and take the packet up (R355). -/
def State.takePacket (s : State) (q : UQueue) : Out :=
  let inBuf := !q.ibs.isEmpty
  let addr := q.here
  let later := fun (s : State) =>
    Host.Outcome.next (s.updUq q.num fun q => { q with nextRead := s.ct + q.retry, retry := min 64000 (2 * q.retry) })
  match s.ctx? q.ctx with
  | none => .fault .noSuchEvent
  | some c => match s.feRead c addr 8 with
    | .inl m => .next (s.readFails q addr m)
    | .inr bs =>
      let seq := fieldAt bs 0 2
      let typ := fieldAt bs 2 1
      let flags := fieldAt bs 3 1
      let len := fieldAt bs 4 2
      if !inBuf ∧ seq ≠ q.pseq then later s
      else
        let last := typ == 1 || typ == 2
        let tooLong := match q.ibs with | (a, e) :: _ => decide (e < a + 8 * len) | [] => decide (2 ^ (q.logsz - 3) < len)
        if (inBuf && seq != 0) || decide (7 < typ) || fieldAt bs 6 2 != 0 || decide (4 ≤ flags) || (flags != 0 && !last)
            || !lenOk typ len || tooLong then
          .next (s.queueError q 1 addr)
        else .next (s.updUq q.num fun q =>
          let q := { q with pkt := some (typ, addr), nextRead := 0, retry := 1000 }
          match q.ibs with
          | (a, e) :: r => { q with ibs := (a + 8 * len, e) :: r }
          | [] => { q with head := (q.head + len) % 2 ^ 32, pseq := (q.pseq + 1) % 65536 })
/-- PACKET_TAKEUP: the first read of a header; PACKET_HEADER_RETRY: a read after the delay (R355). -/
def execPacketTakeup (n : Nat) (s : State) : Out :=
  match s.uq? n with
  | some q =>
    if q.st = .active ∧ q.pkt.isNone ∧ q.fault.isNone ∧ q.nextRead = 0 ∧ (q.head ≠ q.tail ∨ !q.ibs.isEmpty) then s.takePacket q
    else .fault .noSuchEvent
  | none => .fault .noSuchEvent
def execPacketHeaderRetry (n : Nat) (s : State) : Out :=
  match s.uq? n with
  | some q =>
    if q.st = .active ∧ q.pkt.isNone ∧ q.fault.isNone ∧ q.nextRead ≠ 0 ∧ q.nextRead ≤ s.ct ∧ (q.head ≠ q.tail ∨ !q.ibs.isEmpty) then
      s.takePacket q
    else .fault .noSuchEvent
  | none => .fault .noSuchEvent

/-- The packet of a type that a queue has taken up, with its bytes; one that cannot be read stops the queue. -/
def State.packet (s : State) (n typ : Nat) (k : UQueue → Ctx → Nat → List Byte → Out) : Out :=
  match s.uq? n with
  | none => .fault .noSuchEvent
  | some q => match s.ctx? q.ctx, q.pkt with
    | some c, some (t, addr) =>
      if t ≠ typ ∨ q.fault.isSome then .fault .noSuchEvent
      else
        -- the header again gives LEN; ibs stand after the packet, so a buffer's words are linear from its address
        (match s.feRead c addr 8 with
          | .inl m => .next (s.readFails q addr m)
          | .inr h => match s.pktBytes c q addr 0 (max 1 (fieldAt h 4 2)) with
            | .inl m => .next (s.readFails q addr m)
            | .inr bs => k q c addr bs)
    | _, _ => .fault .noSuchEvent

/-! ## Classes counted in records (R238, R361) -/

/-- Count a launched class in a record and the records around it. -/
def State.countClass (s : State) (c : Ctx) (cls : Nat) (prom : Bool) (records : List Nat) : State :=
  records.foldl (fun s r =>
    let p := s.phaseFor c.num r
    s.setPhase { p with cls := some (match p.cls with | some k => min k cls | none => cls), prom := p.prom && prom }) s
/-- The target that a record is for a wait of KIND 10: the lowest launched class counted in it; where none is, the waiter's. -/
def State.recordTarget (s : State) (c : Ctx) (r own : Nat) : Target :=
  match s.phase? c.num r with
  | some { cls := some k, prom := prom, .. } =>
    { kind := 10, cls := k, clsL := k, prom := prom, name := r, launch := some (c.num, r) }
  | _ => { kind := 10, cls := own, clsL := own, name := r }
/-- Hold a queue at its packet until a record is DONE: the check, and the reference (R238). -/
def State.holdQueue (s : State) (q : UQueue) (c : Ctx) (addr r : Nat) : Out :=
  let t := s.recordTarget c r q.cls
  match t.fault q.cls with
  | some _ => .next (s.queueError q 3 addr)
  | none => .next ((s.hold none (some q.num) q.cls t).updUq q.num fun q => { q with hold := some r })
/-- A packet of a phase goes on once the phase's PREV is DONE: the hold, or `k` (R361). The hold is checked when the packet is
taken up, also where PREV is DONE by then (R238). -/
def State.phaseGo (s : State) (q : UQueue) (c : Ctx) (addr phase : Nat) (k : State → Out) : Out :=
  let prev := if phase = 0 then 0 else s.recGet c phase 0x18 8
  if prev = 0 then k s
  else match q.hold with
    | some _ => if s.recHas c prev 2 then k s else .fault .noSuchEvent
    | none =>
      if ((s.recordTarget c prev q.cls).fault q.cls).isSome then .next (s.queueError q 3 addr)
      else if s.recHas c prev 2 then k s
      else s.holdQueue q c addr prev
/-- A member joins its phase: its COUNT, its job's at the first member, CLOSED at the last (R361). -/
def State.joinPhase (s : State) (c : Ctx) (phase : Nat) (lastl lastp : Bool) : State :=
  if phase = 0 then s
  else
    let job := s.recGet c phase 0x10 8
    let first := (s.phase? c.num phase).all (·.isDone)
    let s := (s.setPhase (s.phaseFor c.num phase)).recAdd c phase 1
    let s := if first ∧ job ≠ 0 then s.recAdd c job 1 else s
    let s := if lastl then s.recMark c phase 1 else s
    if lastp ∧ job ≠ 0 then s.recMark c job 1 else s

/-! ## The packets (Table QUE-6) -/

/-- NOP packet. -/
def execNopPacket (n : Nat) (s : State) : Out := s.packet n 0 fun _ _ _ _ => .next (s.packetDone n)
/-- LAUNCH packet (R359, R361). -/
def execLaunch (n : Nat) (s : State) : Out :=
  s.packet n 1 fun q c addr bs =>
    let l := LBody.ofBytes (bs.drop 8)
    let fl := fieldAt bs 3 1
    if l.lrec % 64 ≠ 0 ∨ l.phrec % 64 ≠ 0 then .next (s.queueError q 1 addr)
    else s.phaseGo q c addr l.phrec fun s =>
      let s := s.joinPhase c l.phrec (fl % 2 == 1) (fl / 2 % 2 == 1)
      let s := s.updUq n fun q => { q with works := q.works ++ [.record l.lrec] }
      match s.launchCheck c l with
      | .inr code => .next (((s.recSet c l.lrec 0x25 1 code).recFinish c l.lrec 16).packetDone n)
      | .inl k =>
        let lvl := (s.levels c 8 l.lrec ++ s.levels c 8 l.phrec).eraseDups
        let s := s.countClass c (l.clsFor k) (l.promFor k) lvl
        if s.anyCancelled c lvl then .next ((s.recFinish c l.lrec 4).packetDone n)
        else .next ((s.enqueueLaunch c l k .launch l.phrec q.bound).packetDone n)

/-- The class and promotable flag of a TCB's launch, and its record; none where the launch would be refused, since then only that
launch is (R359). -/
def State.tcbClass (s : State) (c : Ctx) (t : Nat) : Option (Nat × Bool × Nat) :=
  match (s.vread c 0 0 (t + 0x10) 48).1 with
  | none => none
  | some bs =>
    let l := LBody.ofBytes bs
    match s.launchCheck c l with
    | .inl k => some (l.clsFor k, l.promFor k, l.lrec)
    | .inr _ => none
/-- The dependences of a TCB's successors on it: waits of KIND 10 of their launches on its own, with their classes (R362). -/
def State.tcbEdges (s : State) (c : Ctx) (t : Nat) : List (Target × Nat) :=
  match s.tcbClass c t with
  | none => []
  | some (cls, prom, lr) =>
    let succ := s.vword c 0 0 (t + 8) 8
    let tg : Target := { kind := 10, cls := cls, clsL := cls, prom := prom, name := lr, launch := some (c.num, lr) }
    (List.range (s.vword c 0 0 (t + 4) 2)).filterMap fun i =>
      (s.tcbClass c (s.vword c 0 0 (succ + 8 * i) 8)).map fun w => (tg, w.1)
/-- GRAPH packet (R362). -/
def execGraph (n : Nat) (s : State) : Out :=
  s.packet n 2 fun q c addr bs =>
    let gr := fieldAt bs 8 8
    let cnt := fieldAt bs 16 8
    let fl := fieldAt bs 3 1
    let tcbs := (List.range cnt).map fun i => fieldAt bs (24 + 8 * i) 8
    if cnt = 0 ∨ 65532 < cnt ∨ fieldAt bs 4 2 ≠ 3 + cnt ∨ gr % 64 ≠ 0 ∨ tcbs.any (· % 64 != 0) then .next (s.queueError q 1 addr)
    else
      let phase := s.recGet c gr 0x10 8
      let edges := tcbs.flatMap (s.tcbEdges c)
      if edges.any fun x => (x.1.fault x.2).isSome then .next (s.queueError q 3 addr)
      else s.phaseGo q c addr phase fun s =>
        let s := s.joinPhase c phase (fl % 2 == 1) (fl / 2 % 2 == 1)
        let s := s.updUq n fun q => { q with works := q.works ++ [.record gr] }
        let s := s.setPhase { s.phaseFor c.num gr with bound := q.bound }
        let s := tcbs.foldl (fun s t => match s.tcbClass c t with
          | some (cls, prom, lr) => s.countClass c cls prom (lr :: s.levels c 8 gr).eraseDups
          | none => s) s
        let s := (s.recSet c gr 0 8 cnt).recMark c gr 1
        if s.anyCancelled c (s.levels c 8 gr) then .next ((s.recFinish c gr 4).packetDone n)
        else
          let s := edges.foldl (fun s x => s.hold none none x.2 x.1 (some (n, addr)) gr) s
          let (s, ds) := tcbs.foldl (fun (acc : State × List Nat) t =>
            if acc.1.vword c 0 0 t 4 = 0 then let (s, d) := acc.1.queueTcb c t gr; (s, acc.2 ++ d) else acc) (s, [])
          .next ((s.settleRecs c settleFuel ds []).packetDone n)
/-- RECORD packet: as N `emit` records in order; it waits while the node has no room (R364). -/
def execRecord (n : Nat) (s : State) : Out :=
  s.packet n 3 fun q c addr bs =>
    let desc := fieldAt bs 8 8
    let cnt := fieldAt bs 16 8
    if cnt = 0 ∨ 1024 < cnt ∨ fieldAt bs 4 2 < 3 + (cnt + 1) / 2 ∨ desc % 64 ≠ 0 then .next (s.queueError q 1 addr)
    else match s.feRead c desc 64 with
      | .inl m => .next (s.readFails q addr m)
      | .inr d =>
        if (NodeDesc.ofBytes d).bad then .next (s.queueError q 1 addr)
        else if 1024 < s.nodeHeld q.ctx desc + cnt then .fault .noSuchEvent
        else
          let s := s.nodeAppend q.ctx desc ((List.range cnt).map fun i => BitVec.ofNat 32 (fieldAt bs (24 + 4 * i) 4))
          let work := Work.node desc (s.nodeNext q.ctx desc)
          .next ((s.updUq n fun q => { q with works := q.works ++ [work] }).packetDone n)
/-- CALL_IB packet (R357). -/
def execCallIb (n : Nat) (s : State) : Out :=
  s.packet n 4 fun q _ addr bs =>
    let a := fieldAt bs 8 8
    if a % 8 ≠ 0 then .next (s.queueError q 1 addr)
    else if 4 ≤ q.ibs.length then .next (s.queueError q 2 addr)
    else .next ((s.updUq n fun q => { q with ibs := (a, a + 8 * fieldAt bs 16 8) :: q.ibs }).packetDone n)
/-- Whether work of a packet has completed: its record is DONE; or groups have taken a node's records up to a number, and no group
that took earlier ones goes on. -/
def State.workDone (s : State) (c : Ctx) : Work → Bool
  | .record r => s.recHas c r 2
  | .node desc upto => match s.node? c.num desc with
    | some x => decide (upto ≤ x.taken) && x.busy.all fun b => decide (upto ≤ b.2)
    | none => true
/-- SIGNAL packet: the signal waits for the work of the packets before it (R356). -/
def execSignal (n : Nat) (s : State) : Out :=
  s.packet n 5 fun q c addr bs =>
    if 1 < fieldAt bs 16 8 then .next (s.queueError q 1 addr)
    else
      let ws := q.works.filter fun w => !s.workDone c w
      .next ((s.updUq n fun q => { q with works := ws, sigs := q.sigs ++ [(fieldAt bs 8 8, fieldAt bs 16 1 == 1, ws)] }).packetDone n)
/-- The first signal of a queue whose work is done. -/
def State.sigDue (s : State) (q : UQueue) : Option Nat := match s.ctx? q.ctx with
  | some c => (List.range q.sigs.length).find? fun i => ((q.sigs.getD i (0, false, [])).2.2).all (s.workDone c)
  | none => none
/-- QTL_ADVANCE: the work before a signal has completed (R356). -/
def execQtlAdvance (n : Nat) (s : State) : Out :=
  match s.uq? n with
  | none => .fault .noSuchEvent
  | some q => match s.sigDue q with
    | none => .fault .noSuchEvent
    | some i => .next (s.updUq n fun q =>
        { q with qtl := max q.qtl (q.sigs.getD i (0, false, [])).1, sigs := q.sigs.eraseIdx i })
/-- WAIT packet: a checked wait of KIND 10 until the record is DONE (R356). -/
def execWaitPacket (n : Nat) (s : State) : Out :=
  s.packet n 6 fun q c addr bs =>
    let r := fieldAt bs 8 8
    if r % 64 ≠ 0 then .next (s.queueError q 1 addr)
    else match q.hold with
      | some r => if s.recHas c r 2 then .next (s.packetDone n) else .fault .noSuchEvent
      | none => match (s.recordTarget c r q.cls).fault q.cls with
        | some _ => .next (s.queueError q 3 addr)
        | none => if s.recHas c r 2 then .next (s.packetDone n) else s.holdQueue q c addr r
/-- LOCKET_PUSH packet (R300, R356): a push to a queue that is not enabled or full changes nothing. -/
def execLocketPush (n : Nat) (s : State) : Out :=
  s.packet n 7 fun q c addr bs =>
    let la := fieldAt bs 8 8
    let k := fieldAt bs 16 8
    if la % 128 ≠ 0 ∨ 15 < k then .next (s.queueError q 1 addr)
    else match s.pushResume c 0 0 allLanes la k with
      | .inl _ => .next (s.packetDone n)
      | .inr s => .next (s.packetDone n)

/-! ## Node groups (R364) -/

/-- The lowest free buffer of a node. -/
def Node.freeBuf (x : Node) (nbuf : Nat) : Option Nat := (List.range nbuf).find? fun i => !x.busy.any (·.1 == i)
/-- Start a group of a node on its oldest records: none without a free buffer. For a kernel that takes no work, or in a cancelled
level, nothing is placed (R15). -/
def State.startBatch (s : State) (x : Node) : Option State :=
  match s.ctx? x.ctx with
  | none => none
  | some c => match (s.vread c 0 0 x.desc 64).1 with
    | none => none
    | some bs =>
      let d := NodeDesc.ofBytes bs
      (x.freeBuf d.nbuf).map fun buf =>
        let n := min 32 x.recs.length
        let a := d.batch + 128 * buf
        let s := match s.vwrite c 0 0 a (((x.recs.take n).map fun r => leBytes 4 r.1.toNat).flatten) with
          | (some s, _) => s
          | (none, s) => s
        let left := { x with recs := x.recs.drop n, taken := x.taken + n }
        let lvl := s.levels c 8 d.lrec
        match s.kernelFor x.ctx d.kobj, s.anyCancelled c lvl with
        | .inl k, false =>
          let s := s.setNode { left with busy := (buf, x.taken) :: x.busy }
          let s := if d.lrec = 0 then s else s.recAdd c d.lrec 1
          s.addItem
            { id := 0, ctx := x.ctx, kobj := k.kobj, arg := BitVec.ofNat 64 a, lrec := d.lrec, lvl := lvl, jrec := 0,
              origin := .node x.desc buf, nblk := 1, next := 0, stop := 1, clsL := min d.cls c.ceil, prom := d.prom,
              prio := d.prio, hqEn := 0, hqCls := 0, launchNo := s.uid, ready := 0, level := 0,
              lanes := maskOf (· < n), locket := none, hdie := none, spawnCore := none }
        | _, _ => s.setNode left
/-- The node's TIMER. -/
def State.nodeTimer (s : State) (x : Node) : Nat := match s.ctx? x.ctx with
  | some c => match (s.vread c 0 0 x.desc 64).1 with
    | some bs => (NodeDesc.ofBytes bs).timer
    | none => 4000
  | none => 4000
/-- NODE_BATCH_FULL: 32 records have gathered at a node, which the list of nodes numbers. -/
def execNodeBatchFull (node : Nat) (s : State) : Out :=
  match s.nodes[node]? with
  | none => .fault .noSuchEvent
  | some x =>
    if x.recs.length < 32 then .fault .noSuchEvent
    else match s.startBatch x with | some s => .next s | none => .fault .noSuchEvent
/-- NODE_BATCH_TIMER: TIMER ct have passed since the first record of a partial batch. -/
def execNodeBatchTimer (node : Nat) (s : State) : Out :=
  match s.nodes[node]? with
  | none => .fault .noSuchEvent
  | some x =>
    if x.recs.isEmpty ∨ 32 ≤ x.recs.length ∨ s.ct < (x.recs.headD (0, 0)).2 + s.nodeTimer x then .fault .noSuchEvent
    else match s.startBatch x with | some s => .next s | none => .fault .noSuchEvent

end Sys2Proof.Machine
end

