-- ==== Sys2Proof/Machine/Service.lean ====
section
/-!
DEFINITION. The services of firmware around memory: the page service (R228, R277, R334), migration (R338, R339), memory errors
(R160), and fatal errors (R393).
-/
namespace Sys2Proof.Machine

/-! ## The page service (R334) -/

/-- The template of the first-touch window of a context that holds an address. -/
def Ctx.touch (c : Ctx) (va : Nat) : Option Nat :=
  (c.ftws.find? fun w => w.len != 0 && decide (w.base ≤ va) && decide (va < w.base + w.len)).map (·.template.toNat)
/-- Serve a fault from the first-touch windows, or not: it passes to the host outside the windows, under a template whose V is 0, and
on EMPTY, which leaves the tables installed that were made on the way (R336). -/
def State.touchPage (s : State) (c : Ctx) (die va : Nat) : Bool × State :=
  match c.touch va with
  | none => (false, s)
  | some t =>
    if t % 2 = 0 then (false, s)
    else let (st, s) := s.mapPage c die va t; (st != 2, s)
/-- The fault that an engine request or a queue waits on: the die, the context and the address. -/
def State.engFault (s : State) : EngReq → Option (Nat × Ctx × Nat)
  | .copy blk id => match s.req? blk id with
    | some (b, c, r) => if r.st = .faulted then r.fail.map fun x => (b.die, c, x.2) else none
    | none => none
  | .task blk bead => match s.bead? blk bead with
    | some (b, c, x) => x.fault.map fun a => (b.die, c, a)
    | none => none
  | .queue n => match s.uq? n with
    | some q => match s.ctx? q.ctx, q.fault with
      | some c, some a => some (0, c, a)
      | _, _ => none
    | none => none
/-- The page is mapped, and the request goes on (R228, R277, R358). -/
def State.engResume (s : State) : EngReq → Out
  | .copy blk id => execCopyPageResume blk id s
  | .task blk bead => execTaskPageRestart blk bead s
  | .queue n => .next (s.updUq n fun q => { q with fault := none })
/-- The host refuses the fault: the request fails with PAGE (R228, R275), the queue stops with FAULT (R358). -/
def State.engRefuse (s : State) (addr : Nat) : EngReq → Out
  | .copy blk id => match s.req? blk id with
    | some (_, _, r) => .next (s.finishCopy blk r (some (6, addr)))
    | none => .fault .noSuchEvent
  | .task blk bead => execTaskHalt blk bead 7 s
  | .queue n => match s.uq? n with
    | some q =>
      let t := s.updUq n fun q => { q with fault := none }
      .next (if q.st = .active then t.queueError q 4 q.here else t)
    | none => .fault .noSuchEvent
/-- PAGE_SERVICE: the fault of a copy request, a task or a queue is served from the windows, else by the host (R334). -/
def execPageService (what : EngReq) (hostRefuses : Bool) (s : State) : Out :=
  match s.engFault what with
  | none => .fault .noSuchEvent
  | some (die, c, addr) => match s.touchPage c die addr with
    | (true, s) => s.engResume what
    | (false, s) => if hostRefuses then (s.logEvent 7 c.num 0x08 4 addr 0).engRefuse addr what else s.engResume what

/-! ## Migration (R338, R339) -/

/-- The controller of an address: an HBM die or a CXL port. -/
def State.controller (s : State) (pa : Nat) : Option Region := match s.pkg.region pa with
  | some (.hbm d) => some (.hbm d)
  | some (.cxl p) => some (.cxl p)
  | _ => none
/-- The entries of leaves in a table of a level and in those below it. -/
def State.leafEntries (s : State) : Nat → Nat → List Nat
  | 0, _ => []
  | n + 1, table => (List.range 512).flatMap fun i =>
    let pa := table + 8 * i
    let e := s.phys pa 8
    if e % 2 = 0 then []
    else if e / 2 % 2 = 1 then [pa]
    else if e - leafFrame e = 1 then State.leafEntries s n (leafFrame e) else []
/-- The entries of every context whose page shares bytes with a range of frames. -/
def State.leavesOf (s : State) (base size : Nat) : List Nat :=
  (s.ctxs.flatMap fun c => s.leafEntries 5 c.ptroot).eraseDups.filter fun pa =>
    let e := s.phys pa 8
    decide (leafFrame e < base + size) && decide (base < leafFrame e + 2 ^ pageLog (leafSize e))
/-- Whether the page of an entry lies in a range of frames. -/
def State.leafIn (s : State) (base size pa : Nat) : Bool :=
  let e := s.phys pa 8
  e % 4 == 3 && decide (base ≤ leafFrame e) && decide (leafFrame e + 2 ^ pageLog (leafSize e) ≤ base + size)
/-- Set or clear MIG in an entry (Table PAG-2). -/
def withMig (e : Nat) (mig : Bool) : Nat := e - 512 * (e / 512 % 2) + (if mig then 512 else 0)
/-- Rewrite the entries that still name pages of a range, each by one compare-and-swap (R339). -/
def State.casLeaves (s : State) (base size : Nat) (new : Nat → Nat) (entries : List Nat) : State :=
  entries.foldl (fun s pa => if s.leafIn base size pa then s.writeEntry pa (new (s.phys pa 8)) else s) s
/-- Whether some page with frames in a range is in SPLITTING, or FREED and not yet invalidated (R331). -/
def State.splitting (s : State) (base size : Nat) : Bool := s.pages.any fun p =>
  decide (p.frame < base + size) && decide (base < p.frame + p.bytes) && !(s.ctx? p.ctx).any (s.isMapped · p)
/-- MIGRATION_OPEN: a record for a frame range, at its home; firmware sets MIG in the leaves that name its pages (R331, R338,
R339). A range that holds a page only in part is not migrated, and no page that is being split. -/
def execMigrationOpen (base size : Nat) (s : State) : Out :=
  match s.controller base with
  | none => .fault .noSuchEvent
  | some h =>
    if size = 0 ∨ base % 4096 ≠ 0 ∨ size % 4096 ≠ 0 ∨ s.controller (base + size - 1) ≠ some h ∨
        64 ≤ (s.migs.filter fun m => s.controller m.base == some h).length ∨ s.splitting base size ∨
        s.migs.any (fun m => decide (m.base < base + size) && decide (base < m.base + m.size)) ∨
        !(s.leavesOf base size).all (s.leafIn base size) then .fault .noSuchEvent
    else
      let entries := s.leavesOf base size
      let s : State := { s with migs := s.migs ++ [{ base := base, size := size, leaves := entries }] }
      .next (s.casLeaves base size (withMig · true) entries)
/-- Move the bytes of a range, with their keys and poison, as firmware's copy of step 2 left them (R339); the writes count at a record
that is OPEN there (R338). -/
def State.copyRange (s : State) (base size dst : Nat) : State :=
  let inR := fun (b a : Nat) => decide (b ≤ a) && decide (a < b + size)
  let s := s.countRange dst size
  let kept := s.mem.filter fun x => !inR dst x.1
  { s with
    mem := (s.mem.filter fun x => inR base x.1).foldl (fun m x => Memory.write m (dst + (x.1 - base)) x.2) kept
    granKey := (s.granKey.filter fun x => !inR dst (64 * x.1)) ++
      ((s.granKey.filter fun x => inR base (64 * x.1)).map fun x => ((dst + (64 * x.1 - base)) / 64, x.2))
    poison := (s.poison.filter fun g => !inR dst (64 * g)) ++
      ((s.poison.filter fun g => inR base (64 * g)).map fun g => (dst + (64 * g - base)) / 64) }
/-- A page whose frame lies in a range that has moved. -/
def PageRec.moved (p : PageRec) (base size dst : Nat) : PageRec :=
  if base ≤ p.frame ∧ p.frame < base + size then { p with frame := dst + (p.frame - base) } else p
/-- MIGRATION_COMMIT: with WVER 0 the record enters FORWARD, and firmware writes the leaves to the new frame, with MIG cleared;
else the record closes, MIG is cleared, and the new frame is dirty (R331, R339). A new frame that shares bytes with the old one, or with
a range whose accesses go elsewhere, is none. -/
def execMigrationCommit (base newBase : Nat) (s : State) : Out :=
  match s.migs.find? fun m => m.base == base && m.newBase == none with
  | none => .fault .noSuchEvent
  | some m =>
    if (s.controller newBase).isNone ∨ s.controller (newBase + m.size - 1) ≠ s.controller newBase ∨ newBase % 4096 ≠ 0 ∨
        s.migs.any (fun x => (x.newBase.isSome || x.base == base) && decide (x.base < newBase + m.size) &&
          decide (newBase < x.base + x.size)) then .fault .noSuchEvent
    else if m.wver = 0 then
      let s := s.copyRange base m.size newBase
      let s : State := { s with
        migs := s.migs.map fun (x : Mig) => if x.base = base then { x with newBase := some newBase } else x
        pages := s.pages.map (·.moved base m.size newBase) }
      .next (s.casLeaves base m.size (fun e => withMig e false - base + newBase) m.leaves)
    else
      let s : State := { s with migs := s.migs.filter (·.base != base) }
      .next ((s.casLeaves base m.size (withMig · false) m.leaves).soil newBase m.size)
/-- MIGRATION_CLOSE: the invalidation drops what the TLBs hold of the old frames (step 5; accesses through them have reached the
record), the record closes, and the old frame is dirty (R339). -/
def execMigrationClose (base : Nat) (s : State) : Out :=
  match s.migs.find? fun m => m.base == base && m.newBase != none with
  | none => .fault .noSuchEvent
  | some m =>
    let stale := fun (t : TlbEnt) => decide (leafFrame t.leaf.toNat < base + m.size) &&
      decide (base < leafFrame t.leaf.toNat + 2 ^ t.logSize)
    .next (State.soil { s with migs := s.migs.filter (·.base != base), tlb := s.tlb.filter (!stale ·) } base m.size)

/-! ## Fatal errors and memory errors (R160, R391, R393) -/

/-- The reserved bytes at the top of die 0's HBM (R393). -/
def dumpBase : Nat := 2 ^ 36 - 2 ^ 28
def State.setMaster (s : State) (m : MasterSt) : State :=
  { s with masters := s.masters.map fun x => if x.who = m.who then m else x }
/-- A feature of the owner's active set. -/
def State.ownerHas (s : State) (bit : Nat) : Bool := match s.owner with
  | some m => (s.master m).active.getLsbD bit
  | none => false
/-- A FATAL error of a cause: the dies stop, the header of the dump is written when FDUMP is active, and BOOTSTAT says so
(R393). How many bytes follow the header is a free value. -/
def State.fatal (s : State) (cause : Nat) : State :=
  let s := if s.ownerHas 4 then
      let hdr := leBytes 4 0x504D4456 ++ leBytes 4 cause ++ leBytes 8 s.ct ++ leBytes 4 (2 ^ s.pkg.dies - 1) ++
        leBytes 4 (Config.choose s.free % (2 ^ 28 - 63)) ++ leBytes 40 0
      ({ s with free := s.free + 1 }).writePhys none dumpBase hdr
    else s
  { s with bootstat := 3 }
/-- A die's error counter goes up (R391). -/
def countAt (d : Nat) (xs : List Nat) : List Nat := xs.set d (sat64 (xs.getD d 0))
/-- The die whose counters count an error of an address: its own in HBM; of the second tier, one that the device chooses (R160; DESIGN
CHOICE, log 88: no rule says which). -/
def State.dieOf (s : State) (addr : Nat) : Option (Nat × State) := match s.controller addr with
  | some (.hbm d) => some (d, s)
  | some _ => some (s.pick (List.range s.pkg.dies))
  | none => none
/-- MEMORY_ERROR: a corrected error is counted, of memory or of a cache, a scratchpad or a queue of a die; an uncorrectable one poisons
the granule, of memory, of a scratchpad buffer or of a hardware queue; one in a context table or in firmware state is fatal (R160, R391,
R393). -/
def execMemoryError (addr : Nat) (kind : MemErr) (s : State) : Out :=
  match kind with
  | .corrected => match s.dieOf addr with
    | some (d, s) => .next { s with ceCnt := countAt d s.ceCnt }
    | none => .fault .noSuchEvent
  | .correctedOn die => if die < s.pkg.dies then .next { s with ceCnt := countAt die s.ceCnt } else .fault .noSuchEvent
  | .uncorrectable => match s.dieOf addr with
    | some (d, t) => if s.poison.contains (addr / 64) then .next s
      else .next { t with poisCnt := countAt d t.poisCnt, poison := addr / 64 :: t.poison }
    | none => .fault .noSuchEvent
  | .scratchpad die slice index g =>
    match s.bufs.find? fun u => u.die == die && u.slice == slice && u.index == index && u.st != .free with
    | some u =>
      if u.size ≤ 64 * g ∨ u.poison.contains g then .fault .noSuchEvent
      else .next { s.setBuf { u with poison := g :: u.poison } with poisCnt := countAt die s.poisCnt }
    | none => .fault .noSuchEvent
  | .hwQueue die core num g =>
    match s.hqs.find? fun q => q.die == die && q.core == core && q.num == num with
    | some q =>
      if 64 ≤ g ∨ q.poison.contains g then .fault .noSuchEvent
      else .next { s with hqs := s.hqs.map fun (x : HQueue) =>
                            if x.die = die ∧ x.core = core ∧ x.num = num then { x with poison := g :: x.poison } else x
                          poisCnt := countAt die s.poisCnt }
    | none => .fault .noSuchEvent
  | .contextTable | .firmware => .next (s.fatal 1)

end Sys2Proof.Machine
end

