-- ==== Sys2Proof/Machine/Link.lean ====
section
/-!
DEFINITION. The link (R369 to R380): host accesses, the second tier's ports, Grenaro ports and flits, and what arrives for
windows from other packages.
-/
namespace Sys2Proof.Machine
open Sys2Proof.Num

/-! ## The host port and the second tier (R371, R372) -/

/-- HOST_MEMORY_ACCESS: a host agent reads or writes memory: coherently through CXL.mem, which reaches HBM, or by plain PCIe
requests; host memory is the host's own, whether or not the device uses CXL.cache (R371, R386). A host access carries no key. -/
def execHostMemoryAccess (coherent : Bool) (pa len : Nat) (wr : Option (List Byte)) (s : State) : Out :=
  let ok := fun (a : Nat) => match s.pkg.region a with
    | some (.hbm _) => true
    | some (.cxl _) => !coherent && s.uses 1
    | some .host => true
    | _ => false
  let n := match wr with | some bs => bs.length | none => len
  if n = 0 ∨ !ok pa ∨ !ok (pa + n - 1) then .fault .noSuchEvent
  else match wr with
    | some bs => .next (s.writePhys none pa bs)
    | none => .next s
/-- CXL_PORT_DOWN (R372). -/
def execCxlPortDown (port : Nat) (s : State) : Out :=
  if s.pkg.cxlPorts ≤ port then .fault .noSuchEvent
  else .next { s with cxlDown := if s.cxlDown.contains port then s.cxlDown else port :: s.cxlDown }

/-! ## Port states (R373, R375) -/

/-- The code of a port state in the event log (Table PLT-12). -/
def PState.code : PState → Nat
  | .down => 0 | .training => 1 | .up => 2 | .degraded => 3 | .retrain => 4 | .failed => 5
def PState.active (p : PState) : Bool := p == .up || p == .degraded
def State.port? (s : State) (n : Nat) : Option Port := if n < s.pkg.ports then s.ports[n]? else none
/-- Flits leave on active ports, or wait for one (R375). -/
def State.sendAll (s : State) (fs : List Flit) : State := fs.foldl State.send s
/-- Send the flits of a replay buffer again on the other active ports; what is left where no other is active (R375). -/
def State.resend (s : State) : List Flit → State × List Flit
  | [] => (s, [])
  | f :: fs => match s.pickPort with
    | (none, s) => (s, f :: fs)
    | (some i, s) => State.resend (s.sendOn i f) fs
/-- What a port holds that another may send: a NAK is the port's own (R374; DEDUCED, log 45). -/
def Port.held (p : Port) : List Flit := p.replay.filter (!·.nak)
/-- What a port does with flits as it enters a state: one that leaves UP or DEGRADED has its replay buffer sent on other active
ports, and holds what none takes; one that is FAILED hands on all it holds; one that becomes active numbers its flits from 0
(DESIGN CHOICE, log 71) and sends what it held, what other ports hold that are not active, and what waited for a port (R375). -/
def State.handOver (s : State) (n : Nat) (was : PState) : State := match s.ports[n]? with
  | none => s
  | some p =>
    let bare := fun (p : Port) => { p with replay := [], out := [], txSeq := 0, rxSeq := 0 }
    if p.st.active then
      let kept := p.held ++ (s.ports.mapIdx fun i q => if i = n ∨ q.st.active then [] else q.held).flatten ++ s.unsent
      let ports := s.ports.mapIdx fun i q => if i = n then bare q else if q.st.active then q else { q with replay := [], out := [] }
      State.sendAll { s with ports := ports, unsent := [] } kept
    else if p.st = .failed then { s with ports := s.ports.set n (bare p) }.sendAll p.held
    else if was.active then
      let (s, left) := s.resend p.held
      { s with ports := s.ports.set n { p with replay := left, out := [] } }
    else s
/-- A port enters a state: the change is logged, and the time without an active port is kept (R375, R391). -/
def State.portTo (s : State) (n : Nat) (p : Port) (st : PState) : State :=
  let s := { s with ports := s.ports.set n { p with st := st, since := s.ct } }
  let s := s.logEvent 3 0xFFFF 0 0 n (n + 256 * p.st.code + 65536 * st.code)
  let s := s.handOver n p.st
  { s with linkDown := if s.activePort then none else match s.linkDown with | some t => some t | none => some s.ct }
/-- An event of a port in one of some states. -/
def State.portEvent (s : State) (n : Nat) (from' : List PState) (k : Port → Out) : Out :=
  match s.port? n with
  | none => .fault .noSuchEvent
  | some p => if from'.contains p.st then k p else .fault .noSuchEvent

def execPortEnable (port : Nat) (s : State) : Out :=
  s.portEvent port [.down] fun p => .next (s.portTo port p .training)
/-- Plane 0 has reported the package number: ports whose planes have reported another are FAILED (R373). -/
def State.numberPackage (s : State) (pkg : Nat) : State :=
  (List.range s.ports.length).foldl (fun s n => match s.port? n with
    | some p => if n != 0 && p.st.active && p.peer != some pkg then s.portTo n p .failed else s
    | none => s) { s with pkgNo := pkg }
/-- What plane 0 has reported. -/
def State.plane0 (s : State) : Option Nat := match s.ports[0]? with | some p => p.peer | none => none
/-- TRAINING_END: with lanes trained the port is UP or DEGRADED; the package number comes from plane 0, and a plane that reports
another fails the port (R373, Table LNK-3). -/
def execTrainingEnd (port lanes pkg : Nat) (s : State) : Out :=
  s.portEvent port [.training] fun p =>
    if lanes = 0 ∨ 4 < lanes ∨ 1024 ≤ pkg then .fault .noSuchEvent
    else
      let p := { p with peer := some pkg }
      if port ≠ 0 ∧ s.plane0 ≠ none ∧ s.plane0 ≠ some pkg then .next (s.portTo port p .failed)
      else
        let n := if lanes = 4 then 4 else if lanes = 1 then 1 else 2
        let s := s.portTo port { p with lanes := n, failures := 0 } (if lanes = 4 then .up else .degraded)
        .next (if port = 0 then s.numberPackage pkg else s)
/-- TRAINING_TIMEOUT: 100 ms without a trained lane. -/
def execTrainingTimeout (port : Nat) (s : State) : Out :=
  s.portEvent port [.training] fun p =>
    if s.ct < p.since + 100000000 then .fault .noSuchEvent
    else .next (s.portTo port { p with failures := p.failures + 1 } (if p.failures + 1 < 3 then .down else .failed))
/-- The replays of a port in the last 1 ms. -/
def Port.recent (p : Port) (ct : Nat) : List Nat := p.replays.filter fun t => decide (ct < t + 1000000)
/-- PORT_RETRAIN: after a lost lane or more than 64 replays within 1 ms, RETRAIN, and from it TRAINING at once. -/
def execPortRetrain (what : Retrain) (s : State) : Out :=
  s.portEvent what.port [.up, .degraded] fun p =>
    if !what.laneLost ∧ (p.recent s.ct).length ≤ 64 then .fault .noSuchEvent
    else
      let s := s.portTo what.port { p with replays := [] } .retrain
      match s.ports[what.port]? with
      | some p => .next (s.portTo what.port p .training)
      | none => .next s
def execPortDisable (port : Nat) (s : State) : Out :=
  s.portEvent port [.down, .training, .up, .degraded, .retrain, .failed] fun p => .next (s.portTo port p .failed)
def execPortReset (port : Nat) (s : State) : Out :=
  s.portEvent port [.failed] fun p => .next (s.portTo port { p with failures := 0 } .down)

/-! ## Flits (R374) -/

/-- A replay buffer after the acknowledgement of a sequence number. -/
def acked (ack : Nat) (replay : List Flit) : List Flit := match replay.findIdx? (·.seq == ack) with
  | some i => replay.drop (i + 1)
  | none => replay
/-- A flit as a port sends it once more: it acknowledges what the port has received since, and a NAK that has had its answer is an
idle flit (DEDUCED, log 45). -/
def Port.again (p : Port) (f : Flit) : Flit := { f with nak := false, ack := (p.rxSeq + 4095) % 4096 }
/-- An answer to a request of an engine. -/
def tagAnswer (tags : List (Nat × Nat × Nat)) (tag : Nat) (bs : List Byte) (bad : Bool) :
    List (Nat × Nat × Nat) × List (Nat × List Byte × Bool) :=
  (tags.filter (·.1 != tag), (tags.filter fun x => x.1 == tag && x.2.2 != 0).map fun x => (x.2.1, bs.take x.2.2, bad))
def CopyReq.answer (cc tag : Nat) (bs : List Byte) (bad : Bool) (r : CopyReq) : CopyReq :=
  if !r.tags.any (·.1 == tag) then r
  else
    let (left, new) := tagAnswer r.tags tag bs bad
    { r with tags := left, got := r.got ++ new, due := dueAfter cc left }
def Bead.answer (cc tag : Nat) (bs : List Byte) (bad : Bool) (x : Bead) : Bead :=
  if !x.tags.any (·.1 == tag) then x
  else
    let (left, new) := tagAnswer x.tags tag bs bad
    { x with tags := left, got := x.got ++ new, due := dueAfter cc left }
/-- The target of a request has answered it: the bytes that it gives, perhaps poisoned (R379). Bytes that an answer lacks, as one of an
access that was not admitted does, are free values (DESIGN CHOICE, log 21). -/
def State.answered (s : State) (tag : Nat) (bs : List Byte) (bad : Bool) : State :=
  let (pad, s) := s.freeBytes (64 - bs.length)
  let bs := bs ++ pad
  { s with blocks := s.blocks.map fun b => { b with
      reqs := b.reqs.map (·.answer s.cc tag bs bad)
      mtx := { b.mtx with beads := b.mtx.beads.map (·.answer s.cc tag bs bad) }
      groups := b.groups.map fun g => { g with flights := g.flights.map (·.answer s.cc tag bs bad) } } }
/-- Operations that wait for another package end where the link has failed: reads and atomics with POISON, a copy request and a task
read poison, and what has not left is not written (R375). -/
def State.failAsked (s : State) : State :=
  { s with
    unsent := s.unsent.filter (·.kind != 3)
    ports := s.ports.map fun p => { p with replay := p.replay.filter (·.kind != 3), out := p.out.filter (·.kind != 3) }
    blocks := s.blocks.map fun b => { b with
      reqs := b.reqs.map fun (r : CopyReq) => if r.tags.isEmpty then r else { r with tags := [], due := some (s.cc + 1), lost := true }
      mtx := { b.mtx with beads := b.mtx.beads.map fun (x : Bead) => if x.tags.isEmpty then x else
        { x with tags := [], due := some (s.cc + 1), lost := true } }
      groups := b.groups.map fun g => { g with flights := g.flights.map (·.unanswered s.cc) } } }

/-- FLIT_RECEIVE: a flit out of order, or that fails its check, is discarded with a NAK; else it is delivered, and what it
acknowledges leaves the replay buffer or is sent again (R374). A response ends its request with the bytes it carries (R379). What a
delivered flit carries to a window arrives by the events PUT_DELIVERY, PUT_ACKNOWLEDGEMENT and APERTURE_ACCESS. -/
def execFlitReceive (port : Nat) (f : Flit) (s : State) : Out :=
  s.portEvent port [.up, .degraded] fun p =>
    if !f.ok ∨ f.seq ≠ p.rxSeq then .next (s.sendOn port { s.flit 0 f.src 0 [] with nak := true, ack := p.rxSeq })
    else
      let p := { p with rxSeq := (p.rxSeq + 1) % 4096, freed := if f.kind = 0 then p.freed else p.freed + 1 }
      let p := if f.nak then
          let left := (acked ((f.ack + 4095) % 4096) p.replay).map p.again
          { p with replay := left, out := p.out ++ left, replays := s.ct :: p.recent s.ct }
        else { p with replay := acked f.ack p.replay }
      let s := { s with ports := s.ports.set port p }
      .next (if f.kind = 4 then s.answered f.tag f.payload.tail ((f.payload.headD 0).getLsbD 0) else s)

/-! ## Windows (R376 to R379) -/

/-- Put n of an import window fails after its bytes have left: both counters pass it, and its block records the failure (R228,
R377). -/
def State.putFailed (s : State) (w : Win) (n reason : Nat) : State :=
  let own := w.owners.find? (·.1 == n)
  let toff := match own with | some (_, _, _, o) => o | none => 0
  let s := match own with
    | some (_, blk, v, o) => s.updBlock blk fun b => { b with failv := insertFail (v, reason, o) b.failv, cpFail := b.cpFail + 1 }
    | none => s
  let w' := w.tgtDone' n
  let w' := if n ≤ w.wsrc ∨ w.srcDone.contains n then w' else w'.srcDone' n
  s.setWin { w' with fails := insertFail (n, reason, toff) w'.fails }
/-- PUT_LINK_TIMEOUT: no active port for 10 ms. A put that has not left, or that its target has not acknowledged, fails with
reason LINK, and its flits that wait for a port go; accesses end with POISON, and their writes are discarded (R375). -/
def execPutLinkTimeout (what : LinkFail) (n : Nat) (s : State) : Out :=
  if !s.linkFailed then .fault .noSuchEvent
  else match what with
  | .request blk => match s.req? blk n with
    | some (_, _, r) =>
      if r.op ≠ 13 ∨ r.st ≠ .moving then .fault .noSuchEvent
      else .next (s.finishCopy blk r (some (8, bits (r.q.getD 1 0).toNat 63 16)))
    | none => .fault .noSuchEvent
  | .window ctx win => match s.win? ctx win with
    | some w =>
      if !w.owners.any (·.1 == n) ∨ !(decide (n ≤ w.wsrc) || w.srcDone.contains n) then .fault .noSuchEvent
      else
        let other := fun (f : Flit) => !((f.kind == 1 || f.kind == 2) && f.dest == w.peer && f.tag == n % 65536)
        let s : State := { s with
          unsent := s.unsent.filter other
          ports := s.ports.map fun p => { p with replay := p.replay.filter other, out := p.out.filter other } }
        .next (s.putFailed w n 8)
    | none => .fault .noSuchEvent
  | .accesses =>
    if s.blocks.any fun b => b.reqs.any (fun r => !r.tags.isEmpty) || b.mtx.beads.any (fun x => !x.tags.isEmpty) ||
        b.groups.any fun g => g.flights.any fun f => !f.tags.isEmpty
    then .next s.failAsked else .fault .noSuchEvent

/-- How the page service of a target answers for the bytes of a put: they can be written; it refuses a fault; or the host has not
mapped a page yet. -/
inductive Span
  | ok (s : State)
  | refused (s : State)
  | waits
/-- Make the pages of a span of a context writable for a put: a missing page is served from the first-touch windows, else by
the host (R334, R378). -/
def State.openSpan (s : State) (c : Ctx) (hostRefuses : Bool) : List (Nat × Nat) → Span
  | [] => .ok s
  | (a, n) :: rest => match s.reach c 0 0 a n .write 9 with
    | (.inr _, s) => State.openSpan s c hostRefuses rest
    | (.inl m, s) =>
      if m.cause ≠ 8 then .refused s
      else match s.touchPage c 0 m.va with
        | (false, s) => if hostRefuses then .refused (s.logEvent 7 c.num 0x08 4 m.va 0) else .waits
        | (true, s) => match s.reach c 0 0 a n .write 9 with
          | (.inr _, s) => State.openSpan s c hostRefuses rest
          | (.inl _, _) => .refused s
/-- The registered export window of a number, where windows are used (R386). -/
def State.export? (s : State) (exp : Nat) : Option Win :=
  if s.uses 2 then s.wins.find? fun w => w.kind == 1 && w.exp == exp else none
/-- A delivery acknowledgement with the put's tag leaves for a package; the payload says whether the put was refused. -/
def State.sendAck (s : State) (dest tag : Nat) (refused : Bool) : State := s.send (s.flit 5 dest tag [if refused then 1 else 0])
/-- Whether a package may reach bytes of an export window. -/
def Win.admits (w : Win) (src off n : Nat) : Bool := (w.peer == 0xFFFF || w.peer == src) && decide (off + n ≤ w.size)
/-- Write bytes over pieces with their poison (R160, R227). -/
def State.writeMarked (s : State) (ps : List Piece) (bs : List (Byte × Bool)) : State :=
  let (phys, s) := s.writeLanding ps bs
  s.markPoison phys
/-- Write what a put delivers, with its poison, or refuse it (R227, R378). -/
def State.deliver (s : State) (src exp toff : Nat) (bytes : List (Byte × Bool)) (hostRefuses : Bool) : Span :=
  match s.export? exp with
  | none => .refused s
  | some w =>
    if !w.admits src toff bytes.length then .refused s
    else match s.ctx? w.ctx with
      | none => .refused s
      | some c => match s.openSpan c hostRefuses (pagesOf (bytes.length / 4096 + 2) (w.base + toff) bytes.length) with
        | .ok s => match s.reach c 0 0 (w.base + toff) bytes.length .write 9 with
          | (.inr ps, s) => .ok ((s.writeMarked ps bytes).setWin { w with wtgt := w.wtgt + 1 })
          | (.inl _, s) => .refused s
        | x => x
/-- PUT_DELIVERY: the target writes a put's bytes, advances the export WTGT and acknowledges; or it refuses the whole put
(R378). It does neither before the host has served the page faults that pass to it. -/
def execPutDelivery (src exp toff : Nat) (p : Delivery) (s : State) : Out :=
  match s.deliver src exp toff p.bytes p.hostRefuses with
  | .ok s => .next (s.sendAck src p.tag false)
  | .refused s => .next (s.sendAck src p.tag true)
  | .waits => .fault .noSuchEvent
/-- PUT_ACKNOWLEDGEMENT: the target has delivered put n of an import window, or refused it, and then it fails with reason
REMOTE (R377, R378). -/
def execPutAcknowledgement (ctx win n : Nat) (refused : Bool) (s : State) : Out :=
  match s.win? ctx win with
  | none => .fault .noSuchEvent
  | some w =>
    if w.kind ≠ 2 ∨ n = 0 ∨ w.puts < n ∨ n ≤ w.wtgt ∨ w.tgtDone.contains n then .fault .noSuchEvent
    else .next (if refused then s.putFailed w n 7 else s.setWin (w.tgtDone' n))
/-- The response to an access request, with the request's tag: whether its data is poisoned, and its bytes (DESIGN CHOICE,
log 21). -/
def State.respond (s : State) (dest tag : Nat) (bad : Bool) (bs : List Byte) : State :=
  s.send (s.flit 4 dest tag ((if bad then 1 else 0) :: bs))
/-- How an access reaches memory. -/
def apKind : ApAccess → Acs
  | .read _ => .read
  | .write _ => .write
  | .atomic _ _ _ _ => .both
def apLen : ApAccess → Nat
  | .read n => n
  | .write bs => bs.length
  | .atomic _ n _ _ => n
/-- Perform an access at its pieces: what it answers. An atomic on poisoned bytes modifies nothing (R160, R162). -/
def State.perform (s : State) (ps : List Piece) : ApAccess → (Bool × List Byte) × State
  | .read _ => let ((bs, bad), s) := s.readPieces ps; ((bad, bs), s)
  | .write bs => ((false, []), s.writeMarked ps bs)
  | .atomic op n x y =>
    let ((bs, bad), s) := s.readPieces ps
    ((bad, bs), if bad then s else s.writePieces ps (leBytes n (amNew op (8 * n) (leVal bs) x y).1))
/-- APERTURE_ACCESS: an access of another package is performed here, at the coherence point (R376, R379). The aperture reaches
the first 512 MiB of an export window; an access that the window or the translation does not admit changes nothing. -/
def execApertureAccess (src exp off : Nat) (q : ApRequest) (s : State) : Out :=
  let win := match s.export? exp with
    | some w => if w.admits src off (apLen q.acc) ∧ off + apLen q.acc ≤ 2 ^ 29 then (s.ctx? w.ctx).map fun c => (w, c) else none
    | none => none
  match win with
  | none => .next (s.respond src q.tag false [])
  | some (w, c) => match s.reach c 0 0 (w.base + off) (apLen q.acc) (apKind q.acc) 9 with
    | (.inr ps, s) => let ((bad, bs), s) := s.perform ps q.acc; .next (s.respond src q.tag bad bs)
    | (.inl _, s) => .next (s.respond src q.tag false [])

end Sys2Proof.Machine
end

