-- ==== Sys2Proof/Machine/Platform.lean ====
section
/-!
DEFINITION. Bring-up, ownership and power: boot and the watchdog (R381, R382), masters and their registers and rings (R385 to
R388), power and cooling (R394, R395), and the responses to commands (R388 to R390).
-/
namespace Sys2Proof

/-- The instruction row of a command; none for an OPC that Table PLT-10 does not list. -/
def Cmd.instr (c : Cmd) : Option Instr := match c.opc with
  | 0x00 => some (.nopCommand c) | 0x01 => some (.load c) | 0x02 => some (.unload c)
  | 0x10 => some (.ctxCreate c) | 0x11 => some (.ctxUpdate c) | 0x12 => some (.ctxDestroy c)
  | 0x20 => some (.keyLoad c) | 0x21 => some (.keyClear c)
  | 0x30 => some (.tenantSet c) | 0x31 => some (.tenantClear c)
  | 0x40 => some (.qCreate c) | 0x41 => some (.qReset c) | 0x42 => some (.qDestroy c)
  | 0x50 => some (.winReg c) | 0x60 => some (.fuseRaise c) | 0x61 => some (.handover c) | 0x62 => some (.attest c)
  | 0x63 => some (.powerCap c) | 0x64 => some (.reset c)
  | _ => none
/-- Argument n of a command. -/
def Cmd.arg (c : Cmd) (n : Nat) : Nat := (c.args.getD n 0).toNat

end Sys2Proof

namespace Sys2Proof.Machine
open Sys2Proof.Num

/-! ## Boot (R381) -/

/-- The fuse block as read at reset: the security counters and the configuration (Table PLT-6). -/
def State.fuseWord (s : State) : Nat := s.fwsv + 2 ^ 16 * s.codesv + 2 ^ 32 * s.pkg.code
/-- Extend a measurement register with a digest. -/
def State.extend (s : State) (k : Nat) (d : BitVec 256) : State :=
  { s with mr := s.mr.set k (ofBytes256 (sha256 (bytes256 (s.mr.getD k 0) ++ bytes256 d))) }
/-- Whether an image's signature verifies: the 60-byte public key that stands before it hashes to the fused hash, and under it
the HSS signature over the image is good (R381; where the flash holds the key is log 6). -/
def imageSigned (i : FwImage) : Bool :=
  ofBytes256 (sha256 (i.sig.take 60)) == Config.keyHash && hssValid (i.sig.take 60) (i.sig.drop 60) i.bytes
/-- The step of R381 at which an image fails; 0 where it passes. -/
def State.imageFails (s : State) (i : FwImage) : Nat := if !imageSigned i then 2 else if i.sv < s.fwsv then 3 else 0
/-- BOOT_FAILED with the step and the MR number. -/
def bootFailed (step image : Nat) : W64 := BitVec.ofNat 64 (2 + 256 * step + 65536 * image)
/-- Measure, verify and release images from MR number k on; READY when every core runs. -/
def State.boot (s : State) (flash : List FwImage) (k : Nat) : Nat → State
  | 0 => { s with bootstat := 1, ct := 0, ctFrac := 0 }
  | n + 1 => match flash with
    | [] => { s with bootstat := bootFailed 1 k }
    | i :: rest =>
      let s := s.extend k (ofBytes256 (sha256 i.bytes))
      if s.imageFails i = 0 then State.boot s rest (k + 1) n else { s with bootstat := bootFailed (s.imageFails i) k }
/-- The package after a reset: what outlives one is memory, with its keys and poison, the fuses, the free counters, what waits
outside, and the state of the world around it. -/
def State.warm (s : State) : State :=
  { State.reset with
    pkg := s.pkg, free := s.free, uid := s.uid, inbox := s.inbox, mem := s.mem, poison := s.poison, granKey := s.granKey,
    fwsv := s.fwsv, codesv := s.codesv, fuseFw := s.fuseFw, fuseCode := s.fuseCode, cxlDown := s.cxlDown,
    pwrcap := s.pkg.limit 0 }
/-- PACKAGE_RESET: the ROM and the fuses are measured, then each image is measured, verified and released in the order of
Table PLT-1, then the dies (R381). -/
def execPackageReset (flash : List FwImage) (s : State) : Out :=
  let s := s.warm
  .next (((s.extend 0 Config.romDigest).extend 0 (Config.fuseDigest s.fuseWord)).boot flash 1 7)

/-- HEARTBEAT_MISS: 100 ms of a firmware core's heartbeats are missing; the core is the MR number of its image. It is verified
again and restarted; a second miss within 1 s is fatal (R382). -/
def execHeartbeatMiss (core : Nat) (image : FwImage) (s : State) : Out :=
  if core = 0 ∨ 7 < core ∨ s.bootstat ≠ 1 then .fault .noSuchEvent
  else
    let again := s.misses.any fun m => m.1 == core && decide (s.ct < m.2 + 1000000000)
    let s : State := { s.logEvent 2 0xFFFF 0 0 0 core with misses := (core, s.ct) :: s.misses.filter (·.1 != core) }
    if again then .next (s.fatal 2)
    else if s.imageFails image = 0 then .next s
    else .next { s with bootstat := bootFailed (s.imageFails image) core }

/-! ## Masters (R385 to R387) -/

/-- Whether the package serves its masters. -/
def State.ready (s : State) : Bool := s.bootstat == 1
def State.fatalNow (s : State) : Bool := s.bootstat == 3
/-- A claim takes effect: a token of zero is ignored; the first valid claimant is the owner; a pending handover goes to its token
only (R385). -/
def State.claim (s : State) (m : Master) (token : BitVec 128) : State :=
  if token = 0 ∨ !s.ready then s
  else
    let s := s.setMaster { s.master m with token := token }
    match s.owner, s.handover with
    | some _, _ => s
    | none, none => { s with owner := some m }
    | none, some (t, _) => if t = token then { s with owner := some m, handover := none } else s
/-- A write of half of CLAIM: the low half is kept, and the write of the high half makes the claim (R385, R387). -/
def State.claimHalf (s : State) (m : Master) (w : HalfWrite) : State :=
  if w.high then s.claim m (w.value ++ (s.master m).low) else s.setMaster { s.master m with low := w.value }
/-- A write of half of CLAIM on the host port. -/
def hostClaim : Instr → Option HalfWrite
  | .claim .host w => some w
  | _ => none
/-- CLAIM: of two claims in one ct the one on the host port goes first (R385). -/
def execClaim (m : Master) (w : HalfWrite) (s : State) : Out :=
  let s := if m = .bmc ∧ w.high then (s.inbox.filterMap hostClaim).foldl (fun (s : State) h => s.claimHalf .host h) s else s
  .next (s.claimHalf m w)
/-- HANDOVER_TIMEOUT: a handover not claimed within 1 s lapses (R385). -/
def execHandoverTimeout (s : State) : Out :=
  match s.handover with
  | some (_, t) => if s.ct < t + 1000000000 then .fault .noSuchEvent else .next { s with handover := none }
  | none => .fault .noSuchEvent
/-- Half of a 128-bit register, replaced. -/
def setHalf (x : BitVec 128) (w : HalfWrite) : BitVec 128 :=
  if w.high then w.value ++ x.extractLsb' 0 64 else x.extractLsb' 64 64 ++ w.value
/-- FEATURE_WORD: a write of half of FEATDRV, the driver's word; the active set is its AND with the device's (R386, R387). -/
def execFeatureWord (m : Master) (w : HalfWrite) (s : State) : Out :=
  let x := s.master m
  if !s.ready then .next s else .next (s.setMaster { x with feat := setHalf x.feat w })
/-- FEATACT, which the masters share: the active set of the driver that owns the package; 0 without an owner, as the register resets
(R386, R387; DESIGN CHOICE, log 60). -/
def State.featAct (s : State) : BitVec 128 := match s.owner with
  | some m => (s.master m).active
  | none => 0
/-- log2 of the entry count of a master's rings: values outside 4 to 12 are taken as 4. -/
def MasterSt.logN (m : MasterSt) : Nat := if 4 ≤ m.cqlog ∧ m.cqlog ≤ 12 then m.cqlog else 4
/-- Whether a master's rings are idle. -/
def MasterSt.idle (m : MasterSt) : Bool := m.cqhead == m.cqtail && m.owed == 0 && m.written % 2 ^ 32 == m.rqcons
/-- RING_CONFIG_WRITE: CQBASE, CQLOG and RQBASE take a write only while the rings are idle (R387). -/
def execRingConfigWrite (m : Master) (reg : RingReg) (value : W64) (s : State) : Out :=
  let x := s.master m
  if !x.idle then .next s
  else .next (s.setMaster (match reg with
    | .cqbase => { x with cqbase := value.toNat / 4096 * 4096 }
    | .cqlog => { x with cqlog := value.toNat }
    | .rqbase => { x with rqbase := value.toNat / 4096 * 4096 }))
/-- The offsets of BAR2 that a master may write (Table PLT-7). -/
def bar2Writable : List Nat := [0x10, 0x18, 0x40, 0x48, 0x100, 0x108, 0x110, 0x120, 0x128]
/-- REGISTER_WRITE_IGNORED: a write of some bytes to BAR2 outside its writable registers, or to BAR0 but an aligned 8-byte write of
a doorbell, is discarded (R370, R387); so is a write of another width to a register of BAR2 (DESIGN CHOICE, log 70). -/
def execRegisterWriteIgnored (bar off : Nat) (w : RegWrite) (s : State) : Out :=
  if (bar = 2 ∧ (!bar2Writable.contains off ∨ w.width ≠ 8)) ∨ (bar = 0 ∧ (off % 4096 ≠ 0 ∨ w.width ≠ 8)) then .next s
  else .fault .noSuchEvent

/-! ## Reads of BAR0 and BAR2 (R370, R387) -/

/-- A read of the doorbell pages (R370). -/
def State.bar0Read (_s : State) (_off : Nat) : W64 := 0
/-- An entry of the event log (Table PLT-12). -/
def logBytes (e : LogEnt) : List Byte :=
  leBytes 8 e.stamp ++ leBytes 2 e.kind ++ leBytes 2 e.ctx ++ leBytes 1 e.cause ++ leBytes 1 e.sub ++ leBytes 2 0 ++
    leBytes 8 e.addr ++ leBytes 40 e.data
/-- The event log ring: entry n lies at 64 (n mod 4,096); one that is not written yet reads 0. -/
def State.logRing (s : State) (off : Nat) : List Byte :=
  let slot := off / 64
  let lap := (s.logHead + 4095 - slot) / 4096
  match if lap = 0 then none else s.log[4096 * (lap - 1) + slot]? with
  | some e => (logBytes e).drop (off % 64)
  | none => List.replicate 8 0
/-- OWNSTAT as a master reads it. -/
def State.ownStat (s : State) (m : Master) : Nat :=
  let x := s.master m
  (if s.owner.isSome then 1 else 0) + (if s.owner == some m then 2 else 0) +
    (match s.handover with | some (t, _) => if t = x.token then 4 else 0 | none => 0)
/-- An aligned 8-byte read of BAR2 by a master (Table PLT-7): any master may read (R385). -/
def State.bar2Read (s : State) (who : Master) (off : Nat) : W64 :=
  let m := s.master who
  let half := fun (x : BitVec 128) => if off % 16 = 0 then x.toNat else x.toNat / 2 ^ 64
  let lim := 0x10000 + 64 * 4096
  BitVec.ofNat 64 (
    if off % 8 ≠ 0 then 0
    else if off = 0 then s.bootstat.toNat
    else if off = 8 then s.pkg.code + 2 ^ 8 * 1 + 2 ^ 16 * 0 + 2 ^ 24 * s.pkg.dies + 2 ^ 32 * s.pkg.ports + 2 ^ 40 * s.pkg.cxlPorts
    else if off = 0x20 ∨ off = 0x28 then half featDev
    else if off = 0x30 ∨ off = 0x38 then half s.featAct
    else if off = 0x50 then s.ownStat who
    else if off = 0x100 then m.cqbase
    else if off = 0x108 then m.cqlog
    else if off = 0x118 then m.cqhead
    else if off = 0x120 then m.rqbase
    else if off = 0x200 then s.pwrcap
    else if off = 0x208 then s.pwrnow
    else if off = 0x210 then s.dvfs
    else if off = 0x218 then s.temp
    else if 0x300 ≤ off ∧ off < 0x300 + 8 * 24 then s.ceCnt.getD ((off - 0x300) / 8) 0
    else if 0x400 ≤ off ∧ off < 0x400 + 8 * 24 then s.poisCnt.getD ((off - 0x400) / 8) 0
    else if off = 0x800 then s.logHead
    else if 0x10000 ≤ off ∧ off < lim then leVal ((s.logRing (off - 0x10000)).take 8)
    else 0)

/-! ## Rings and responses (R388) -/

/-- Read bytes at a bus address; none where it lies outside host memory. -/
def State.busRead (s : State) (a n : Nat) : Option (List Byte) :=
  if a + n ≤ 2 ^ 50 then some (s.readPhys none (busAddr a) n) else none
/-- Write bytes at a bus address; none where it lies outside host memory. -/
def State.busWrite (s : State) (a : Nat) (bs : List Byte) : Option State :=
  if a + bs.length ≤ 2 ^ 50 then some (s.writePhys none (busAddr a) bs) else none
/-- The response entry of Table PLT-9. -/
def respBytes (tag : BitVec 32) (status phase result : Nat) : List Byte :=
  leBytes 4 tag.toNat ++ leBytes 2 status ++ leBytes 1 phase ++ leBytes 1 0 ++ leBytes 8 result
/-- Write the response of a command: one entry, with PHASE by the lap. -/
def State.answer (s : State) (c : Cmd) (status result : Nat) : State :=
  let m := s.master c.master
  let n := 2 ^ m.logN
  let s := (s.busWrite (m.rqbase + 16 * (m.written % n))
    (respBytes c.tag status (if m.written / n % 2 = 0 then 1 else 0) result)).getD s
  s.setMaster { m with written := m.written + 1, owed := m.owed - 1 }
/-- A command from the 64 bytes of its entry (Table PLT-8). -/
def Cmd.ofBytes (m : Master) (bs : List Byte) : Cmd :=
  { master := m, opc := fieldAt bs 0 2, tag := BitVec.ofNat 32 (fieldAt bs 4 4), resv := fieldAt bs 2 2,
    args := (List.range 7).map fun i => BitVec.ofNat 64 (fieldAt bs (8 + 8 * i) 8) }
/-- Whether a master's response ring has room for one more response that is owed. -/
def MasterSt.room (m : MasterSt) : Bool :=
  m.owed + (m.written % 2 ^ 32 + 2 ^ 32 - m.rqcons) % 2 ^ 32 + 1 ≤ 2 ^ m.logN
/-- Take up commands in order while there is room: each goes to the firmware core that serves it; one that is not listed is
refused with OPCODE. After a fatal error RESET alone is served (R393). -/
def State.takeUp (s : State) (who : Master) (acc : List Instr) : Nat → State
  | 0 => { s with inbox := acc ++ s.inbox }
  | n + 1 =>
    let m := s.master who
    if m.cqhead = m.cqtail ∨ !m.room ∨ !(s.ready || s.fatalNow) then { s with inbox := acc ++ s.inbox }
    else match s.busRead (m.cqbase + 64 * (m.cqhead % 2 ^ m.logN)) 64 with
      | none => { s with inbox := acc ++ s.inbox }
      | some bs =>
        let c := Cmd.ofBytes who bs
        let m := { m with cqhead := (m.cqhead + 1) % 2 ^ 32 }
        if s.fatalNow ∧ c.opc ≠ 0x64 then State.takeUp (s.setMaster m) who acc n
        else
          let s := s.setMaster { m with owed := m.owed + 1 }
          match c.instr with
          | some i => State.takeUp s who (acc ++ [i]) n
          | none => State.takeUp (s.answer c 0x30 0) who acc n
/-- COMMAND_DOORBELL: a write of CQTAIL; one too far ahead is discarded (R388). -/
def execCommandDoorbell (m : Master) (count : BitVec 32) (s : State) : Out :=
  let x := s.master m
  if 2 ^ x.logN < (count.toNat + 2 ^ 32 - x.cqhead) % 2 ^ 32 then .next s
  else .next ((s.setMaster { x with cqtail := count.toNat }).takeUp m [] 4096)
/-- RESPONSE_CONSUME: a write of RQCONS; take-up goes on (R388). A count beyond the responses written is discarded. -/
def execResponseConsume (m : Master) (count : BitVec 32) (s : State) : Out :=
  let x := s.master m
  if (x.written % 2 ^ 32 + 2 ^ 32 - x.rqcons) % 2 ^ 32 < (count.toNat + 2 ^ 32 - x.rqcons) % 2 ^ 32 then .next s
  else .next ((s.setMaster { x with rqcons := count.toNat }).takeUp m [] 4096)

/-! ## Power and cooling (R394, R395) -/

/-- The data of a throttle entry: old point, new point, temperature (Table PLT-12). -/
def throttleData (old new temp : Nat) : Nat := old + 256 * new + 65536 * (temp % 65536)
/-- The point that the cap allows: the highest whose limit is at most the cap. -/
def State.capPoint (s : State) : Nat := ((List.range 4).find? fun p => s.pkg.limit p ≤ s.pwrcap).getD 3
/-- Set the point from the cap and the steps that heat has taken; a change is logged. -/
def State.setPoint (s : State) : State :=
  let p := min 3 (s.capPoint + s.thermal)
  if p = s.dvfs then s else { s.logEvent 4 0xFFFF 0 0 0 (throttleData s.dvfs p s.temp) with dvfs := p }
/-- POWER_POINT_SELECT: with the power measured over the last 1 ms (R395). -/
def execPowerPointSelect (watts : Nat) (s : State) : Out := .next ({ s with pwrnow := watts }).setPoint
/-- THERMAL_STEP_DOWN: a junction above 105 °C, in units of 1/16 °C; one at 120 °C is OVER_TEMPERATURE. -/
def execThermalStepDown (temp : Nat) (s : State) : Out :=
  if temp ≤ 105 * 16 ∨ 120 * 16 ≤ temp then .fault .noSuchEvent
  else
    let s := { s with temp := temp, coolSince := none }
    .next ({ s with thermal := if s.dvfs < 3 then s.thermal + 1 else s.thermal }).setPoint
/-- THERMAL_STEP_UP: the junctions lie below 95 °C, and after 10 ms of that the package steps up; one that is reported from 95 °C to
105 °C ends the 10 ms. -/
def execThermalStepUp (temp : Nat) (s : State) : Out :=
  if 105 * 16 < temp then .fault .noSuchEvent
  else if 95 * 16 ≤ temp then .next { s with temp := temp, coolSince := none }
  else
    let s := { s with temp := temp }
    match s.coolSince with
    | none => .next { s with coolSince := some s.ct }
    | some t =>
      if s.ct < t + 10000000 then .next s
      else .next ({ s with thermal := s.thermal - 1, coolSince := some s.ct }).setPoint
/-- What a package serves after a fatal error beside the reads of BAR2: reads of the dump, RESET and the writes of the ring registers by
which it is taken up, and a reset from outside (R393; DESIGN CHOICE, log 90: the writes). -/
def fatalServes : Instr → Bool
  | .hostMemoryAccess _ pa len none => decide (dumpBase ≤ pa) && decide (pa + len ≤ dumpBase + 2 ^ 28)
  | .reset _ => true
  | .packageReset _ => true
  | .commandDoorbell _ _ => true
  | .responseConsume _ _ => true
  | _ => false
/-- Whether something from outside acts: after a fatal error little is served (R393). -/
def State.serves (s : State) (i : Instr) : Bool := !s.fatalNow || fatalServes i
/-- OVER_TEMPERATURE: a junction at 120 °C is a fatal error (R393, R395). -/
def execOverTemperature (temp : Nat) (s : State) : Out :=
  if temp < 120 * 16 then .fault .noSuchEvent else .next (({ s with temp := temp }).fatal 3)

end Sys2Proof.Machine
end

