-- ==== Sys2Proof/Machine/Command.lean ====
section
/-!
DEFINITION. The commands of Table PLT-10: their refusals (R389, R390), kernels and the loader (R123 to R130), contexts and their
records (R341 to R349), keys, tenants, queues, windows, fuses, handover, attestation, the power cap and reset.
-/
namespace Sys2Proof.Machine
open Sys2Proof.Num

/-! ## What every command does (R389) -/

/-- Serve a command: the refusals of R389 in order, then what it does. `used` is the number of its arguments, `ok` whether they
are in range. A package that is not READY serves none but RESET after a fatal error (R381, R393). -/
def State.command (s : State) (c : Cmd) (owner : Bool) (used : Nat) (ok : Bool) (feature : Option Nat) (k : State → Out) : Out :=
  if !s.ready then .next s
  else if owner && s.owner != some c.master then .next (s.answer c 0x20 0)
  else if c.resv != 0 || (c.args.drop used).any (· != 0) || !ok then .next (s.answer c 0x31 0)
  else match feature with
    | some b => if (s.master c.master).active.getLsbD b then k s else .next (s.answer c 0x21 0)
    | none => k s
/-- The context that a command names. -/
def ctxNamed (c : Cmd) : Nat := if c.opc = 0x20 then c.arg 1 else c.arg 0
/-- Serve a command in the sequence of its context: behind a CTX_DESTROY that a switch holds, it is held too (R123, R342). -/
def State.inSequence (s : State) (c : Cmd) (k : Out) : Out :=
  if s.heldCmds.any fun x => ctxNamed x == ctxNamed c then .next { s with heldCmds := s.heldCmds ++ [c] } else k
/-- A context that a command names, but where the context's state refuses it: FREE, or FAULTED (Table CTX-3). -/
def State.withCtx (s : State) (c : Cmd) (n : Nat) (k : Ctx → Out) : Out :=
  s.inSequence c (match s.ctx? n with
    | none => .next (s.answer c 0x10 0)
    | some x => if x.st = .faulted ∨ x.st = .free ∨ x.st = .destroying then .next (s.answer c 0x10 0) else k x)

def execNopCommand (c : Cmd) (s : State) : Out := s.command c false 0 true none fun s => .next (s.answer c 0 0)

/-! ## LOAD (R124 to R129) -/

/-- A section entry (Table KRN-3). -/
structure Section where
  typ : Nat
  flags : Nat
  off : Nat
  size : Nat
  align : Nat
  link : Nat
  deriving DecidableEq, Repr
def sectionAt (o : List Byte) (a : Nat) : Section :=
  { typ := fieldAt o a 4, flags := fieldAt o (a + 4) 4, off := fieldAt o (a + 8) 8, size := fieldAt o (a + 16) 8,
    align := fieldAt o (a + 24) 4, link := fieldAt o (a + 28) 4 }
/-- The sections of an object. -/
def sections (o : List Byte) : List Section :=
  let t := o.drop (fieldAt o 0x10 8)
  (List.range (fieldAt o 0x0E 2)).map fun i => sectionAt t (32 * i)
/-- The sections of a type of one kernel. -/
def ofKind (ss : List Section) (link typ : Nat) : List Section := ss.filter fun x => x.link == link && x.typ == typ
def Section.data (x : Section) (o : List Byte) : List Byte := (o.drop x.off).take x.size
/-- The header of kernel i. -/
def hdrOf (o : List Byte) (ss : List Section) (i : Nat) : List Byte := match ofKind ss i 1 with
  | x :: _ => x.data o
  | [] => []
/-- The FORMAT check of Table KRN-6. A kernel without an HDR or a TEXT section is FORMAT whatever CONFIG says, a portable object's too, as
check 1 stands before check 3, though the prose on Tirarn names CONFIG (DESIGN CHOICE, log 89). The header's SV is not compared with those
of its kernels: the table names no check of it (DESIGN CHOICE, log 89). A second DATA, BIND or SYMBOLS section (R125), an HDR section that is not 336 bytes long (R126)
and a section table that does not lie at a multiple of 32 (R124) break it too: the table names no code for them (DESIGN CHOICE,
log 72). -/
def formatBad (o : List Byte) : Bool :=
  let n := o.length
  let nk := fieldAt o 0x0C 2
  let ns := fieldAt o 0x0E 2
  let so := fieldAt o 0x10 8
  n < 64 || fieldAt o 0 4 != 0x4D555753 || fieldAt o 4 4 != 0x00010000 || nk < 1 || 256 < nk || ns < 1 || 4096 < ns ||
    so % 32 != 0 || n < so + 32 * ns ||
    (let ss := sections o
     ss.any (fun x => x.typ < 1 || 6 < x.typ || x.align < 2 || 12 < x.align || n < x.off + x.size ||
       x.off % 2 ^ x.align != 0 || nk ≤ x.link) ||
     (List.range nk).any fun i => (ofKind ss i 1).length != 1 || (ofKind ss i 2).length != 1 || 1 < (ofKind ss i 3).length ||
       1 < (ofKind ss i 4).length || 1 < (ofKind ss i 5).length || (hdrOf o ss i).length != 336 ||
       fieldAt (hdrOf o ss i) 0 4 != 0x4E524B56)
/-- The DIGEST check: SHA-256 of the object with the DIGEST bytes taken as zero (R124). -/
def digestBad (o : List Byte) : Bool := sha256 (o.take 32 ++ List.replicate 32 0 ++ o.drop 64) != (o.drop 32).take 32
/-- Causes whose handler a kernel may declare (Table TRP-1). -/
def kernelCauses : List Nat :=
  [0x01, 0x02, 0x03, 0x04, 0x05, 0x09, 0x0A, 0x0B, 0x10, 0x11, 0x12, 0x13, 0x14, 0x15, 0x16, 0x17, 0x18, 0x19, 0x20, 0x21, 0x22]
/-- Entry n of HANDLERS. -/
def handlerAt (h : List Byte) (n : Nat) : Nat := fieldAt h (0x50 + 4 * n) 4
/-- The FIELD check of Table KRN-6. The names of a BIND section are counted by their NUL bytes; what follows the last NUL is no name
(DESIGN CHOICE, log 89). -/
def fieldBad (o : List Byte) (ss : List Section) (i : Nat) : Bool :=
  let h := hdrOf o ss i
  let f := fun a n => fieldAt h a n
  let text := (ofKind ss i 2).headD ⟨0, 0, 0, 0, 0, 0⟩
  let names := ((ofKind ss i 4).map fun x => ((x.data o).filter (· == 0)).length).sum
  let ng := f 0x0C 1
  let ts := f 0x2C 4
  let off := fun x => x % 4 != 0 || decide (ts ≤ x)
  fieldAt o 0x18 8 != 0 || (ss.filter (·.link == i)).any (fun x => 1 < x.flags || (x.flags != 0 && x.typ != 2)) ||
    f 0x0F 1 != 0 || f 0x48 8 != 0 || 8 ≤ f 0x0B 1 || f 0x30 8 != 0 || f 0x38 8 != 0 || f 0x40 8 != 0 ||
    2 < f 0x0A 1 || ng < 1 || 32 < ng || f 0x0D 1 < 1 || 64 < f 0x0D 1 || f 0x0E 1 < 1 || 64 < f 0x0E 1 ||
    f 0x14 2 < 16 || f 0x16 2 < 16 || f 0x18 4 % 128 != 0 || 3145728 < f 0x18 4 || 256 < f 0x1C 2 ||
    (f 0x0B 1 / 4 % 2 == 0 && f 0x06 1 != 0) ||
    (List.range 32).any (fun g => let r := f 0x20 8 / 4 ^ g % 4; r == 3 || (decide (ng ≤ g) && r != 0)) ||
    ts != text.size || off (f 0x28 4) ||
    (List.range 64).any (fun n => handlerAt h n != 0xFFFFFFFF && (off (handlerAt h n) || !kernelCauses.contains n)) ||
    f 0x1E 2 != names
/-- The FIT check of Table KRN-6. -/
def fitBad (h : List Byte) : Bool :=
  let f := fun a n => fieldAt h a n
  let ng := f 0x0C 1
  4096 < ng * f 0x14 2 || 4096 < ng * f 0x16 2 || 4096 < f 0x10 2 || 4096 < f 0x12 2 ||
    ((f 0x0A 1 == 2 || f 0x0B 1 % 2 == 1) && (4096 < ng * f 0x10 2 || 4096 < ng * f 0x12 2))
/-- The refusal of kernel i before SPACE: the first failing check, or a feature outside the active set (R128, R386). -/
def State.kernelRefusal (s : State) (c : Cmd) (o : List Byte) (ss : List Section) (i : Nat) : Option Nat :=
  let h := hdrOf o ss i
  let f := fun a n => fieldAt h a n
  let emu := f 0x0B 1 / 4 % 2 == 1
  if fieldAt o 8 2 != s.pkg.code || f 7 1 != s.pkg.code then some 3
  else if f 4 1 != 1 || (f 5 1 != 0 && !(f 5 1 == 1 && emu && f 6 1 == 1)) then some 4
  else if emu && (f 6 1 != 1 || handlerAt h 1 == 0xFFFFFFFF) then some 5
  else if emu && !(s.master c.master).active.getLsbD 3 then some 0x21
  else if f 8 2 < s.codesv then some 6
  else if fieldBad o ss i then some 7
  else if fitBad h then some 8
  else none

/-- Whether a 4 KiB page can be mapped at an address: the walk ends at an entry that is 0 (R336). -/
def State.vacant (s : State) (va : Nat) : Nat → Nat → Bool
  | 0, _ => false
  | n + 1, table =>
    let e := s.phys (table + 8 * (va / 2 ^ (12 + 9 * n) % 512)) 8
    if e % 2 = 0 then e == 0 else if e / 2 % 2 = 1 then false else s.vacant va n (leafFrame e)
/-- Whether the n pages from a virtual page on hold no mapping and can take one. -/
def State.unmapped (s : State) (c : Ctx) (page n : Nat) : Bool :=
  (List.range n).all fun i => s.vacant (4096 * (page + i)) 5 c.ptroot
/-- A stretch of n unmapped pages, searched from a page that the loader chooses (DESIGN CHOICE, log 5). -/
def State.findPages (s : State) (c : Ctx) (n start : Nat) : Nat → Option Nat
  | 0 => none
  | k + 1 =>
    if 4096 * (start + n) ≤ supBase ∧ s.unmapped c start n then some start
    else State.findPages s c n ((start + 1) % (supBase / 4096)) k
/-- Map a fresh 4 KiB page from the pool of the first die, of those numbered below, that has one. -/
def State.mapOnAny (s : State) (c : Ctx) (va t : Nat) : Nat → Option State
  | 0 => none
  | n + 1 => match s.mapPage c (s.pkg.dies - (n + 1)) va t with
    | (0, s) => some s
    | (2, s) => State.mapOnAny s c va t n
    | _ => none
/-- Map n fresh 4 KiB pages from a page on, with the attributes of a template; none where one cannot be mapped. -/
def State.mapFresh (s : State) (c : Ctx) (page t : Nat) : Nat → Option State
  | 0 => some s
  | n + 1 => match s.mapOnAny c (4096 * page) t s.pkg.dies with
    | some s => State.mapFresh s c (page + 1) t n
    | none => none
/-- Write bytes of a fresh stretch, page by page, at the frames. -/
def State.fillPages (s : State) (c : Ctx) (page : Nat) (bs : List Byte) : Nat → State
  | 0 => s
  | n + 1 =>
    let s := match s.walk (4096 * page) 5 c.ptroot with
      | .leaf e => s.writePhys none (leafFrame e) (bs.take 4096)
      | _ => s
    State.fillPages s c (page + 1) (bs.drop 4096) n
/-- Place bytes into context memory under a template: the address and the pages, or none. -/
def State.placeBytes (s : State) (c : Ctx) (bs : List Byte) (t : Nat) : Option (Nat × List Nat × State) :=
  let n := (bs.length + 4095) / 4096
  if n = 0 then some (0, [], s)
  else
    let start := Config.choose s.free % (supBase / 4096)
    let s : State := { s with free := s.free + 1 }
    match s.findPages c n start (supBase / 4096) with
    | none => none
    | some p => match s.mapFresh c p t n with
      | none => none
      | some s => some (4096 * p, (List.range n).map fun i => 4096 * (p + i), s.fillPages c p bs n)
/-- A template of 4 KiB with read, write and execute permissions, in plaintext (KEYID 0): the spec does not say under which key
the loader maps a kernel (DESIGN CHOICE, log 73). -/
def pageTemplate (wr ex : Bool) : Nat := 3 + 64 + (if wr then 128 else 0) + (if ex then 256 else 0)
/-- Load kernel i: TEXT, DATA and the binding table in context memory, and the loader's copy of the header (R129). -/
def State.loadKernel (s : State) (c : Ctx) (o : List Byte) (ss : List Section) (i : Nat) : Option State :=
  let h := hdrOf o ss i
  let f := fun a n => fieldAt h a n
  let text := (ofKind ss i 2).headD ⟨0, 0, 0, 0, 0, 0⟩
  let data := (ofKind ss i 3).flatMap (·.data o)
  match s.placeBytes c (text.data o) (pageTemplate (text.flags == 1) true) with
  | none => none
  | some (tb, tp, s) => match s.placeBytes c data (pageTemplate true false) with
    | none => none
    | some (_, dp, s) => match s.placeBytes c (List.replicate (8 * f 0x1E 2) 0) (pageTemplate true false) with
      | none => none
      | some (bb, bp, s) =>
        let k : Kernel :=
          { kobj := s.nextKobj, ctx := c.num, st := .loaded, isamin := f 5 1, emumin := f 6 1,
            emu := f 0x0B 1 / 4 % 2 == 1, config := f 7 1, sv := f 8 2, cls := f 0x0A 1, prom := f 0x0B 1 % 2 == 1,
            idem := f 0x0B 1 / 2 % 2 == 1, ngroups := f 0x0C 1, vregs := f 0x0D 1, gregs := f 0x0E 1, vmax := f 0x10 2,
            gmax := f 0x12 2, vfloor := f 0x14 2, gfloor := f 0x16 2, scratch := f 0x18 4, clasps := f 0x1C 2,
            nbind := f 0x1E 2, roles := (List.range (f 0x0C 1)).map fun g => f 0x20 8 / 4 ^ g % 4, entry := f 0x28 4,
            textSize := f 0x2C 4, textBase := tb, bindBase := bb, handlers := (List.range 64).map (handlerAt h), live := 0,
            pages := tp ++ dp ++ bp }
        some { s with nextKobj := s.nextKobj + 1, kernels := s.kernels ++ [k] }
/-- Load every kernel of an object, or the code of the first refusal; a refused load leaves nothing (R128). -/
def State.loadAll (s : State) (cmd : Cmd) (c : Ctx) (o : List Byte) (ss : List Section) (i : Nat) : Nat → State ⊕ Nat
  | 0 => .inl s
  | n + 1 => match s.kernelRefusal cmd o ss i with
    | some code => .inr code
    | none => match s.loadKernel c o ss i with
      | none => .inr 9
      | some s => State.loadAll s cmd c o ss (i + 1) n
/-- LOAD (R123, R128, R129). An object that cannot be read is refused with FORMAT. -/
def execLoad (c : Cmd) (s : State) : Out :=
  s.command c true 3 (c.arg 0 < 4096) none fun s => s.withCtx c (c.arg 0) fun x =>
    match s.vread x 0 0 (c.arg 1) (c.arg 2) with
    | (none, s) => .next (s.answer c 1 0)
    | (some o, s) =>
      if formatBad o then .next (s.answer c 1 0)
      else if digestBad o then .next (s.answer c 2 0)
      else match s.loadAll c x o (sections o) 0 (fieldAt o 0x0C 2) with
        | .inr code => .next (s.answer c code 0)
        | .inl s' => .next (s'.answer c 0 s.nextKobj)
/-- UNLOAD: the kernel is RETIRING (Table KRN-1). -/
def execUnload (c : Cmd) (s : State) : Out :=
  s.command c true 2 (c.arg 0 < 4096) none fun s => s.withCtx c (c.arg 0) fun x =>
    match s.kernels.find? fun k => k.kobj == c.arg 1 && k.ctx == x.num with
    | none => .next (s.answer c 0x18 0)
    | some k =>
      if k.st = .retired then .next (s.answer c 0x18 0)
      else if k.st = .retiring then .next (s.answer c 0x10 0)
      else .next ((s.setKernel { k with st := .retiring }).retireIdle.answer c 0 0)

/-! ## Contexts (R341 to R344, R349) -/

/-- A resume queue record (Table LKT-10). -/
def rqAt (bs : List Byte) (a : Nat) : ResumeQ :=
  { base := fieldAt bs a 8, logCap := fieldAt bs (a + 8) 1, prio := fieldAt bs (a + 9) 1 % 16,
    en := decide (128 ≤ fieldAt bs (a + 9) 1), age := fieldAt bs (a + 12) 4, bound := fieldAt bs (a + 16) 8,
    lrec := fieldAt bs (a + 24) 8 }
def ftwAt (bs : List Byte) (a : Nat) : Ftw :=
  { base := fieldAt bs a 8, len := fieldAt bs (a + 8) 8, template := BitVec.ofNat 64 (fieldAt bs (a + 16) 8) }
/-- The key slots of a record. -/
def keysAt (bs : List Byte) : List Nat := (List.range 16).map fun i => fieldAt bs (0x20 + 2 * i) 2
/-- The context that a record of Table CTX-1 describes. -/
def ctxOf (bs : List Byte) (staging : Nat) (key : BitVec 256) : Ctx :=
  { num := fieldAt bs 0x1C 2, ptroot := fieldAt bs 0 8, tidbase := fieldAt bs 8 8, savebase := fieldAt bs 0x10 8,
    saveblks := fieldAt bs 0x18 2, tenant := fieldAt bs 0x1A 1, ceil := fieldAt bs 0x1B 1, keys := keysAt bs,
    rqs := (List.range 16).map fun i => rqAt bs (0x40 + 32 * i), ftws := (List.range 8).map fun i => ftwAt bs (0x240 + 32 * i),
    napMiss := 0, cpMiss := 0, st := .ready, sealKey := key, staging := staging, tidPend := [], restore := [], incoming := false }
/-- The FIELD check of R343. -/
def recordFieldBad (bs : List Byte) : Bool :=
  let f := fun a n => fieldAt bs a n
  f 0 8 % 4096 != 0 || 2 ^ 52 ≤ f 0 8 || f 8 8 % 4096 != 0 || 2 ^ 57 ≤ f 8 8 || f 0x10 8 % 65536 != 0 || 2 ^ 57 ≤ f 0x10 8 ||
    f 0x18 2 == 0 || 2 < f 0x1B 1 || 4096 ≤ f 0x1C 2 || f 0x1E 2 != 0 || (keysAt bs).any (1023 < ·) ||
    (bs.drop 0x354).any (· != 0) ||
    (List.range 16).any (fun i =>
      let q := rqAt bs (0x40 + 32 * i)
      f (0x40 + 32 * i + 9) 1 / 16 % 8 != 0 || q.base % 4096 != 0 || q.lrec % 64 != 0 ||
        (q.en && (q.logCap < 4 || 16 < q.logCap)) || 16 < q.logCap) ||
    (List.range 8).any fun i =>
      let w := ftwAt bs (0x240 + 32 * i)
      w.base % 4096 != 0 || decide (2 ^ 57 < w.base + w.len) || f (0x240 + 32 * i + 0x18) 8 != 0 ||
        leafFrame w.template.toNat != 0
/-- The WINDOW check of R343. -/
def windowsBad (ws : List Ftw) : Bool :=
  let used := ws.filter (·.len != 0)
  used.any (fun w => decide (supBase < w.base + w.len) || (w.template.toNat % 2 == 1 && !templateOk w.template.toNat)) ||
    (List.range used.length).any fun i => match used[i]? with
      | none => false
      | some a => (used.drop (i + 1)).any fun b => decide (a.base < b.base + b.len) && decide (b.base < a.base + a.len)
/-- The first failing check of R343. -/
def State.recordBad (s : State) (n : Nat) (bs : List Byte) : Option Nat :=
  if recordFieldBad bs then some 0x11
  else if fieldAt bs 0x1C 2 != n then some 0x12
  else if !s.tenants.any (·.num == fieldAt bs 0x1A 1) then some 0x13
  else if (keysAt bs).any fun k => k != 0 && !s.keySlots.any fun x => x.1 == k && x.2.1 == n then some 0x14
  else if windowsBad ((List.range 8).map fun i => ftwAt bs (0x240 + 32 * i)) then some 0x15
  else none
/-- CTX_CREATE (R342, R343, R346). -/
def execCtxCreate (c : Cmd) (s : State) : Out :=
  s.command c true 2 (c.arg 0 < 4096) none fun s =>
    s.inSequence c (if (s.ctx? (c.arg 0)).isSome then .next (s.answer c 0x10 0)
    else match s.busRead (c.arg 1) 1024 with
      | none => .next (s.answer c 0x32 0)
      | some bs => match s.recordBad (c.arg 0) bs with
        | some st => .next (s.answer c st 0)
        | none =>
          let s : State := { s with ctxs := s.ctxs ++ [ctxOf bs (c.arg 1) (Config.sealKey s.free)], free := s.free + 1 }
          .next ((s.stageCtx (c.arg 0)).answer c 0 0))
/-- A resume queue after an update: a queue that EN turns on starts at 0; one that stays keeps what the device holds (R344). -/
def ResumeQ.updated (old new : ResumeQ) : ResumeQ :=
  if new.en && !old.en then { new with errCnt := old.errCnt }
  else { new with errCnt := old.errCnt, head := old.head, tail := old.tail, headSince := old.headSince, pushed := old.pushed }
/-- The records of the resume queues that an update turns off. -/
def closedRecs (old new : List ResumeQ) : List Nat :=
  (old.zip new).filterMap fun x => if x.1.en && !x.2.en && x.1.lrec != 0 then some x.1.lrec else none
/-- CLOSED is set on some records, which are DONE where their COUNT is 0 (R294). -/
def State.closeRecs (s : State) (c : Ctx) (recs : List Nat) : State :=
  recs.foldl (fun s r => (s.recMark c r 1).settleRecs c settleFuel [] [r]) s
/-- CTX_UPDATE: every driver field but CTXID and SAVEBASE (R344); the records of resume queues that it turns off are closed
(R294). -/
def execCtxUpdate (c : Cmd) (s : State) : Out :=
  s.command c true 2 (c.arg 0 < 4096) none fun s => s.withCtx c (c.arg 0) fun x =>
    if x.st ≠ .running ∧ x.st ≠ .ready ∧ x.st ≠ .suspended then .next (s.answer c 0x10 0)
    else match s.busRead (c.arg 1) 1024 with
      | none => .next (s.answer c 0x32 0)
      | some bs => match s.recordBad (c.arg 0) bs with
        | some st => .next (s.answer c st 0)
        | none =>
          let n := ctxOf bs (c.arg 1) x.sealKey
          let y := { x with ptroot := n.ptroot, tidbase := n.tidbase, saveblks := n.saveblks, tenant := n.tenant, ceil := n.ceil,
                            keys := n.keys, rqs := x.rqs.zipWith ResumeQ.updated n.rqs, ftws := n.ftws, staging := n.staging }
          .next ((((s.setCtx y).stageCtx x.num).closeRecs y (closedRecs x.rqs n.rqs)).answer c 0 0)
/-- The frames of a context's pages that were cleared and not invalidated go to the dirty list (R331). -/
def State.dropPages (s : State) (c : Ctx) : State :=
  ((s.pages.filter (·.ctx == c.num)).filter fun p => s.walk p.va 5 c.ptroot == .miss).foldl (fun (s : State) p => s.soil p.frame p.bytes)
    { s with pages := s.pages.filter (·.ctx != c.num) }
/-- Destroy a context (R349): its queues, its blocks without a write, what lockets carry, its kernels, its keys. -/
def State.destroy (s : State) (c : Ctx) : State :=
  let n := c.num
  let mine := fun (x : Option (Nat × Nat)) => match x with | some y => y.1 == n | none => false
  let dirty := (s.kernels.filter (·.ctx == n)).flatMap fun (k : Kernel) => k.pages.filterMap fun va =>
      match s.walk va 5 c.ptroot with | .leaf e => some (leafFrame e, 0) | _ => none
  let s : State := { s with
    uqs := s.uqs.map fun (q : UQueue) => if q.ctx = n then { q with st := .destroyed, slot := none, pkt := none, hold := none } else q
    refs := s.refs.filter fun r => !(mine r.join || mine r.launch ||
      (match r.waiter with | some w => (s.block? w.blk).any (·.ctx == n) | none => false) ||
      (match r.block with | some b => (s.block? b).any (·.ctx == n) | none => false) ||
      (match r.queue with | some q => s.uqs.any fun u => u.num == q && u.ctx == n | none => false))
    items := s.items.filter (·.ctx != n), tcbs := s.tcbs.filter (·.ctx != n), phases := s.phases.filter (·.ctx != n)
    cancelled := s.cancelled.filter (·.1 != n), nodes := s.nodes.filter (·.ctx != n)
    kernels := s.kernels.map fun (k : Kernel) => if k.ctx = n then { k with pages := [] } else k
    dirtyFrames := s.dirtyFrames ++ dirty }
  let s := s.dropPages c
  let s := (s.blocks.filter (·.ctx == n)).foldl (fun (s : State) b => s.leave b) s
  let s := (s.bufs.filter fun u => u.st == .carried && u.holderKind == n).foldl (fun (s : State) u => s.freeBuf u) s
  let s : State := { s with
    kernels := s.kernels.map fun (k : Kernel) => if k.ctx = n then { k with st := .retired, live := 0 } else k
    keySlots := s.keySlots.filter (·.2.1 != n), tlb := s.tlb.filter (·.ctx != n), wins := s.wins.filter (·.ctx != n) }
  let s := s.setCtxState n .free
  State.settleRefs { s with ctxs := s.ctxs.filter (·.num != n) }
/-- CTX_DESTROY: held while the context is switching (Table CTX-3, R349). -/
def execCtxDestroy (c : Cmd) (s : State) : Out :=
  s.command c true 1 (c.arg 0 < 4096) none fun s => s.inSequence c (match s.ctx? (c.arg 0) with
    | none => .next (s.answer c 0x10 0)
    | some x =>
      if x.st = .switching then .next { s with heldCmds := s.heldCmds ++ [c] }
      else .next ((s.destroy x).answer c 0 0))

/-! ## Keys and tenants (R347, R348) -/

/-- Reserved bytes of a key blob that must be 0, and its public key, which must be an uncompressed point on the curve (R384). -/
def blobBad (bs : List Byte) : Bool :=
  fieldAt bs 0x20 1 != 4 || !onP384 (beVal ((bs.drop 0x21).take 48)) (beVal ((bs.drop 0x51).take 48)) ||
    ((bs.drop 0x81).take 7).any (· != 0) || (bs.drop 0xB0).any (· != 0)
/-- The key that a blob carries for a slot and a context: unwrapped under what HKDF-SHA-384 gives of the shared point's
x-coordinate, the blob's nonce, and KEY_LOAD with the two numbers; none where the integrity check fails (R384). -/
def unwrapKey (bs : List Byte) (slot ctx : Nat) : Option (BitVec 256) :=
  let shared := (List.range 48).map (Config.sharedX ((bs.drop 0x20).take 97))
  let info := [0x4B, 0x45, 0x59, 0x5F, 0x4C, 0x4F, 0x41, 0x44] ++ leBytes 2 slot ++ leBytes 2 ctx
  (aesUnwrap (hkdf384 (bs.take 32) shared info) ((bs.drop 0x88).take 40)).map ofBytes256
def execKeyLoad (c : Cmd) (s : State) : Out :=
  let slot := c.arg 0
  let n := c.arg 1
  s.command c true 3 (1 ≤ slot && slot ≤ 1023 && n < 4096) none fun s =>
    s.inSequence c (if (s.ctx? n).any (·.st == .faulted) then .next (s.answer c 0x10 0)
    else if s.keySlots.any fun k => k.1 == slot && k.2.1 != n then .next (s.answer c 0x16 0)
    else match s.busRead (c.arg 2) 256 with
      | none => .next (s.answer c 0x32 0)
      | some bs => match (if blobBad bs then none else unwrapKey bs slot n) with
        | none => .next (s.answer c 0x17 0)
        | some key =>
          .next (({ s with keySlots := (slot, n, key) :: s.keySlots.filter (·.1 != slot) }).answer c 0 0))
def execKeyClear (c : Cmd) (s : State) : Out :=
  s.command c true 1 (1 ≤ c.arg 0 && c.arg 0 ≤ 1023) none fun s =>
    .next (({ s with keySlots := s.keySlots.filter (·.1 != c.arg 0) }).answer c 0 0)
/-- TENANT_SET: CORES is at most the package's group slots. -/
def execTenantSet (c : Cmd) (s : State) : Out :=
  s.command c true 4 (c.arg 0 < 256 && c.arg 1 ≤ s.pkg.dies * 56 * 64) none fun s =>
    let old := (s.tenants.find? (·.num == c.arg 0)).getD { num := c.arg 0, cores := 0, bw := 0, power := 0 }
    let t := { old with cores := c.arg 1, bw := c.arg 2, power := c.arg 3 }
    .next (({ s with tenants := t :: s.tenants.filter (·.num != c.arg 0) }).answer c 0 0)
def execTenantClear (c : Cmd) (s : State) : Out :=
  s.command c true 1 (c.arg 0 < 256) none fun s =>
    if s.ctxs.any (·.tenant == c.arg 0) then .next (s.answer c 0x10 0)
    else .next (({ s with tenants := s.tenants.filter (·.num != c.arg 0) }).answer c 0 0)

/-! ## Queues (R350, R351) -/

/-- Whether a control block breaks Table QUE-1. -/
def qcbBad (bs : List Byte) (ctx : Nat) : Bool :=
  let f := fun a n => fieldAt bs a n
  f 0 8 % 4096 != 0 || f 8 1 < 12 || 18 < f 8 1 || 16 ≤ f 9 1 || 2 < f 0x0A 1 || f 0x0D 3 != 0 || f 0x1C 4 != 0 ||
    f 0x38 2 != ctx || f 0x3A 6 != 0
/-- Q_CREATE: the control block is registered; a queue with words left is pending (Table QUE-2). -/
def execQCreate (c : Cmd) (s : State) : Out :=
  s.command c true 3 (c.arg 0 < 4096 && c.arg 1 < 65536 && c.arg 2 % 64 == 0) none fun s => s.withCtx c (c.arg 0) fun x =>
    if (s.uq? (c.arg 1)).isSome then .next (s.answer c 0x10 0)
    else match (s.vread x 0 0 (c.arg 2) 64).1 with
      | none => .next (s.answer c 0x31 0)
      | some bs =>
        if qcbBad bs x.num then .next (s.answer c 0x31 0)
        else
          let f := fun a n => fieldAt bs a n
          let q : UQueue := { num := c.arg 1, ctx := x.num, qcb := c.arg 2, st := .idle, rbase := f 0 8, logsz := f 8 1,
                              prio := f 9 1, cls := f 0x0A 1, bound := f 0x28 8 }
          let q := if q.tailOk (f 0x14 4) then q.takeTail (f 0x14 4) s.ct else q
          let s : State := { s with uqs := (s.uqs.filter (·.num != q.num)) ++ [q] }
          let s := s.writeQcb q (if q.st = .pending then 1 else 0)
          let s := if q.st = .pending then { s with inbox := .schedulerPass :: s.inbox } else s
          .next (s.answer c 0 0)
/-- Q_RESET: a queue in ERROR returns to UNMAPPED_IDLE with a new HEAD (Table QUE-2). -/
def execQReset (c : Cmd) (s : State) : Out :=
  s.command c true 2 (c.arg 0 < 65536 && c.arg 1 < 2 ^ 32) none fun s => match s.uq? (c.arg 0) with
    | none => .next (s.answer c 0x10 0)
    | some q =>
      if q.st ≠ .error then .next (s.answer c 0x10 0)
      else
        let q := { q with st := .idle, head := c.arg 1, tail := c.arg 1, pseq := 0, errc := 0, errpc := 0, ibs := [], fault := none,
                          hold := none, pkt := none }
        .next (((s.setUq q).writeQcb q 0).answer c 0 0)
/-- Q_DESTROY: held packets are dropped; work already launched runs on. -/
def execQDestroy (c : Cmd) (s : State) : Out :=
  s.command c true 1 (c.arg 0 < 65536) none fun s => match s.uq? (c.arg 0) with
    | none => .next (s.answer c 0x10 0)
    | some q =>
      let s := State.settleRefs { s with refs := s.refs.filter (·.queue != some q.num) }
      .next ((s.updUq q.num fun q => { q with st := .destroyed, slot := none, pkt := none, hold := none, ibs := [], sigs := [] }).answer c 0 0)

/-! ## Windows (R376) -/

/-- A window record (Table LNK-4). -/
def winOf (bs : List Byte) (ctx index exp : Nat) : Win :=
  { ctx := ctx, index := index, kind := fieldAt bs 0x14 1, base := fieldAt bs 0 8, size := fieldAt bs 8 8, peer := fieldAt bs 0x10 2,
    pexp := fieldAt bs 0x12 2, cls := fieldAt bs 0x15 1, exp := exp }
/-- Whether a window record breaks Table LNK-4. -/
def winBad (bs : List Byte) : Bool :=
  let w := winOf bs 0 0 0
  w.kind < 1 || 2 < w.kind || w.size % 4096 != 0 || w.size < 4096 || 2 ^ 41 < w.size || 2 < w.cls || (bs.drop 0x16).any (· != 0) ||
    (w.kind == 1 && (w.base % 4096 != 0 || 2 ^ 57 < w.base + w.size || (1024 ≤ w.peer && w.peer != 0xFFFF) || w.pexp != 0)) ||
    (w.kind == 2 && (w.base != 0 || 1024 ≤ w.peer || 4096 ≤ w.pexp))
/-- Whether an import names a registered export: another package's answer is a free value (DESIGN CHOICE, log 21). -/
def State.peerHas (s : State) (w : Win) : Bool × State :=
  if w.peer = s.pkgNo then ((s.export? w.pexp).isSome, s)
  else let (k, s) := s.pick [0, 1]; (k == 1, s)
def execWinReg (c : Cmd) (s : State) : Out :=
  s.command c true 3 (c.arg 0 < 4096 && c.arg 1 < 4096) (some 2) fun s => s.withCtx c (c.arg 0) fun x =>
    match (s.vread x 0 0 (c.arg 2) 32).1 with
    | none => .next (s.answer c 0x15 0)
    | some bs =>
      if winBad bs || (s.win? x.num (c.arg 1)).isSome then .next (s.answer c 0x15 0)
      else
        let w := winOf bs x.num (c.arg 1) 0
        if w.kind = 2 then
          let (ok, s) := s.peerHas w
          if ok then .next (({ s with wins := s.wins ++ [w] }).answer c 0 0) else .next (s.answer c 0x15 0)
        else
          let free := (List.range 4096).filter fun e => (s.export? e).isNone
          if free.isEmpty then .next (s.answer c 0x15 0)
          else
            let (e, s) := s.pick free
            .next (({ s with wins := s.wins ++ [{ w with exp := e }] }).answer c 0 e)

/-! ## The root of trust and the power core (R383 to R385, R389, R395) -/

/-- Words of a fuse bank that raises may burn (R383). -/
def fuseRaises : Nat := 63
def execFuseRaise (c : Cmd) (s : State) : Out :=
  let v := c.arg 1
  s.command c true 2 (c.arg 0 < 2 && v < 65536) none fun s =>
    let now := if c.arg 0 = 0 then s.fwsv else s.codesv
    let used := if c.arg 0 = 0 then s.fuseFw else s.fuseCode
    if v ≤ now then .next (s.answer c 0x22 0)
    else if fuseRaises ≤ used then .next (s.answer c 0x23 0)
    else if c.arg 0 = 0 then .next (({ s with fwsv := v, fuseFw := s.fuseFw + 1 }).answer c 0 0)
    else
      let s : State := { s with codesv := v, fuseCode := s.fuseCode + 1, kernels := s.kernels.map fun (k : Kernel) =>
        if k.sv < v ∧ (k.st = .loaded ∨ k.st = .active) then { k with st := .retiring } else k }
      .next (s.retireIdle.answer c 0 0)
/-- HANDOVER: the owner gives up ownership to the master of a token (R385). -/
def execHandover (c : Cmd) (s : State) : Out :=
  let t : BitVec 128 := BitVec.ofNat 128 (c.arg 0 + 2 ^ 64 * c.arg 1)
  s.command c true 2 (t != 0) none fun s =>
    .next (({ s with owner := none, handover := some (t, s.ct) }).answer c 0 0)
/-- The signed part of an attestation report (Table PLT-2). -/
def State.reportBody (s : State) (nonce : List Byte) : List Byte :=
  nonce ++ s.mr.flatMap bytes256 ++ leBytes 2 s.fwsv ++ leBytes 2 s.codesv ++ leBytes 1 s.pkg.code ++ List.replicate 11 0
def execAttest (c : Cmd) (s : State) : Out :=
  s.command c false 2 true none fun s => match s.busRead (c.arg 0) 32 with
    | none => .next (s.answer c 0x32 0)
    | some nonce =>
      let body := s.reportBody nonce
      let sig := (List.range 96).map (Config.attestSig body s.free)
      match (({ s with free := s.free + 1 }).busWrite (c.arg 1) (body ++ sig ++ List.replicate 16 0)) with
      | none => .next (s.answer c 0x32 0)
      | some s => .next (s.answer c 0 0)
def execPowerCap (c : Cmd) (s : State) : Out :=
  s.command c true 1 (1 ≤ c.arg 0 && c.arg 0 ≤ s.pkg.limit 0) none fun s =>
    .next (({ s with pwrcap := c.arg 0 }).answer c 0 0)
/-- RESET: the response, then a package reset, whose boot PACKAGE_RESET gives (R389). It is served after a fatal error too
(R393). -/
def execReset (c : Cmd) (s : State) : Out :=
  if s.fatalNow then
    (if s.owner != some c.master then .next (s.answer c 0x20 0)
     else if c.resv != 0 || c.args.any (· != 0) then .next (s.answer c 0x31 0)
     else .next (s.answer c 0 0).warm)
  else s.command c true 0 true none fun s => .next (s.answer c 0 0).warm

/-- Serve a command that was held: it names a context (R123). -/
def execHeld (c : Cmd) (s : State) : Out := match c.opc with
  | 0x01 => execLoad c s
  | 0x02 => execUnload c s
  | 0x10 => execCtxCreate c s
  | 0x11 => execCtxUpdate c s
  | 0x20 => execKeyLoad c s
  | 0x40 => execQCreate c s
  | 0x50 => execWinReg c s
  | _ => execCtxDestroy c s

end Sys2Proof.Machine
end

