-- ==== Sys2Proof/Machine/Sched.lean ====
section
/-!
DEFINITION. What happens next on a package (DESIGN CHOICE, log 3): the events that the device itself brings about,
the grants of the issue
quarters (R85, R103, R233), the fetch of the instruction that issues (R32 to R35, R53, R332), and the clock (R11, R394).
-/
namespace Sys2Proof.Machine

/-- An outcome that is a next state. -/
def occurs : Out → Option Out
  | .next s => some (.next s)
  | _ => none

/-! ## Flights (R55 to R57) -/

/-- Every flight, with its block and group. -/
def State.allFlights (s : State) : List (Nat × Nat × Flight) :=
  s.blocks.flatMap fun b => b.groups.flatMap fun g => g.flights.map fun f => (b.id, g.index, f)
/-- The flight that completes next in this cc. -/
def State.dueFlight (s : State) : Option (Nat × Nat × Flight) :=
  ((s.allFlights.filterMap fun x => match x.2.2.due with
    | some d => if d ≤ s.cc ∧ !x.2.2.arrived then some (d, x) else none
    | none => none).foldl (fun best x => match best with
      | none => some x
      | some y => if flightBefore (x.1, x.2.2.2) (y.1, y.2.2.2) then some x else some y) none).map (·.2)
/-- The completion of the flight that is due. -/
def State.flightEvent (s : State) : Option Out := s.dueFlight.map fun (b, g, f) =>
  if f.fixed then execFixedResultComplete b g f.id s
  else if f.store then execStoreCompletion b g f.id s
  else execVariableResultArrival b g f.id s

/-! ## Engines (R216 to R231, R258, R265, R277, R334) -/

/-- Whether a block's engine contexts go on: it is not saved (R231), and its context is not FAULTED. -/
def State.enginesGo (s : State) (b : Block) : Bool := b.st != .saved && (s.ctx? b.ctx).any (·.st != .faulted)
/-- The page service, where the windows serve a fault. -/
def State.serveEvent (s : State) (what : EngReq) : Option Out :=
  (s.engFault what).bind fun (die, c, addr) =>
    if (s.touchPage c die addr).1 then occurs (execPageService what false s) else none
/-- Whether a request must complete now to meet its tick: nothing has slowed it (R226). -/
def State.promiseDue (s : State) (r : CopyReq) : Bool := !r.late && r.tags.isEmpty && decide (r.tick < s.ct + 3)
/-- The event of a copy request. -/
def State.copyEvent (s : State) (b : Block) (r : CopyReq) : Option Out :=
  let due : Bool := r.due.any (· ≤ s.cc)
  match r.st with
  | .issued =>
    if due && (b.reqs.find? (·.st == .issued)).any (·.id == r.id) then occurs (execCopyAcknowledge b.id r.id s) else none
  | .moving =>
    if r.op = 13 ∧ !s.activePort then occurs (execPutLinkTimeout (.request b.id) r.id s)
    else if due || s.promiseDue r then occurs (execCopyCompletion b.id r.id s) else none
  | .faulted => s.serveEvent (.copy b.id r.id)
  | .done => none
/-- The event of a bead. -/
def State.beadEvent (s : State) (b : Block) (x : Bead) : Option Out :=
  if x.st = .running ∧ x.due.any (· ≤ s.cc) then occurs (execTaskCompletion b.id x.num s)
  else if x.fault.isSome then s.serveEvent (.task b.id x.num) else none
/-- A `pginv` completes once the operations that used the translations it dropped have completed (R337). -/
def State.invalEvent (s : State) : Option Out :=
  (s.allFlights.find? fun x => x.2.2.fence.any fun us => us.all fun u => !s.goesOn u).bind fun x =>
    occurs (execVariableResultArrival x.1 x.2.1 x.2.2.id s)
/-- The cores that hold blocks. -/
def State.busyCores (s : State) : List (Nat × Nat) := (s.blocks.map fun b => (b.die, b.core)).eraseDups
/-- Events of the engines. -/
def State.engineEvent (s : State) : Option Out :=
  (s.ctxs.findSome? fun c => (c.tidPend.find? fun t => t.2.2.2 ≤ s.cc).bind fun t => occurs (execTidAcknowledge c.num t.1 s)) <|>
  (s.blocks.findSome? fun b => if !s.enginesGo b then none else
    (b.reqs.findSome? (s.copyEvent b)) <|> (b.mtx.beads.findSome? (s.beadEvent b)) <|> occurs (execBankTake b.id s)) <|>
  (s.busyCores.findSome? fun x =>
    occurs (execBeadStart ⟨x.1, x.2⟩ .matrix s) <|> occurs (execBeadStart ⟨x.1, x.2⟩ .drain s)) <|>
  s.invalEvent

/-! ## Paths (R15, R34, R86, R210, R289, R398) -/

/-- The first event of a slotted path of some group that goes on. -/
def State.onPaths (s : State) (event : PRef → Block → Ctx → Group → Path → Option Out) : Option Out :=
  s.blocks.findSome? fun b => (s.ctx? b.ctx).bind fun c => b.groups.findSome? fun g =>
    if !s.goes b g then none
    else [0, 1].findSome? fun slot => (g.path? slot).bind (event { blk := b.id, grp := g.index, slot := slot } b c g)
/-- A header that a path stands at takes no issue slot (R21): the end of its DRAIN wait, a cancellation at the clause boundary,
or its checks (R15, R34, R53). -/
def State.headEvent (s : State) (r : PRef) (b : Block) (c : Ctx) (g : Group) (p : Path) : Option Out :=
  if !g.fences.isEmpty || g.suspends then none
  else match p.cond with
    | .drain => occurs (execHeaderDrainEnd r s)
    | .ready =>
      if p.index = 15 ∧ !p.hdrDone ∧ p.start ≤ s.cc ∧ p.held.isNone ∧ (g.poisoned? p).isNone
      then (if (g.cancelDue p).isSome then none else some (.next (s.reachHeader r c b g p))) else none
    | _ => none
/-- A cancellation of a path that waits or stands at a header, or whose group waits for fences (R15): after the traps of the cc, a
wait's that has ended with a fault among them (R83). -/
def State.cancelEvent (s : State) (r : PRef) (g : Group) (p : Path) : Option Out :=
  let faulted : Bool := match p.cond with | .ended _ _ (some _) => true | _ => false
  let atHead : Bool := p.cond == .ready && p.index == 15 && !p.hdrDone && decide (p.start ≤ s.cc) && p.held.isNone &&
    (g.poisoned? p).isNone
  if !faulted && ((p.waiting s.cc).isSome || !g.fences.isEmpty || atHead) then occurs (execCancelDelivery r s) else none
/-- POISON that arrives while a group suspends is taken at the `suspend`, whichever of its paths has the lanes (R289). -/
def State.suspendPoison (s : State) (r : PRef) (g : Group) (p : Path) (f : Flight) : State :=
  let s := s.updGroup r.blk r.grp (·.cleared f.id)
  match f.poison with
  | some (m, addrs) =>
    let m := m &&& ~~~g.exited
    if m = 0 then s
    else s.trapAt r { cause := 0x0B, lane := true, fmask := m, exta := true, faddr := addrs.getD (lowLane m) 0, ext := addrs }
      f.words p.clause p.index
  | none => s
/-- Whether a wait of a path ends with a trap now. -/
def State.waitTraps (s : State) (r : PRef) : Bool := match s.waiter? r with
  | none => false
  | some x => match x.fin with
    | some f => f.isSome
    | none => match s.waitEnd r x.c x.b x.on with
      | .pending => false
      | .fault _ _ => true
      | .met s => match x.on with
        | .bind a _ d => s.bindTraps x.c x.b x.g a d
        | _ => false
/-- The traps that the end of a wait, a seal or a fence brings a path. -/
def State.trapEvent (s : State) (r : PRef) (b : Block) (c : Ctx) (g : Group) (p : Path) : Option Out :=
  if !g.fences.isEmpty then none
  else match p.cond with
    | .suspending d la hs kills w => match g.flights.find? (·.arrived) with
      | some f => some (.next (s.suspendPoison r g p f))
      | none =>
        if g.suspendReady b && (s.sealFault c b p.mask la (s.locketOf c b (g.without kills) r p d hs w).length).1.isSome then
          occurs (execSuspendSeal r s) else none
    | .wait _ _ | .ended _ _ _ => if s.waitTraps r then (s.pollWait r).map .next else none
    | _ => none
/-- A seal, or the end of a wait. -/
def State.waitEvent (s : State) (r : PRef) (g : Group) (p : Path) : Option Out :=
  if !g.fences.isEmpty then none
  else match p.cond with
    | .suspending _ _ _ _ _ => occurs (execSuspendSeal r s)
    | .wait (.nap _ _ _ _) _ => occurs (execNapWake r s) <|> ((s.pollWait r).map .next)
    | .wait _ _ | .ended _ _ _ => (s.pollWait r).map .next
    | _ => none
/-- The end of a wait of an interrupted path of the other slot (R398). -/
def State.otherEvent (s : State) (b : Block) (g : Group) : Option Out :=
  (List.range g.traps.length).findSome? fun i => (g.traps.reverse[i]?).bind fun t =>
    (s.pollWait { blk := b.id, grp := g.index, slot := 2 * (i + 1) + (1 - t.slot) }).map .next
/-- The end of a handler's first 20,000 ct. -/
def State.guardEvent (s : State) (b : Block) (g : Group) : Option Out := occurs (execHandlerGuardExpiry b.id g.index s)
/-- Headers that paths stand at. -/
def State.headsEvent (s : State) : Option Out := s.onPaths s.headEvent
/-- Cancellations of paths that wait. -/
def State.cancelsEvent (s : State) : Option Out := s.onPaths fun r _ _ g p => s.cancelEvent r g p
/-- The first event of a group that goes on. -/
def State.onGroups (s : State) (event : Block → Group → Option Out) : Option Out :=
  s.blocks.findSome? fun b => b.groups.findSome? fun g => if s.goes b g then event b g else none
/-- Traps that no issue brings: of waits, of seals and of fences. -/
def State.trapsEvent (s : State) : Option Out :=
  s.onPaths s.trapEvent <|> s.onGroups fun b g => (s.fenceReport b g).map .next
/-- The ends of waits, of seals and of handlers' guards. -/
def State.waitsEvent (s : State) : Option Out :=
  s.onPaths (fun r _ _ g p => s.waitEvent r g p) <|>
  s.onGroups fun b g => if g.traps.isEmpty then none else s.otherEvent b g <|> s.guardEvent b g

/-! ## Blocks and contexts (R104, R118, R119, R235, R240 to R243, R295, R301, R315, R317) -/

/-- Events of a block. -/
def State.blockEvent (s : State) (b : Block) : Option Out :=
  match s.ctx? b.ctx with
  | none => none
  | some c =>
    if c.st = .faulted then none
    else
      (if b.groups.any (s.goes b) then occurs (execFenceWaitEnd b.id s) else none) <|>
      occurs (execBlockCompletion b.id s) <|>
      (if c.st = .running then occurs (execPromotionResident b.id s) else none)
/-- The effort for a target of a promotion to res that is not placed (R240). -/
def State.itemEvent (s : State) (i : Item) : Option Out :=
  if (s.ctx? i.ctx).any (·.st == .running) then occurs (execPromotionResident i.id s) else none
/-- A block that is to be saved goes on to that, or its drain ends (R315). -/
def State.preemptEvent (s : State) : Option Out := s.blocks.findSome? fun b =>
  if (s.ctx? b.ctx).any (·.st != .faulted) then
    (if b.st = .stopping then occurs (execPreemptRequest b.id s) else none) <|> occurs (execPreemptDrainTimeout b.id s)
  else none
/-- The first saved block of a class that some core of its die can take is restored, on its own core where it can be, else on one
that the device chooses; in a context that is switched in, its res blocks go first (R243). `held` keeps back the opt blocks of the
contexts that run. -/
def State.restoreEvent (s : State) (cls : Nat) (held : Bool) : Option Out := s.returnOrder.findSome? fun b =>
  let cs := s.restoreNow b
  if cs.isEmpty ∨ s.curClass b ≠ cls ∨ !(s.ctx? b.ctx).any (fun c => c.letsBack b.id && !(held && c.st == .running)) then none
  else if cs.contains b.core then occurs (execBlockRestore b.id ⟨b.die, b.core⟩ s)
  else let (k, s) := s.pick cs; occurs (execBlockRestore b.id ⟨b.die, k⟩ s)
/-- Place the first block of a class in the order of R235 that some core admits, on a core that the device chooses. -/
def State.placeEvent (s : State) (cls : Nat) : Option Out := s.ordered.findSome? fun i =>
  let cs := s.coresFor i
  let cs := if cls = 0 then cs.filter fun x => !s.effortOn x.1 x.2 else cs
  if cs.isEmpty ∨ s.itemClass i ≠ cls then none
  else
    let (k, s) := s.pick (List.range cs.length)
    let x := cs.getD k (0, 0)
    occurs (if i.locket.isSome then execLocketPlacement i.id ⟨x.1, x.2⟩ s else execBlockPlacement i.id ⟨x.1, x.2⟩ s)
/-- The stewards spill (R118). -/
def State.spillEvent (s : State) : Option Out := s.busyCores.findSome? fun x => occurs (execStewardSpill ⟨x.1, x.2⟩ s)
/-- A spilled group of a core returns, if its class is the one given (R119). -/
def State.returnEvent (s : State) (cls : Nat) (x : Nat × Nat) : Option Out :=
  (s.nextReturn x.1 x.2).bind fun y =>
    if s.curClass y.1 = cls ∧ (0 < cls ∨ !s.effortOn x.1 x.2) then occurs (execSpillReturn y.1.id y.2.index s) else none
/-- Events of a context: a switch goes on; its resume queues are served. -/
def State.ctxEvent (s : State) (c : Ctx) : Option Out := match c.st with
  | .switching => occurs (if c.incoming then execContextSwitchIn c.num s else execContextSwitchOut c.num s)
  | .running => occurs (execResumeQueueService c.num s)
  | _ => none
/-- Whether an evt item has waited half of its service bound, and no core takes it, though nothing else holds it back (R235; DESIGN
CHOICE, log 63). -/
def State.pressed (s : State) (i : Item) : Bool :=
  s.itemClass i == 1 && i.limit.any (fun l => decide (i.ready + l ≤ 2 * s.ct)) && (s.coresFor i).isEmpty &&
    match s.ctx? i.ctx, s.kernel? i.kobj with
    | some c, some k => s.mayPlace i c (i.shape k).1
    | _, _ => false
/-- The same of the head entry of a resume queue. -/
def State.rqPressed (s : State) (c : Ctx) (q : ResumeQ) : Bool :=
  c.st == .running && q.en && q.head != q.tail && q.limit.isSome && match (s.rqResume c q).1 with
    | .inr i => s.pressed i
    | .inl _ => false
/-- Whether work with a service bound presses: until it is placed no opt block is placed, restored or returned. -/
def State.pressing (s : State) : Bool := s.items.any s.pressed || s.ctxs.any fun c => c.rqs.any (s.rqPressed c)
/-- The youngest opt block that runs and that no reference holds. -/
def State.boundVictim (s : State) : Option Block :=
  (s.blocks.filter fun b => b.st == .running && s.curClass b == 0 && (s.ctx? b.ctx).any (·.st == .running) &&
      !s.refs.any fun r => r.block == some b.id || r.covers b.ctx b.lvl b.jrec).foldl (fun best b => match best with
    | none => some b
    | some x => if x.id < b.id then some b else some x) none
/-- To keep a service bound, one opt block at a time is pre-empted (R235; DESIGN CHOICE, log 63). -/
def State.boundEvent (s : State) : Option Out :=
  if s.blocks.any (fun b => b.st != .running && b.st != .saved) then none
  else if s.pressing then
    s.boundVictim.bind fun b => occurs (execPreemptRequest b.id s)
  else none
/-- A CTX_DESTROY that a switch held (Table CTX-3). -/
def State.heldEvent (s : State) : Option Out :=
  match s.heldCmds.findIdx? fun c => !(s.ctx? (ctxNamed c)).any (·.st == .switching) with
  | none => none
  | some k => (s.heldCmds[k]?).map fun c =>
    let later := s.heldCmds.drop (k + 1)
    let s := { s with heldCmds := s.heldCmds.take k }
    match execHeld c s with
    | .next s => .next { s with heldCmds := s.heldCmds ++ later }
    | x => x
/-- Events of blocks, contexts, stewards and placement. -/
def State.placesEvent (s : State) : Option Out :=
  s.blocks.findSome? s.blockEvent <|>
  s.refs.findSome? (fun r => if r.budget.any (· ≤ s.ct) then occurs (execPromotionBudgetExpiry r.id s) else none) <|>
  s.heldEvent <|>
  s.ctxs.findSome? s.ctxEvent <|>
  s.items.findSome? (fun i => occurs (execPlacementAgeing i.id s)) <|>
  s.spawnGo.map .next <|>
  [2, 1, 0].findSome? (fun cls =>
    let held : Bool := cls == 0 && s.pressing
    (if held then none else s.busyCores.findSome? (s.returnEvent cls)) <|> s.restoreEvent cls held <|>
      (if held then none else s.placeEvent cls)) <|>
  s.items.findSome? s.itemEvent <|>
  s.boundEvent

/-! ## The front end and the link (R353 to R358, R364, R375, R385) -/

/-- The packet that a queue has taken up is carried out. -/
def State.runPacket (s : State) (q typ : Nat) : Out := match typ with
  | 0 => execNopPacket q s
  | 1 => execLaunch q s
  | 2 => execGraph q s
  | 3 => execRecord q s
  | 4 => execCallIb q s
  | 5 => execSignal q s
  | 6 => execWaitPacket q s
  | _ => execLocketPush q s
/-- Events of a queue. -/
def State.queueEvent (s : State) (q : UQueue) : Option Out :=
  occurs (execQtlAdvance q.num s) <|>
  (if q.st = .saving then some (.next ((s.queueSaved q).fillSlots 1)) else none) <|>
  s.serveEvent (.queue q.num) <|>
  (if q.st != .active || !(s.ctx? q.ctx).any (·.st == .running) then none
   else match q.pkt with
    | some p => occurs (s.runPacket q.num p.1)
    | none => occurs (execPacketTakeup q.num s) <|> occurs (execPacketHeaderRetry q.num s))
/-- Events of ports: training that takes too long, too many replays, and what fails when no port has been active for 10 ms (R375). -/
def State.linkEvent (s : State) : Option Out :=
  (List.range s.pkg.ports).findSome? (fun n => occurs (execTrainingTimeout n s) <|> occurs (execPortRetrain ⟨n, false⟩ s)) <|>
  if !s.linkFailed then none
  else
    (s.wins.findSome? fun w => w.owners.findSome? fun o => occurs (execPutLinkTimeout (.window w.ctx w.index) o.1 s)) <|>
    occurs (execPutLinkTimeout .accesses 0 s)
/-- Events of the front end, of ports, of firmware and of ownership. -/
def State.frontEvent (s : State) : Option Out :=
  s.uqs.findSome? s.queueEvent <|>
  (List.range s.nodes.length).findSome? (fun n => occurs (execNodeBatchFull n s) <|> occurs (execNodeBatchTimer n s)) <|>
  (if s.uqs.isEmpty then none
   else occurs (execTailReconcile s) <|> (if s.lastPass + 1000000 ≤ s.ct then occurs (execSchedulerPass s) else none)) <|>
  s.linkEvent <|>
  (s.nextDirty.map fun x => .next (s.scrub x.1 x.2)) <|>
  occurs (execHandoverTimeout s)

/-- Events that come before a cc's grants: results that become visible, and headers (DESIGN CHOICE, log 3). -/
def State.before (s : State) : Option Out := s.flightEvent <|> s.headsEvent
/-- Events that follow a cc's instructions: the engines' (R208), then traps that no issue brings, then cancellations (R83). -/
def State.after (s : State) : Option Out := s.engineEvent <|> s.trapsEvent <|> s.cancelsEvent
/-- Events that follow those: pre-emption, spills, and then all others (R83). -/
def State.others (s : State) : Option Out :=
  s.preemptEvent <|> s.spillEvent <|> s.waitsEvent <|> s.placesEvent <|> s.frontEvent

/-! ## Fetching (R32 to R35, R53, R54, R332) -/

/-- What a grant comes to: an instruction to execute, a state in which the path has done something else with the issue slot, or
one in which it has taken no issue slot (R21). -/
inductive Fetched
  | run (i : Instr) (s : State)
  | done (s : State)
  | free (s : State)
/-- The trap of words that are no instruction (R54). -/
def opFault (e : OpErr) : Fault2 := grpFault 0x01 e.code
/-- Instruction i of the clause that a path stands at, after its header's word: the checks of R53 again, since the path may have
re-entered the clause (R35), then the instruction's words. -/
def State.fetchIn (s : State) (r : PRef) (c : Ctx) (b : Block) (g : Group) (p : Path) (hw : W32) : Fetched :=
  let h := Header.ofWord hw
  let i := if p.index = 15 then 0 else p.index
  match h.err with
  | some sub => .free (s.trapAt r (clauseFault sub) { hdr := hw } p.clause 15)
  | none =>
    if i = h.count then .free (s.updPath r fun p => { p with clause := p.clause + h.bytes, index := 15, hdrDone := false })
    else if h.count < i then .free (s.trapAt r (clauseFault 5) { hdr := hw } p.clause 15)
    else match s.fetchWords c b g p.clause i hw with
      | (.inl f, s) => .done (s.trapAt r f { hdr := hw } p.clause i)
      | (.inr w, s) =>
        let s := s.updPath r fun p => { p with index := i, cond := .ready }
        match w.decode i with
        | .error e => .done (s.trapAt r (opFault e) w p.clause i)
        | .ok x => .run x { s with cur := some { ref := r, words := w } }
/-- The instruction that a path stands at, with the state in which it issues; before it a held fault (R398), POISON (R160) or a
cancellation held back by a handler (R308). -/
def State.fetchAt (s : State) (r : PRef) (c : Ctx) (b : Block) (g : Group) (p : Path) : Fetched :=
  match p.held, g.poisoned? p with
  | some (f, w), _ => .done ((s.updPath r fun p => { p with held := none }).trapAt r f w p.clause p.index)
  | none, some f =>
    if f.poison.any (fun x => x.1 &&& p.mask != 0) then .done (s.poisonTrap r p f) else .free (s.poisonTrap r p f)
  | none, none =>
    if p.index = 15 ∧ !p.hdrDone then .free (s.updPath r fun p => { p with cond := .ready })
    else match (if p.owesCancel then g.cancelDue p else none) with
      | some f => .done (s.cancelTrap r f {} p.clause p.index)
      | none => match s.fetch c b g p.clause with
        | (.inl f, s) => .free (s.trapAt r f {} p.clause 15)
        | (.inr hw, s) => s.fetchIn r c b g p hw
/-- The grant of a path: what comes of it, and whether it takes the quarter's issue slot. `ex` executes an instruction. -/
def State.issueBy (ex : Instr → State → Out) (s : State) (r : PRef) : Out × Bool :=
  match s.block? r.blk with
  | none => (.fault .noIssuer, true)
  | some b => match b.groups[r.grp]?, s.ctx? b.ctx with
    | some g, some c => match g.path? r.slot with
      | none => (.fault .noIssuer, true)
      | some p => match s.fetchAt r c b g p with
        | .done t => (.next t, true)
        | .free t => (.next t, false)
        | .run i t => (ex i t, true)
    | _, _ => (.fault .noIssuer, true)

/-! ## Grants (R85, R103, R233) -/

/-- The path of a reference. -/
def State.pathAt (s : State) (r : PRef) : Option Path := (s.group? r.blk r.grp).bind (·.path? r.slot)
/-- Whether a path is stalled. -/
def Path.isStalled (p : Path) : Bool := match p.cond with | .stalled _ => true | _ => false
/-- A candidate of a quarter: its path, its class and its place in the round-robin order. -/
structure Cand where
  ref : PRef
  cls : Nat
  pos : Nat
  yielded : Bool
  stalled : Bool
  turn : Bool                  -- whether its group's turn names its slot
  deriving DecidableEq, Repr
/-- The candidates of a block on a quarter: a path that is stalled is a candidate when it would not stall again. -/
def State.candsOf (ex : Instr → State → Out) (s : State) (q : Nat) (b : Block) : List Cand :=
  (b.groups.filter fun g => s.grantable b g && g.slotNo.any (fun n => n / 16 == q)).flatMap fun g => [0, 1].filterMap fun slot =>
    let r : PRef := { blk := b.id, grp := g.index, slot := slot }
    (g.path? slot).bind fun p =>
      let c : Cand := { ref := r, cls := s.curClass b, pos := 2 * g.slotNo.getD 0 + slot, yielded := false, stalled := false,
                        turn := g.turn == slot }
      if !g.mayIssue p s.cc then none
      else match p.cond with
        | .ready => some c
        | .yielded l => some { c with yielded := !l.isEmpty }
        | .stalled (.spawnQ _ _) => none
        | .stalled _ => match (s.issueBy ex r).1 with
          | .next t => if (t.pathAt r).any Path.isStalled then none else some { c with stalled := true }
          | _ => none
        | _ => none
/-- The eligible paths of a quarter: a `yield` holds while another path is eligible (R103); of a group's two, the one that the
turn names (R85). -/
def State.eligible (ex : Instr → State → Out) (s : State) (die core q : Nat) : List Cand :=
  let cs := (s.onCore die core).flatMap (s.candsOf ex q)
  let cs := if cs.any (!·.yielded) then cs.filter (!·.yielded) else cs
  cs.filter fun c => c.turn || !cs.any fun d => d.ref.blk == c.ref.blk && d.ref.grp == c.ref.grp && d.turn
/-- The position that a class of a quarter was granted last. -/
def State.rrLast (s : State) (die core q cls : Nat) : Option Nat := (s.rr.find? (·.1 == (die, core, q, cls))).map (·.2)
/-- Round-robin: the first position after the last one, else the lowest. -/
def nextRound (last : Option Nat) (cs : List Cand) : Option Cand :=
  let low := fun (cs : List Cand) => cs.foldl (fun best c => match best with
    | none => some c
    | some d => if c.pos < d.pos then some c else some d) none
  match last with
  | none => low cs
  | some n => match low (cs.filter fun c => n < c.pos) with
    | some c => some c
    | none => low cs
/-- The classes in the order in which a cc grants them (R233). -/
def grantOrder (cc : Nat) : List Nat := if cc % 2 = 0 then [2, 1, 0] else [1, 0, 2]
/-- The grant of a quarter. -/
def State.choose (ex : Instr → State → Out) (s : State) (die core q : Nat) : Option Cand :=
  let cs := s.eligible ex die core q
  (grantOrder s.cc).findSome? fun k => nextRound (s.rrLast die core q k) (cs.filter (·.cls == k))
/-- A path has issued: no path of its quarter waits for it any more; a `yield` that waits for no other is over (R103). -/
def Path.sawIssue (who : Nat × Nat × Nat) (p : Path) : Path := match p.cond with
  | .yielded l => { p with cond := if (l.filter (· != who)).isEmpty then .ready else .yielded (l.filter (· != who)) }
  | .park l => { p with cond := .park (l.filter (· != who)) }
  | _ => p
/-- The number of an issue quarter of the package. -/
def quarterNo (die core q : Nat) : Nat := 4 * (56 * die + core) + q
/-- After a grant: the quarter has had its turn in this cc, its round-robin order has moved on, and paths that yielded have seen it
where it came to an issue. A path that obtained its registers lets the steward's count start again (R118). -/
def State.granted (s : State) (die core q : Nat) (c : Cand) (issued gotRegs : Bool) : State :=
  let who := (c.ref.blk, c.ref.grp, c.ref.slot)
  let s : State := { s with
    cur := none, quarter := quarterNo die core q + 1
    rr := ((die, core, q, c.cls), c.pos) :: s.rr.filter (·.1 != (die, core, q, c.cls))
    blocks := s.blocks.map fun b => if !issued || b.die != die || b.core != core then b else
      { b with groups := b.groups.map fun g => if g.slotNo.any (fun n => n / 16 == q)
          then { g with slot0 := g.slot0.map (Path.sawIssue who), slot1 := g.slot1.map (Path.sawIssue who) } else g } }
  if gotRegs then s.setSteward die core 0 else s
/-- Whether a path is stalled on an allocation. -/
def State.wantsRegs (s : State) (r : PRef) : Bool := (s.pathAt r).any fun p => match p.cond with
  | .stalled (.regs _ _ _ _) => true
  | _ => false
/-- Whether the registers that a path was stalled on have been obtained: a flight that writes some is there, or a handler's end has
loaded them (R112, R118, R308). -/
def State.gotRegs (s t : State) (r : PRef) : Bool :=
  s.wantsRegs r && match s.group? r.blk r.grp, t.group? r.blk r.grp with
    | some g, some h => h.flights.any (fun f => s.uid ≤ f.id && !f.writes.isEmpty) || h.traps.length < g.traps.length
    | _, _ => false
/-- Whether a grant came to an issue: an instruction was executed, and its path neither stalls nor waits to issue it again (R89, R103,
R112; an instruction that faults counts, DESIGN CHOICE, log 77). -/
def State.hasIssued (s t : State) (r : PRef) : Bool :=
  t.cur.isSome && match s.pathAt r, t.pathAt r with
    | some p, some q => (match q.cond with
      | .stalled (.spawnQ _ _) => true
      | .stalled _ => false
      | .park _ => !(q.clause == p.clause && q.index == (if p.index = 15 then 0 else p.index))
      | _ => true)
    | _, _ => true
/-- The quarters that still have their turn in this cc, in order. -/
def State.turnsLeft (s : State) : List (Nat × Nat × Nat) :=
  ((s.busyCores.flatMap fun x => [0, 1, 2, 3].map fun q => (x.1, x.2, q)).filter fun x =>
    s.quarter ≤ quarterNo x.1 x.2.1 x.2.2).foldr
      (insertBy fun x y => decide (quarterNo x.1 x.2.1 x.2.2 < quarterNo y.1 y.2.1 y.2.2)) []
/-- The next grant of this cc: the quarters issue in their order (R208, R218), each at most once; what takes no issue slot leaves
the quarter its turn. A granted path that only stalls has used it up (DESIGN CHOICE, log 77: R85 counts instructions). -/
def State.grant (ex : Instr → State → Out) (s : State) : Option Out :=
  s.turnsLeft.findSome? fun (die, core, q) =>
    (s.choose ex die core q).map fun c => match s.issueBy ex c.ref with
      | (.next t, true) => .next (t.granted die core q c (s.hasIssued t c.ref) (s.gotRegs t c.ref))
      | (.next t, false) => .next { t with cur := none, quarter := quarterNo die core q }
      | (o, _) => o
/-- Every quarter has had its turn in this cc. -/
def State.turnsOver (s : State) : State := { s with quarter := quarterNo 24 0 0 }

/-! ## The clock (R11, R118, R394) -/

/-- Cores on which a slotted path is stalled on an allocation. -/
def State.starved (s : State) : List (Nat × Nat) :=
  ((s.blocks.filter fun b => b.groups.any fun g => g.isResident && [g.slot0, g.slot1].any fun p => match p with
    | some p => (match p.cond with | .stalled (.regs _ _ _ _) => true | _ => false)
    | none => false).map fun b => (b.die, b.core)).eraseDups
/-- One cc passes: chip time advances by 1000 / F ct, and each steward whose core starves counts. -/
def State.tick (s : State) : State :=
  let f := dvfsF s.dvfs
  let n := s.ctFrac + 61200000 / f
  let s : State := { s with
    cc := s.cc + 1, ct := (s.ct + n / 61200) % 2 ^ 64, ctFrac := n % 61200, quarter := 0
    blocks := s.blocks.map fun b => if b.groups.all (·.landed.isEmpty) then b else
      { b with groups := b.groups.map fun g => { g with landed := [] } } }
  s.starved.foldl (fun s x => s.setSteward x.1 x.2 (s.stewardCount x.1 x.2 + 1)) s

end Sys2Proof.Machine
end

