-- ==== Sys2Proof/Machine/Boot.lean ====
section
/-!
DEFINITION. A package that is about to issue one instruction: what stands for the boot, the commands of a driver, a load and a
launch (DEDUCED, log 23).
-/
namespace Sys2Proof.Machine

/-- Where the instruction's clause lies: its virtual and its physical address. -/
def progBase : Nat := 0x10000
/-- The page table's root; the tables of levels 3 and 2 follow at 4,096 and 8,192 bytes. -/
def progTable : Nat := 0x40000
/-- A leaf of 16 GiB at physical 0, readable, writable and executable. -/
def progLeaf : Nat := 0x1EF
/-- The header of a clause of one instruction: CLASS, COUNT 1, LONG, no DRAIN, no CLASPW (Table MAP-1). -/
def progHeader (c : Cls) (isLong : Bool) : Nat :=
  (match c with | .alu => 0 | .flt => 1 | .mem => 2 | .loc => 3 | .eng => 4 | .ctl => 5 | .sys => 6) * 2 ^ 29 + 2 ^ 25 +
    (if isLong then 1024 else 0) + 31
/-- The role that may issue an instruction: M for ENG 0 to 8, C for ENG 10 to 13, else V (R83). -/
def progRole (c : Cls) (w : W32) : Nat :=
  let op := (w.extractLsb' 24 6).toNat
  if c = .eng then (if op < 9 then 1 else if 10 ≤ op ∧ op < 14 then 2 else 0) else 0
/-- The context: its save area lies above the tables. -/
def progCtx : Ctx :=
  { num := 0, ptroot := progTable, tidbase := 0x80000, savebase := 0x100000, saveblks := 8, tenant := 0, ceil := 2,
    keys := List.replicate 16 0, rqs := List.replicate 16 {}, ftws := List.replicate 8 {}, napMiss := 0, cpMiss := 0,
    st := .running, sealKey := 0, staging := 0, tidPend := [], restore := [], incoming := false }
/-- The kernel: every register, no handler. -/
def progKernel (role : Nat) : Kernel :=
  { kobj := 0, ctx := 0, st := .active, isamin := 0, emumin := 0, emu := false, config := 1, sv := 0, cls := 1, prom := true,
    idem := false, ngroups := 1, vregs := 64, gregs := 64, vmax := 64, gmax := 64, vfloor := 16, gfloor := 16, scratch := 0,
    clasps := 4, nbind := 0, roles := [role], entry := 0, textSize := 4096, textBase := progBase, bindBase := 0,
    handlers := List.replicate 64 0xFFFFFFFF, live := 1, pages := [] }
/-- The item whose block 0 has been placed. -/
def progItem (s : State) : Item :=
  { id := 0, ctx := 0, kobj := 0, arg := 0, lrec := 0, jrec := 0, origin := .launch, nblk := 1, next := 0, stop := 1, clsL := 1,
    prom := true, prio := 0, hqEn := 0, hqCls := 0, launchNo := s.uid, ready := 0, level := 0, lanes := allLanes, locket := none,
    hdie := none, spawnCore := none }
/-- The block, its one group at instruction 0 of the clause, whose header is done. -/
def progBlock (s : State) (role : Nat) : Block :=
  let g := Group.start 0 role 0 (s.uid + 1) (s.uid + 1) 0 0 1 progBase allLanes
  let p : Path := { clause := progBase, index := 0, mask := allLanes, hdrDone := true }
  { s.newBlock (progItem s) (progKernel role) 0 0 0 0 4 with groups := [{ g with slot0 := some p }] }
/-- The words that the program and its tables hold. -/
def progWords (c : Cls) (w : W32) (x : Option W32) : List (Nat × Nat × Nat) :=
  [(progBase, 4, progHeader c x.isSome), (progBase + 4, 4, w.toNat), (progBase + 8, 4, (x.getD 0).toNat),
   (progTable, 8, progTable + 4096 + 1), (progTable + 4096, 8, progTable + 8192 + 1)] ++
    (List.range 16).map fun i => (progTable + 8192 + 8 * i, 8, progLeaf)
/-- The package whose next step issues the words: READY, one running context, one kernel, one block, and nothing else that is
due. -/
def State.aboutToIssue (s : State) (c : Cls) (w : W32) (x : Option W32) : State :=
  let role := progRole c w
  { s with
    inbox := [], cur := none, quarter := 0, stewards := [], tlb := [], migs := [], items := [], uqs := [], nodes := [], refs := [],
    heldCmds := [], handover := none, keySlots := [], granKey := [], poison := [], bootstat := 1
    ports := s.ports.map fun p => if p.st = .training then { p with st := .down } else p
    mem := (progWords c w x).foldl (fun m y => Memory.writeN m y.1 (leBytes y.2.1 y.2.2)) s.mem
    ctxs := [progCtx], kernels := [progKernel role], blocks := [progBlock s role], uid := s.uid + 2 }

end Sys2Proof.Machine
end

