-- ==== Sys2Proof/Machine/Dispatch.lean ====
section
/-!
DEFINITION. The dispatch: one arm per constructor of `Instr`, each a direct call of its meaning.
-/
namespace Sys2Proof.Machine

def exec (i : Instr) (s : State) : Host.Outcome State Fault Refusal :=
  match i with
  | .mov f => Sys2Proof.Machine.execMov f s
  | .add f => Sys2Proof.Machine.execAdd f s
  | .sub f => Sys2Proof.Machine.execSub f s
  | .mul f => Sys2Proof.Machine.execMul f s
  | .mulhi f => Sys2Proof.Machine.execMulhi f s
  | .mad f => Sys2Proof.Machine.execMad f s
  | .addw f => Sys2Proof.Machine.execAddw f s
  | .subw f => Sys2Proof.Machine.execSubw f s
  | .mulw f => Sys2Proof.Machine.execMulw f s
  | .abs f => Sys2Proof.Machine.execAbs f s
  | .andR f => Sys2Proof.Machine.execAnd f s
  | .orR f => Sys2Proof.Machine.execOr f s
  | .xorR f => Sys2Proof.Machine.execXor f s
  | .andn f => Sys2Proof.Machine.execAndn f s
  | .orn f => Sys2Proof.Machine.execOrn f s
  | .shl f => Sys2Proof.Machine.execShl f s
  | .shr f => Sys2Proof.Machine.execShr f s
  | .sar f => Sys2Proof.Machine.execSar f s
  | .rotl f => Sys2Proof.Machine.execRotl f s
  | .min f => Sys2Proof.Machine.execMin f s
  | .max f => Sys2Proof.Machine.execMax f s
  | .adds f => Sys2Proof.Machine.execAdds f s
  | .subs f => Sys2Proof.Machine.execSubs f s
  | .clz f => Sys2Proof.Machine.execClz f s
  | .ctz f => Sys2Proof.Machine.execCtz f s
  | .popc f => Sys2Proof.Machine.execPopc f s
  | .brev f => Sys2Proof.Machine.execBrev f s
  | .bfx f => Sys2Proof.Machine.execBfx f s
  | .bfi f => Sys2Proof.Machine.execBfi f s
  | .sel f => Sys2Proof.Machine.execSel f s
  | .lea f => Sys2Proof.Machine.execLea f s
  | .leaw f => Sys2Proof.Machine.execLeaw f s
  | .cmp f => Sys2Proof.Machine.execCmp f s
  | .cmpi f => Sys2Proof.Machine.execCmpi f s
  | .plog f => Sys2Proof.Machine.execPlog f s
  | .laneid f => Sys2Proof.Machine.execLaneid f s
  | .ballot f => Sys2Proof.Machine.execBallot f s
  | .mkpred f => Sys2Proof.Machine.execMkpred f s
  | .vote f => Sys2Proof.Machine.execVote f s
  | .rdlane f => Sys2Proof.Machine.execRdlane f s
  | .wrlane f => Sys2Proof.Machine.execWrlane f s
  | .perm f => Sys2Proof.Machine.execPerm f s
  | .red f => Sys2Proof.Machine.execRed f s
  | .scan f => Sys2Proof.Machine.execScan f s
  | .movi f => Sys2Proof.Machine.execMovi f s
  | .addi f => Sys2Proof.Machine.execAddi f s
  | .andi f => Sys2Proof.Machine.execAndi f s
  | .ori f => Sys2Proof.Machine.execOri f s
  | .xori f => Sys2Proof.Machine.execXori f s
  | .shli f => Sys2Proof.Machine.execShli f s
  | .shri f => Sys2Proof.Machine.execShri f s
  | .sari f => Sys2Proof.Machine.execSari f s
  | .movhi f => Sys2Proof.Machine.execMovhi f s
  | .prmt f => Sys2Proof.Machine.execPrmt f s
  | .vget f => Sys2Proof.Machine.execVget f s
  | .vput f => Sys2Proof.Machine.execVput f s
  | .bdep f => Sys2Proof.Machine.execBdep f s
  | .bext f => Sys2Proof.Machine.execBext f s
  | .fadd f => Sys2Proof.Machine.execFadd f s
  | .fsub f => Sys2Proof.Machine.execFsub f s
  | .fmul f => Sys2Proof.Machine.execFmul f s
  | .fma f => Sys2Proof.Machine.execFma f s
  | .fmin f => Sys2Proof.Machine.execFmin f s
  | .fmax f => Sys2Proof.Machine.execFmax f s
  | .fabs f => Sys2Proof.Machine.execFabs f s
  | .fneg f => Sys2Proof.Machine.execFneg f s
  | .fsign f => Sys2Proof.Machine.execFsign f s
  | .fcmp f => Sys2Proof.Machine.execFcmp f s
  | .frcp f => Sys2Proof.Machine.execFrcp f s
  | .frsq f => Sys2Proof.Machine.execFrsq f s
  | .fsqrt f => Sys2Proof.Machine.execFsqrt f s
  | .fexp2 f => Sys2Proof.Machine.execFexp2 f s
  | .flog2 f => Sys2Proof.Machine.execFlog2 f s
  | .fsinpi f => Sys2Proof.Machine.execFsinpi f s
  | .fcospi f => Sys2Proof.Machine.execFcospi f s
  | .ftanh f => Sys2Proof.Machine.execFtanh f s
  | .fdiv f => Sys2Proof.Machine.execFdiv f s
  | .frnd f => Sys2Proof.Machine.execFrnd f s
  | .fcvt f => Sys2Proof.Machine.execFcvt f s
  | .f2i f => Sys2Proof.Machine.execF2i f s
  | .i2f f => Sys2Proof.Machine.execI2f f s
  | .cvt8 f => Sys2Proof.Machine.execCvt8 f s
  | .exp8 f => Sys2Proof.Machine.execExp8 f s
  | .fscale f => Sys2Proof.Machine.execFscale f s
  | .fclass f => Sys2Proof.Machine.execFclass f s
  | .fdot2 f => Sys2Proof.Machine.execFdot2 f s
  | .fdot4b8 f => Sys2Proof.Machine.execFdot4b8 f s
  | .idot4 f => Sys2Proof.Machine.execIdot4 f s
  | .fclamp f => Sys2Proof.Machine.execFclamp f s
  | .ld f => Sys2Proof.Machine.execLd f s
  | .st8 f => Sys2Proof.Machine.execSt8 f s
  | .st16 f => Sys2Proof.Machine.execSt16 f s
  | .st32 f => Sys2Proof.Machine.execSt32 f s
  | .st64 f => Sys2Proof.Machine.execSt64 f s
  | .st128 f => Sys2Proof.Machine.execSt128 f s
  | .st256 f => Sys2Proof.Machine.execSt256 f s
  | .amadd f => Sys2Proof.Machine.execAmadd f s
  | .amin f => Sys2Proof.Machine.execAmin f s
  | .amax f => Sys2Proof.Machine.execAmax f s
  | .amand f => Sys2Proof.Machine.execAmand f s
  | .amor f => Sys2Proof.Machine.execAmor f s
  | .amxor f => Sys2Proof.Machine.execAmxor f s
  | .amxch f => Sys2Proof.Machine.execAmxch f s
  | .amcas f => Sys2Proof.Machine.execAmcas f s
  | .amfadd f => Sys2Proof.Machine.execAmfadd f s
  | .aminc f => Sys2Proof.Machine.execAminc f s
  | .fence f => Sys2Proof.Machine.execFence f s
  | .pref f => Sys2Proof.Machine.execPref f s
  | .cwb f => Sys2Proof.Machine.execCwb f s
  | .cinv f => Sys2Proof.Machine.execCinv f s
  | .sld f => Sys2Proof.Machine.execSld f s
  | .sst8 f => Sys2Proof.Machine.execSst8 f s
  | .sst16 f => Sys2Proof.Machine.execSst16 f s
  | .sst32 f => Sys2Proof.Machine.execSst32 f s
  | .sst64 f => Sys2Proof.Machine.execSst64 f s
  | .sst128 f => Sys2Proof.Machine.execSst128 f s
  | .samo f => Sys2Proof.Machine.execSamo f s
  | .halloc f => Sys2Proof.Machine.execHalloc f s
  | .hfree f => Sys2Proof.Machine.execHfree f s
  | .hpass f => Sys2Proof.Machine.execHpass f s
  | .hclaim f => Sys2Proof.Machine.execHclaim f s
  | .hinfo f => Sys2Proof.Machine.execHinfo f s
  | .fmask f => Sys2Proof.Machine.execFmask f s
  | .fmclr f => Sys2Proof.Machine.execFmclr f s
  | .qpush f => Sys2Proof.Machine.execQpush f s
  | .qpop f => Sys2Proof.Machine.execQpop f s
  | .qpopSat f => Sys2Proof.Machine.execQpopSat f s
  | .qlen f => Sys2Proof.Machine.execQlen f s
  | .sfill f => Sys2Proof.Machine.execSfill f s
  | .tidset f => Sys2Proof.Machine.execTidset f s
  | .tidget f => Sys2Proof.Machine.execTidget f s
  | .tidinv f => Sys2Proof.Machine.execTidinv f s
  | .tview f => Sys2Proof.Machine.execTview f s
  | .emask f => Sys2Proof.Machine.execEmask f s
  | .emaskCnt f => Sys2Proof.Machine.execEmaskCnt f s
  | .mma f => Sys2Proof.Machine.execMma f s
  | .drain f => Sys2Proof.Machine.execDrain f s
  | .mcont f => Sys2Proof.Machine.execMcont f s
  | .mcontDiscard f => Sys2Proof.Machine.execMcontDiscard f s
  | .mzero f => Sys2Proof.Machine.execMzero f s
  | .cpy f => Sys2Proof.Machine.execCpy f s
  | .cpyp f => Sys2Proof.Machine.execCpyp f s
  | .gath f => Sys2Proof.Machine.execGath f s
  | .put f => Sys2Proof.Machine.execPut f s
  | .tlrd f => Sys2Proof.Machine.execTlrd f s
  | .tlsig f => Sys2Proof.Machine.execTlsig f s
  | .spawn f => Sys2Proof.Machine.execSpawn f s
  | .emit f => Sys2Proof.Machine.execEmit f s
  | .bra f => Sys2Proof.Machine.execBra f s
  | .jmp f => Sys2Proof.Machine.execJmp f s
  | .call f => Sys2Proof.Machine.execCall f s
  | .callr f => Sys2Proof.Machine.execCallr f s
  | .callb f => Sys2Proof.Machine.execCallb f s
  | .ret f => Sys2Proof.Machine.execRet f s
  | .jmpr f => Sys2Proof.Machine.execJmpr f s
  | .jset f => Sys2Proof.Machine.execJset f s
  | .join f => Sys2Proof.Machine.execJoin f s
  | .cinit f => Sys2Proof.Machine.execCinit f s
  | .arrive f => Sys2Proof.Machine.execArrive f s
  | .expect f => Sys2Proof.Machine.execExpect f s
  | .wclasp f => Sys2Proof.Machine.execWclasp f s
  | .wtl f => Sys2Proof.Machine.execWtl f s
  | .nap f => Sys2Proof.Machine.execNap f s
  | .napWake r => Sys2Proof.Machine.execNapWake r s
  | .wjoin f => Sys2Proof.Machine.execWjoin f s
  | .yield f => Sys2Proof.Machine.execYield f s
  | .exit f => Sys2Proof.Machine.execExit f s
  | .suspend f => Sys2Proof.Machine.execSuspend f s
  | .suspendSeal r => Sys2Proof.Machine.execSuspendSeal r s
  | .resume f => Sys2Proof.Machine.execResume f s
  | .lkcopy f => Sys2Proof.Machine.execLkcopy f s
  | .lkdrop f => Sys2Proof.Machine.execLkdrop f s
  | .rqpush f => Sys2Proof.Machine.execRqpush f s
  | .lower f => Sys2Proof.Machine.execLower f s
  | .cancel f => Sys2Proof.Machine.execCancel f s
  | .nop f => Sys2Proof.Machine.execNop f s
  | .trap f => Sys2Proof.Machine.execTrap f s
  | .rfe f => Sys2Proof.Machine.execRfe f s
  | .csrr f => Sys2Proof.Machine.execCsrr f s
  | .csrw f => Sys2Proof.Machine.execCsrw f s
  | .ctc f => Sys2Proof.Machine.execCtc f s
  | .icsync f => Sys2Proof.Machine.execIcsync f s
  | .brk f => Sys2Proof.Machine.execBrk f s
  | .pgmap f => Sys2Proof.Machine.execPgmap f s
  | .pginv f => Sys2Proof.Machine.execPginv f s
  | .accsv f => Sys2Proof.Machine.execAccsv f s
  | .accld f => Sys2Proof.Machine.execAccld f s
  | .recordRetire rec what => Sys2Proof.Machine.execRecordRetire rec what s
  | .nopCommand c => Sys2Proof.Machine.execNopCommand c s
  | .load c => Sys2Proof.Machine.execLoad c s
  | .unload c => Sys2Proof.Machine.execUnload c s
  | .ctxCreate c => Sys2Proof.Machine.execCtxCreate c s
  | .ctxUpdate c => Sys2Proof.Machine.execCtxUpdate c s
  | .ctxDestroy c => Sys2Proof.Machine.execCtxDestroy c s
  | .keyLoad c => Sys2Proof.Machine.execKeyLoad c s
  | .keyClear c => Sys2Proof.Machine.execKeyClear c s
  | .tenantSet c => Sys2Proof.Machine.execTenantSet c s
  | .tenantClear c => Sys2Proof.Machine.execTenantClear c s
  | .qCreate c => Sys2Proof.Machine.execQCreate c s
  | .qReset c => Sys2Proof.Machine.execQReset c s
  | .qDestroy c => Sys2Proof.Machine.execQDestroy c s
  | .winReg c => Sys2Proof.Machine.execWinReg c s
  | .fuseRaise c => Sys2Proof.Machine.execFuseRaise c s
  | .handover c => Sys2Proof.Machine.execHandover c s
  | .attest c => Sys2Proof.Machine.execAttest c s
  | .powerCap c => Sys2Proof.Machine.execPowerCap c s
  | .reset c => Sys2Proof.Machine.execReset c s
  | .heldFaultDelivery r => Sys2Proof.Machine.execHeldFaultDelivery r s
  | .handlerGuardExpiry blk grp => Sys2Proof.Machine.execHandlerGuardExpiry blk grp s
  | .headerDrainEnd r => Sys2Proof.Machine.execHeaderDrainEnd r s
  | .fixedResultComplete blk grp id => Sys2Proof.Machine.execFixedResultComplete blk grp id s
  | .variableResultArrival blk grp id => Sys2Proof.Machine.execVariableResultArrival blk grp id s
  | .blockPlacement item c => Sys2Proof.Machine.execBlockPlacement item c s
  | .placementAgeing item => Sys2Proof.Machine.execPlacementAgeing item s
  | .blockCompletion blk => Sys2Proof.Machine.execBlockCompletion blk s
  | .stewardSpill c => Sys2Proof.Machine.execStewardSpill c s
  | .spillReturn blk grp => Sys2Proof.Machine.execSpillReturn blk grp s
  | .cancelDelivery r => Sys2Proof.Machine.execCancelDelivery r s
  | .promotionResident blk => Sys2Proof.Machine.execPromotionResident blk s
  | .promotionBudgetExpiry ref => Sys2Proof.Machine.execPromotionBudgetExpiry ref s
  | .preemptRequest blk => Sys2Proof.Machine.execPreemptRequest blk s
  | .preemptDrainTimeout blk => Sys2Proof.Machine.execPreemptDrainTimeout blk s
  | .blockRestore blk c => Sys2Proof.Machine.execBlockRestore blk c s
  | .contextSwitchOut ctx => Sys2Proof.Machine.execContextSwitchOut ctx s
  | .contextSwitchIn ctx => Sys2Proof.Machine.execContextSwitchIn ctx s
  | .contextFault ctx => Sys2Proof.Machine.execContextFault ctx s
  | .copyAcknowledge blk id => Sys2Proof.Machine.execCopyAcknowledge blk id s
  | .copyCompletion blk id => Sys2Proof.Machine.execCopyCompletion blk id s
  | .copyPageResume blk id => Sys2Proof.Machine.execCopyPageResume blk id s
  | .tidAcknowledge ctx id => Sys2Proof.Machine.execTidAcknowledge ctx id s
  | .beadStart c eng => Sys2Proof.Machine.execBeadStart c eng s
  | .taskCompletion blk bead => Sys2Proof.Machine.execTaskCompletion blk bead s
  | .taskHalt blk bead reason => Sys2Proof.Machine.execTaskHalt blk bead reason s
  | .taskPageRestart blk bead => Sys2Proof.Machine.execTaskPageRestart blk bead s
  | .bankTake blk => Sys2Proof.Machine.execBankTake blk s
  | .locketPlacement item c => Sys2Proof.Machine.execLocketPlacement item c s
  | .fenceWaitEnd blk => Sys2Proof.Machine.execFenceWaitEnd blk s
  | .resumeQueueService ctx => Sys2Proof.Machine.execResumeQueueService ctx s
  | .kick page value => Sys2Proof.Machine.execKick page value s
  | .tailReconcile => Sys2Proof.Machine.execTailReconcile s
  | .schedulerPass => Sys2Proof.Machine.execSchedulerPass s
  | .packetTakeup q => Sys2Proof.Machine.execPacketTakeup q s
  | .packetHeaderRetry q => Sys2Proof.Machine.execPacketHeaderRetry q s
  | .nopPacket q => Sys2Proof.Machine.execNopPacket q s
  | .launch q => Sys2Proof.Machine.execLaunch q s
  | .graph q => Sys2Proof.Machine.execGraph q s
  | .record q => Sys2Proof.Machine.execRecord q s
  | .callIb q => Sys2Proof.Machine.execCallIb q s
  | .signal q => Sys2Proof.Machine.execSignal q s
  | .qtlAdvance q => Sys2Proof.Machine.execQtlAdvance q s
  | .waitPacket q => Sys2Proof.Machine.execWaitPacket q s
  | .locketPush q => Sys2Proof.Machine.execLocketPush q s
  | .nodeBatchFull node => Sys2Proof.Machine.execNodeBatchFull node s
  | .nodeBatchTimer node => Sys2Proof.Machine.execNodeBatchTimer node s
  | .hostFaultReply r refused => Sys2Proof.Machine.execHostFaultReply r refused s
  | .pageService what hostRefuses => Sys2Proof.Machine.execPageService what hostRefuses s
  | .migrationOpen base size => Sys2Proof.Machine.execMigrationOpen base size s
  | .migrationCommit base newBase => Sys2Proof.Machine.execMigrationCommit base newBase s
  | .migrationClose base => Sys2Proof.Machine.execMigrationClose base s
  | .memoryError addr kind => Sys2Proof.Machine.execMemoryError addr kind s
  | .flitReceive port f => Sys2Proof.Machine.execFlitReceive port f s
  | .portEnable port => Sys2Proof.Machine.execPortEnable port s
  | .trainingEnd port lanes pkg => Sys2Proof.Machine.execTrainingEnd port lanes pkg s
  | .trainingTimeout port => Sys2Proof.Machine.execTrainingTimeout port s
  | .portRetrain what => Sys2Proof.Machine.execPortRetrain what s
  | .portDisable port => Sys2Proof.Machine.execPortDisable port s
  | .portReset port => Sys2Proof.Machine.execPortReset port s
  | .putLinkTimeout what n => Sys2Proof.Machine.execPutLinkTimeout what n s
  | .putDelivery src exp toff p => Sys2Proof.Machine.execPutDelivery src exp toff p s
  | .putAcknowledgement ctx win n refused => Sys2Proof.Machine.execPutAcknowledgement ctx win n refused s
  | .apertureAccess src exp off q => Sys2Proof.Machine.execApertureAccess src exp off q s
  | .packageReset flash => Sys2Proof.Machine.execPackageReset flash s
  | .heartbeatMiss core image => Sys2Proof.Machine.execHeartbeatMiss core image s
  | .claim m token => Sys2Proof.Machine.execClaim m token s
  | .handoverTimeout => Sys2Proof.Machine.execHandoverTimeout s
  | .featureWord m word => Sys2Proof.Machine.execFeatureWord m word s
  | .ringConfigWrite m reg value => Sys2Proof.Machine.execRingConfigWrite m reg value s
  | .registerWriteIgnored bar off w => Sys2Proof.Machine.execRegisterWriteIgnored bar off w s
  | .commandDoorbell m count => Sys2Proof.Machine.execCommandDoorbell m count s
  | .responseConsume m count => Sys2Proof.Machine.execResponseConsume m count s
  | .powerPointSelect watts => Sys2Proof.Machine.execPowerPointSelect watts s
  | .thermalStepDown temp => Sys2Proof.Machine.execThermalStepDown temp s
  | .thermalStepUp temp => Sys2Proof.Machine.execThermalStepUp temp s
  | .overTemperature temp => Sys2Proof.Machine.execOverTemperature temp s
  | .storeCompletion blk grp id => Sys2Proof.Machine.execStoreCompletion blk grp id s
  | .hostMemoryAccess coherent pa len wr => Sys2Proof.Machine.execHostMemoryAccess coherent pa len wr s
  | .cxlPortDown port => Sys2Proof.Machine.execCxlPortDown port s

end Sys2Proof.Machine
end

