-- ==== Sys2Proof/Machine/Step.lean ====
section
/-!
DEFINITION. One step (DESIGN CHOICE, log 3): the next of what a cc brings, in this order: results that become visible and headers;
the grants of the issue quarters; the engines and cancellations; the oldest event from outside; pre-emption, spills and all
other events of the device; and, when nothing is left, the next cc.
-/
namespace Sys2Proof.Machine

/-- A path issues: the instruction that it stands at is fetched, decoded and executed. -/
def issueAt (s : State) (r : PRef) : Host.Outcome State Fault Refusal := (s.issueBy exec r).1

/-- What comes from outside: the oldest event that waits, where it is served (R393). -/
def State.outside (s : State) : Option (Host.Outcome State Fault Refusal) := match s.inbox with
  | i :: rest => some (if s.serves i then exec i { s with inbox := rest } else .next { s with inbox := rest })
  | [] => none

/-- What a READY package does once every quarter has had its turn in this cc (R83): what follows the instructions, what comes
from outside, all other events, and then the next cc. -/
def settle (s : State) : Host.Outcome State Fault Refusal :=
  ((s.after <|> s.outside) <|> s.others).getD (.next s.tick)

/-- What a READY package does next. -/
def advance (s : State) : Host.Outcome State Fault Refusal :=
  ((s.before <|> s.grant exec)).getD (settle s.turnsOver)

/-- One step of the machine: before a package is READY, only what comes from outside happens. -/
def step (s : State) : Host.Outcome State Fault Refusal :=
  if s.ready then advance s else s.outside.getD (.next s.tick)

/-- A state whose next step issues the instruction that the decoder reads from the words of an opcode-table row
(DESIGN CHOICE, log 13, 23). -/
def State.withFetchWord (s : State) (nbits w : Nat) : State :=
  if nbits ≤ 64 then match decodeTable (w % 2 ^ nbits) with
    | some (c, x, _) => s.aboutToIssue c (BitVec.ofNat 32 (w % 2 ^ nbits)) x
    | none => s.aboutToIssue .alu (BitVec.ofNat 32 w) none
  else s

end Sys2Proof.Machine
end

