-- ==== Sys2Proof/Safety.lean ====
section
/-!
DEFINITION. What counts as a safe state, and the words of the statements: when an instruction issues, what it leaves where it
issues, and the results that it returns.
-/
namespace Sys2Proof.Safety
open Sys2Proof.Machine

/-- The memory has its canonical form: rising addresses, no byte that an unlisted address reads as. -/
abbrev MemOk (s : State) : Prop := Memory.wf s.mem = true

/-- A run of k steps from a state ends in a next state. -/
abbrev Runs (k : Nat) (s t : State) : Prop := Sys2Proof.core.run k s = .next t

/-! ## When an instruction issues (R54 checks 9 and 10, R111, R114, R117) -/

/-- A path issues an instruction: its registers lie below the kernel's arch counts, its group has the role, its execution mask
is not empty, and no operand that is watched is absent in a lane that executes. -/
abbrev Issues (s : State) (c : Cur) (role : Option Nat) (uses srcs : List Src) (mask : Cur → Mask) : Prop :=
  s.cursor = some c ∧ (∀ o ∈ uses, o.num + o.n ≤ if o.grp then c.k.gregs else c.k.vregs) ∧
    (role = none ∨ role = some c.g.role) ∧ mask c ≠ 0 ∧ ∀ o ∈ srcs, o.field ≠ 0 → c.g.absent o (mask c) = 0

/-- The registers that the results need can be allocated after the kills. -/
abbrev Room (s : State) (c : Cur) (e : Mask) (srcs : List Src) (nv ng : Nat) : Prop :=
  s.allocFor c.b c.k c.ref.grp (c.g.killAll c.ref.slot e srcs).heldV (c.g.killAll c.ref.slot e srcs).heldG nv ng = .ok

/-! ## What stands after an issue (R33, R56, R85, R87, R94, R112, R113) -/

/-- The path after its instruction: at the next one, parked where S is set and results are outstanding. -/
def pathAfter (c : Cur) (board : List Nat) (sbit : Bool) : Path :=
  { c.p with clause := c.after.1, index := c.after.2, hdrDone := false, board := board,
             cond := if sbit && !board.isEmpty then .park [] else .ready }
/-- The state whose issuing group is another; everything else is as it was. -/
def withGroup (s : State) (c : Cur) (g : Group) : State :=
  { s with blocks := s.blocks.map fun b =>
      if b.id = c.b.id then { c.b with groups := c.b.groups.set c.ref.grp g } else b }
/-- A group whose issuing path is another, after its turn. -/
def withPath (c : Cur) (g : Group) (p : Option Path) : Group :=
  { g with turn := 1 - c.ref.slot, slot0 := if c.ref.slot = 0 then p else c.g.slot0,
           slot1 := if c.ref.slot = 0 then c.g.slot1 else p }
/-- The state after an instruction without a result: its kills, and the path's next position. -/
def issued (s : State) (c : Cur) (e : Mask) (srcs : List Src) (sbit : Bool) : State :=
  withGroup s c (withPath c (c.g.killAll c.ref.slot e srcs) (some (pathAfter c c.p.board sbit)))
/-- The state after an instruction whose result is in flight: as `issued`, and the group holds the flight under the next
number, which a result of variable latency puts on the path's scoreboard. -/
def inFlight (s : State) (c : Cur) (e : Mask) (srcs : List Src) (fl : Flight) (sbit : Bool) : State :=
  withGroup { s with uid := s.uid + 1 } c
    (withPath c
      { c.g.killAll c.ref.slot e srcs with
        flights := c.g.flights ++ [{ fl with id := s.uid, slot := c.ref.slot, words := c.w }] }
      (some (pathAfter c (if fl.board then c.p.board ++ [s.uid] else c.p.board) sbit)))
/-- A fixed result: its writes are visible lat cc after issue, with its flags. -/
def fixedFlight (s : State) (lat flags : Nat) (ws : List Wr) : Flight :=
  { id := 0, slot := 0, due := some (s.cc + lat), fixed := true, writes := ws, flags := flags }
/-- A result or an operation of variable latency, of a DRAIN class: it completes after a number of cc that the manual leaves
open, at least one; it stands on the scoreboard when it returns a result. -/
def laterFlight (s : State) (cls : Drn) (ws : List Wr) : Flight :=
  { id := 0, slot := 0, due := some (s.cc + (1 + Config.latency s.free)), cls := cls, writes := ws, board := !ws.isEmpty }
/-- The state after an instruction whose result or operation completes later. -/
def inFlightLater (s : State) (c : Cur) (e : Mask) (srcs : List Src) (fl : Flight) (sbit : Bool) : State :=
  inFlight { s with free := s.free + 1 } c e srcs fl sbit

/-! ## Results -/

/-- The write of a vector register in the lanes of e. -/
def lanesWr (d : Nat) (e : Mask) (x : Nat → BitVec 32) : Wr :=
  .v d e ((List.range 32).map fun l => if e.getLsbD l then x l else 0)
/-- The write of a group register; none for g0. -/
def groupWr (d : Nat) (x : BitVec 64) : List Wr := if d = 0 then [] else [.g d x]
/-- The writes of a destination by U: a lane value for each lane of e, or the group's value. -/
def destWr (u : Bool) (d : Nat) (e : Mask) (x : Nat → BitVec 32) (y : BitVec 64) : List Wr :=
  if u then groupWr d y else [lanesWr d e x]
/-- The vector and group registers that a destination needs. -/
def needV (u : Bool) (n : Nat) : Nat := if u then 0 else n
def needG (u : Bool) (d : BitVec 6) : Nat := if u && d != 0 then 1 else 0

end Sys2Proof.Safety
end

