-- ==== Sys2Proof/WellFormed.lean ====
section
/-!
DEFINITION. Which instructions are well formed: those that pass checks 3 to 8 of Table MAP-13 (R54). The checks themselves
stand beside the decoder that applies them.
-/
namespace Sys2Proof

/-- An instruction that issues past checks 3 to 8 of R54. -/
abbrev Instr.WellFormed (i : Instr) : Prop := i.check = none

end Sys2Proof
end

