-- ==== Sys2Proof/Certificates/Slice0/Obligations.lean ====
section
/-!
DEFINITION. The statements for the provers, family by family, each with the words it is written in.
-/
open Sys2Proof Sys2Proof.Machine Sys2Proof.Safety

/-! ## Class ALU -/

namespace Sys2Proof.Claims

/-- An integer instruction of one, two or three operands of one register: its constructor, its latencies for lanes and for the
group, and its function at a width w. -/
structure IntOp where
  ins : V3 → Instr
  latV : Nat
  latG : Nat
  nb : Nat
  nc : Nat
  fn : V3 → (w : Nat) → BitVec w → BitVec w → BitVec w → BitVec w

/-- S of R134: SUB bit 0. -/
def signed (f : V3) : Bool := f.x.sub.getLsbD 0
/-- A value clamped to the range of w bits, natural or signed (R137). -/
def saturate (s : Bool) (w : Nat) (x : Int) : BitVec w :=
  if s then BitVec.ofInt w (max (-2 ^ (w - 1)) (min x (2 ^ (w - 1) - 1))) else BitVec.ofInt w (max 0 (min x (2 ^ w - 1)))
/-- Sx of R137. -/
def readAs (s : Bool) {w : Nat} (x : BitVec w) : Int := if s then x.toInt else x.toNat

/-- Tables ALU-2 and ALU-3, and `lea` (R141). -/
def intOps : List IntOp :=
  [ ⟨.mov, 4, 2, 0, 0, fun _ _ a _ _ => a⟩,
    ⟨.add, 4, 2, 1, 0, fun _ _ a b _ => a + b⟩,
    ⟨.sub, 4, 2, 1, 0, fun _ _ a b _ => a - b⟩,
    ⟨.mul, 6, 4, 1, 0, fun _ _ a b _ => a * b⟩,
    ⟨.mulhi, 6, 4, 1, 0, fun f w a b _ => BitVec.ofInt w (readAs (signed f) a * readAs (signed f) b / 2 ^ w)⟩,
    ⟨.mad, 6, 4, 1, 1, fun _ _ a b c => a * b + c⟩,
    ⟨.abs, 4, 2, 0, 0, fun f w a _ _ =>
      if f.x.sat && a == BitVec.intMin w then BitVec.intMax w else if a.msb then -a else a⟩,
    ⟨.min, 4, 2, 1, 0, fun f _ a b _ => if readAs (signed f) a ≤ readAs (signed f) b then a else b⟩,
    ⟨.max, 4, 2, 1, 0, fun f _ a b _ => if readAs (signed f) a ≤ readAs (signed f) b then b else a⟩,
    ⟨.adds, 4, 2, 1, 0, fun f w a b _ => saturate (signed f) w (readAs (signed f) a + readAs (signed f) b)⟩,
    ⟨.subs, 4, 2, 1, 0, fun f w a b _ => saturate (signed f) w (readAs (signed f) a - readAs (signed f) b)⟩ ]
def logicOps : List IntOp :=
  [ ⟨.andR, 4, 2, 1, 0, fun _ _ a b _ => a &&& b⟩,
    ⟨.orR, 4, 2, 1, 0, fun _ _ a b _ => a ||| b⟩,
    ⟨.xorR, 4, 2, 1, 0, fun _ _ a b _ => a ^^^ b⟩,
    ⟨.andn, 4, 2, 1, 0, fun _ _ a b _ => a &&& ~~~b⟩,
    ⟨.orn, 4, 2, 1, 0, fun _ _ a b _ => a ||| ~~~b⟩,
    ⟨.shl, 4, 2, 1, 0, fun _ w a b _ => if b.toNat < w then a <<< b.toNat else 0⟩,
    ⟨.shr, 4, 2, 1, 0, fun _ _ a b _ => a >>> b.toNat⟩,
    ⟨.sar, 4, 2, 1, 0, fun _ _ a b _ => a.sshiftRight b.toNat⟩,
    ⟨.rotl, 4, 2, 1, 0, fun _ w a b _ => a.rotateLeft (b.toNat % w)⟩,
    ⟨.clz, 4, 2, 0, 0, fun _ w a _ _ =>
      BitVec.ofNat w ((List.range w).takeWhile fun i => !a.getLsbD (w - 1 - i)).length⟩,
    ⟨.ctz, 4, 2, 0, 0, fun _ w a _ _ => BitVec.ofNat w ((List.range w).takeWhile fun i => !a.getLsbD i).length⟩,
    ⟨.popc, 4, 2, 0, 0, fun _ w a _ _ => BitVec.ofNat w ((List.range w).countP a.getLsbD)⟩,
    ⟨.brev, 4, 2, 0, 0, fun _ _ a _ _ => a.reverse⟩,
    ⟨.lea, 4, 2, 1, 0, fun f _ a b _ => a + (b <<< f.x.sub.toNat)⟩ ]
/-- `bfx`, `bfi` and `prmt` (R139, R147). -/
def fieldOps : List IntOp :=
  [ ⟨.bfx, 4, 2, 0, 1, fun f w a _ c =>
      let pos := c.toNat % 64 % w
      let len := min (c.toNat / 256 % 128) w
      if len = 0 then 0
      else if signed f then ((a >>> pos).setWidth len).signExtend w else ((a >>> pos).setWidth len).setWidth w⟩,
    ⟨.bfi, 4, 2, 1, 1, fun _ w a b c =>
      let pos := c.toNat % 64 % w
      let len := min (c.toNat / 256 % 128) w
      let m : BitVec w := BitVec.ofNat w (2 ^ len - 1) <<< pos
      (a &&& ~~~m) ||| ((b <<< pos) &&& m)⟩,
    ⟨.prmt, 4, 2, 1, 1, fun _ w a b c =>
      let byte := fun i =>
        let src := c.toNat / 2 ^ (8 * i) % 16 % (2 * (w / 8))
        let x : BitVec 8 := if src < w / 8 then a.extractLsb' (8 * src) 8 else b.extractLsb' (8 * (src - w / 8)) 8
        if c.getLsbD (8 * i + 4) then 0
        else if c.getLsbD (8 * i + 5) then (if x.msb then BitVec.allOnes 8 else 0) else x
      (List.range (w / 8)).foldl (fun acc i => acc ||| ((byte i).setWidth w <<< (8 * i))) 0⟩ ]

/-- What R133 says of an instruction of the table: the operands are read and killed, and the function's result is visible after
the latency, in the lanes of the execution mask, or once for the group. -/
def Computes (p : IntOp) : Prop :=
  ∀ (s : State) (c : Cur) (f : V3),
    let srcs := f.srcs 1 p.nb p.nc
    let e := f.mask c
    let rd := fun (n : Nat) (o : Src) (w l : Nat) => if n = 0 then (0 : BitVec w) else BitVec.ofNat w (c.g.read o l)
    let res := fun w l => p.fn f w (rd 1 (f.srcA 1) w l) (rd p.nb (f.srcB 1) w l) (rd p.nc (f.srcC 1) w l)
    Issues s c none (srcs ++ [f.dst 1]) srcs f.mask → Room s c e srcs (needV f.u 1) (needG f.u f.d) →
    exec (p.ins f) s = .next (inFlight s c e srcs
      (fixedFlight s (if f.u then p.latG else p.latV) 0 (destWr f.u f.d.toNat e (res 32) (res 64 0))) f.s)

end Sys2Proof.Claims
open Sys2Proof.Claims

/-- Table ALU-2 but for its wide rows: `mov`, `add`, `sub`, `mul`, `mulhi`, `mad`, `abs`, `min`, `max`, `adds`, `subs` complete
with the value that the table gives, at 32 bits a lane and 64 bits for the group (R133, R134, R137). -/
def Sys2Proof.Claims.IntegerArithmeticPieces : Prop :=
  (∀ p ∈ intOps, Computes p) ∧
  ∀ p ∈ intOps, ∀ f : V3, (p.ins f).WellFormed →
    (f.x.sat = true → p.ins f = .abs f) ∧ (p.ins f = .mad f → f.ext ≠ none) ∧ f.x.sub.toNat < 2 ∧
    (f.x.sub ≠ 0 → p.ins f ∈ [Instr.mulhi f, .min f, .max f, .adds f, .subs f])
/-- Table ALU-3 and `lea`: `and`, `or`, `xor`, `andn`, `orn`, `shl`, `shr`, `sar`, `rotl`, `clz`, `ctz`, `popc`, `brev`, `lea`
(R138, R141). -/
def Sys2Proof.Claims.LogicShiftsAndCounts : Prop :=
  (∀ p ∈ logicOps, Computes p) ∧
  ∀ p ∈ logicOps, ∀ f : V3, (p.ins f).WellFormed → f.x.sat = false ∧ (f.x.sub = 0 ∨ p.ins f = .lea f)
/-- `bfx`, `bfi` and `prmt` (R139, R147). -/
def Sys2Proof.Claims.FieldsAndBytePermutes : Prop :=
  (∀ p ∈ fieldOps, Computes p) ∧
  ∀ p ∈ fieldOps, ∀ f : V3, (p.ins f).WellFormed → f.ext ≠ none ∧
    ((p.ins f = .bfx f ∧ f.b = 0 ∧ f.x.sub.toNat < 2) ∨ f.x.sub = 0)
/-- Logic, shifts, bit counts, `lea`, bit fields and byte permutes (R138, R139, R141, R147). -/
def Obligations.LogicShiftsAndFields : Prop :=
  Sys2Proof.Claims.LogicShiftsAndCounts ∧ Sys2Proof.Claims.FieldsAndBytePermutes

namespace Sys2Proof.Claims

/-- The writes of a pair of registers. -/
def pairWr (d : Nat) (e : Mask) (x : Nat → BitVec 64) : List Wr :=
  [lanesWr d e fun l => (x l).setWidth 32, lanesWr (d + 1) e fun l => (x l >>> 32).setWidth 32]
/-- A wide instruction: its constructor, its latency, the registers of A and B, and its function of them (Table ALU-2, R141). -/
structure WideOp where
  ins : V3 → Instr
  lat : Nat
  na : Nat
  nb : Nat
  fn : V3 → BitVec 64 → BitVec 64 → BitVec 64
def wideOps : List WideOp :=
  [ ⟨.addw, 5, 2, 2, fun _ a b => a + b⟩,
    ⟨.subw, 5, 2, 2, fun _ a b => a - b⟩,
    ⟨.mulw, 10, 1, 1, fun f a b =>
      if signed f then (a.setWidth 32).signExtend 64 * (b.setWidth 32).signExtend 64 else a * b⟩,
    ⟨.leaw, 5, 2, 1, fun f a b =>
      a + ((if f.x.sat then (b.setWidth 32).signExtend 64 else b) <<< f.x.sub.toNat)⟩ ]

/-- An immediate form: its constructor, whether it reads A, and its function at a width (Table ALU-7). -/
structure ImmOp where
  ins : VI → Instr
  reads : Bool
  fn : (w : Nat) → BitVec w → Int → BitVec w
def immOps : List ImmOp :=
  [ ⟨.movi, false, fun w _ i => BitVec.ofInt w i⟩,
    ⟨.addi, true, fun w a i => a + BitVec.ofInt w i⟩,
    ⟨.andi, true, fun w a i => a &&& BitVec.ofInt w i⟩,
    ⟨.ori, true, fun w a i => a ||| BitVec.ofInt w i⟩,
    ⟨.xori, true, fun w a i => a ^^^ BitVec.ofInt w i⟩,
    ⟨.shli, true, fun _ a i => a <<< i.toNat⟩,
    ⟨.shri, true, fun _ a i => a >>> i.toNat⟩,
    ⟨.sari, true, fun _ a i => a.sshiftRight i.toNat⟩,
    ⟨.movhi, true, fun w a i =>
      if w = 32 then ((BitVec.ofInt 16 i) ++ (a.setWidth 16)).setWidth w else (BitVec.ofInt 32 i ++ a.setWidth 32).setWidth w⟩ ]

/-- The condition COND of R50 on integers. -/
def intCond (cond : Nat) (a b : Int) : Bool :=
  [a == b, a != b, decide (a < b), decide (a ≤ b), decide (b < a), decide (b ≤ a)].getD cond false
/-- An operand as TYPE reads it (R142): 64 bits for `.s64` and `.n64`, else 32; signed for `.s32` and `.s64`. -/
def typed (typ x : Nat) : Int :=
  if typ = 2 then (BitVec.ofNat 64 x).toInt else if typ = 3 then (BitVec.ofNat 64 x).toNat
  else if typ = 0 then (BitVec.ofNat 32 x).toInt else (BitVec.ofNat 32 x).toNat
/-- Table MAP-4: the operation of CT on the old pd1 and the condition. -/
def combine (ct : Nat) (old c : Bool) : Bool := [c, old && c, old || c, old != c].getD (ct % 4) false
/-- A set of lanes. -/
def lanesWhere (p : Nat → Bool) : Mask := maskOf p
/-- R51: what a compare writes to its lane predicates. A lane of the active mask takes the combined value where the guard holds;
where it does not, 0 and 1 under Z, and nothing otherwise. -/
def predWr (pd1 pd2 ct : Nat) (active : Mask) (guard old cond : Nat → Bool) : List Wr :=
  let new := fun l => guard l && combine ct (old l) (cond l)
  let lanes := lanesWhere fun l => active.getLsbD l && (guard l || decide (4 ≤ ct))
  (if pd1 = 7 then [] else [.p pd1 lanes (lanesWhere new)]) ++ (if pd2 = 7 then [] else [.p pd2 lanes (lanesWhere fun l => !new l)])
/-- R51 for group predicates. -/
def gpredWr (pd1 pd2 ct : Nat) (guard old cond : Bool) : List Wr :=
  let new := guard && combine ct old cond
  if guard || decide (4 ≤ ct) then
    (if pd1 = 7 then [] else [.q pd1 new]) ++ (if pd2 = 7 then [] else [.q pd2 !new])
  else []
/-- The writes of a compare by U: the guard and the old pd1 are read at issue. -/
def cmpWr (c : Cur) (u : Bool) (gp : BitVec 3) (gi : Bool) (pd1 pd2 : BitVec 3) (ct : Nat) (cond : Nat → Bool) : List Wr :=
  if u then gpredWr pd1.toNat pd2.toNat ct (c.condQ gp gi) (c.g.qbit pd1.toNat) (cond 0)
  else predWr pd1.toNat pd2.toNat ct c.p.mask (fun l => (c.maskP gp gi).getLsbD l) (fun l => (c.g.pmask pd1.toNat).getLsbD l) cond
/-- The operands of a compare word. -/
def cmpSrcs (u : Bool) (a b : BitVec 9) (pa pb : BitVec 6) (n : Nat) : List Src := [usrc u a pa n 1, usrc u b pb n 2]

/-- The lanes that `ballot`, `vote` and `red` read (R144). -/
def voters (u : Bool) (c : Cur) (e : Mask) : Mask := if u then c.p.mask else e
/-- A predicate write to pD in lanes, or to qD. -/
def pWr (d : Nat) (e x : Mask) : List Wr := if d = 7 then [] else [.p d e x]
def qWr (d : Nat) (x : Bool) : List Wr := if d = 7 then [] else [.q d x]

/-- The integer operations of Table ALU-6 at 32 bits, and their identities (R79). -/
def redFn (sub : Nat) (s : Bool) (a b : BitVec 32) : BitVec 32 :=
  match sub with
  | 0 => a + b
  | 1 => if readAs s a ≤ readAs s b then a else b
  | 2 => if readAs s a ≤ readAs s b then b else a
  | 3 => a &&& b
  | 4 => a ||| b
  | _ => a ^^^ b
def redUnit (sub : Nat) (s : Bool) : BitVec 32 :=
  match sub with
  | 1 => if s then BitVec.intMax 32 else BitVec.allOnes 32
  | 2 => if s then BitVec.intMin 32 else 0
  | 3 => BitVec.allOnes 32
  | _ => 0
/-- Combine the lanes of a mask up to a lane, from the lowest. -/
def foldLanes (sub : Nat) (s : Bool) (m : Mask) (x : Nat → BitVec 32) (upTo : Nat) : BitVec 32 :=
  ((List.range 32).filter fun l => m.getLsbD l && decide (l ≤ upTo)).foldl (fun acc l => redFn sub s acc (x l)) (redUnit sub s)

end Sys2Proof.Claims

/-- `addw`, `subw`, `mulw` and `leaw` complete with the 64-bit value of the spec in a pair of registers (R137, R141). -/
def Sys2Proof.Claims.WideArithmetic : Prop :=
  (∀ p ∈ wideOps, ∀ f : V3, (p.ins f).WellFormed → f.u = false ∧
    (p.ins f = .leaw f ∨ (f.x.sat = false ∧ f.x.sub.toNat < 2 ∧ (f.x.sub ≠ 0 → p.ins f = .mulw f)))) ∧
  ∀ p ∈ wideOps, ∀ (s : State) (c : Cur) (f : V3), f.u = false →
    let srcs := f.srcs p.na p.nb 0
    let e := f.mask c
    Issues s c none (srcs ++ [f.dst 2]) srcs f.mask → Room s c e srcs 2 0 →
    exec (p.ins f) s = .next (inFlight s c e srcs
      (fixedFlight s p.lat 0 (pairWr f.d.toNat e fun l =>
        p.fn f (BitVec.ofNat 64 (c.g.read (f.srcA p.na) l)) (BitVec.ofNat 64 (c.g.read (f.srcB p.nb) l)))) f.s)
/-- Table ALU-2 with `leaw`: the integer arithmetic of one register per operand, and of pairs (R133, R134, R137, R141). -/
def Obligations.IntegerArithmetic : Prop :=
  Sys2Proof.Claims.IntegerArithmeticPieces ∧ Sys2Proof.Claims.WideArithmetic

/-- Table ALU-7: `movi`, `addi`, `andi`, `ori`, `xori`, `shli`, `shri`, `sari` and `movhi` complete with the table's value, after
4 cc in the lanes of the mask or 2 for the group (R146). -/
def Sys2Proof.Claims.ImmediateForms : Prop :=
  ∀ p ∈ immOps, ∀ (s : State) (c : Cur) (f : VI),
    let a := usrc f.u f.a (paramShort f.a) 1 1
    let srcs := if p.reads then [a] else []
    let mask := fun (c : Cur) => c.mask f.u f.gp f.gi
    let e := mask c
    let rd := fun w l => if p.reads then BitVec.ofNat w (c.g.read a l) else 0
    (Issues s c none (srcs ++ [{ grp := f.u, num := f.d.toNat }]) srcs mask → Room s c e srcs (needV f.u 1) (needG f.u f.d) →
      exec (p.ins f) s = .next (inFlight s c e srcs
      (fixedFlight s (if f.u then 2 else 4) 0
        (destWr f.u f.d.toNat e (fun l => p.fn 32 (rd 32 l) f.val) (p.fn 64 (rd 64 0) f.val))) f.s)) ∧
    ((p.ins f).WellFormed → (p.reads = false → f.a = 0) ∧
      (∀ i ∈ [Instr.shli f, .shri f, .sari f], p.ins f = i → 0 ≤ f.val ∧ f.val < if f.u then 64 else 32))

/-- `cmp` and `cmpi` write pd1 and pd2 by R51 from the condition of R50 on the operands as TYPE reads them, in the lanes of the
active mask or for the group, after 4 or 2 cc (R142). -/
def Sys2Proof.Claims.IntegerCompares : Prop :=
  (∀ (s : State) (c : Cur) (f : Cmp),
    let a := usrc f.u f.a f.x.pa (cmpRegs f.x.typ) 1
    let b := usrc f.u f.b f.x.pb (cmpRegs f.x.typ) 2
    let typ := f.x.typ.toNat
    f.x.cond.toNat ≤ 5 → Issues s c none [a, b] [a, b] (·.p.mask) →
    exec (.cmp f) s = .next (inFlight s c c.p.mask [a, b]
      (fixedFlight s (if f.u then 2 else 4) 0 (cmpWr c f.u f.x.gp f.x.gi f.pd1 f.pd2 f.x.ct.toNat fun l =>
        intCond f.x.cond.toNat (typed typ (c.g.read a l)) (typed typ (c.g.read b l)))) f.s)) ∧
  (∀ (s : State) (c : Cur) (f : Cmpi),
    let a := usrc f.u f.a (paramShort f.a) (cmpRegs f.x.typ) 1
    let typ := f.x.typ.toNat
    f.x.cond.toNat ≤ 5 → Issues s c none [a] [a] (·.p.mask) →
    exec (.cmpi f) s = .next (inFlight s c c.p.mask [a]
      (fixedFlight s (if f.u then 2 else 4) 0 (cmpWr c f.u f.x.gp f.x.gi f.pd1 f.pd2 f.x.ct.toNat fun l =>
        intCond f.x.cond.toNat (typed typ (c.g.read a l)) (typed typ (f.x.imm.signExtend 64).toNat))) f.s))
/-- The immediate forms and the integer compares (R142, R146).
Where it goes past the words of the spec it rests on the model's choices of log entry 85. -/
def Obligations.ImmediatesAndCompares : Prop :=
  Sys2Proof.Claims.ImmediateForms ∧ Sys2Proof.Claims.IntegerCompares

/-- `plog`, `laneid`, `ballot`, `mkpred` and `vote` (R143, R144, Table ALU-5). -/
def Sys2Proof.Claims.PredicateAndLaneTransfers : Prop :=
  (∀ (s : State) (c : Cur) (f : Plog),
    let mask := fun (c : Cur) => c.mask f.u f.x.gp f.x.gi
    let sel := fun (k l : Nat) => if k < 8 then (c.g.pmask k).getLsbD l else c.g.qbit (k - 8)
    let val := fun l => f.tt.getLsbD (2 * (sel f.pa.toNat l).toNat + (sel f.pb.toNat l).toNat)
    Issues s c none [] [] mask →
    exec (.plog f) s = .next (inFlight s c (mask c) []
      (fixedFlight s 2 0 (if f.u then qWr f.pd.toNat (val 0) else pWr f.pd.toNat (mask c) (lanesWhere val))) f.s)) ∧
  (∀ (s : State) (c : Cur) (f : V3), f.u = false → Issues s c none [f.dst 1] [] f.mask → Room s c (f.mask c) [] 1 0 →
    exec (.laneid f) s = .next (inFlight s c (f.mask c) []
      (fixedFlight s 2 0 [lanesWr f.d.toNat (f.mask c) fun l => BitVec.ofNat 32 l]) f.s)) ∧
  (∀ (s : State) (c : Cur) (f : V3), f.u = true → Issues s c none [f.dst 1] [] f.mask →
    Room s c (f.mask c) [] 0 (needG true f.d) →
    exec (.ballot f) s = .next (inFlight s c (f.mask c) []
      (fixedFlight s 4 0 (groupWr f.d.toNat ((c.p.mask &&& c.g.pmask (opReg f.a)).setWidth 64))) f.s)) ∧
  (∀ (s : State) (c : Cur) (f : V3),
    Issues s c none (f.srcs 1 0 0) (f.srcs 1 0 0) f.mask →
    exec (.mkpred f) s = .next (inFlight s c (f.mask c) (f.srcs 1 0 0)
      (fixedFlight s 4 0 (pWr f.d.toNat (f.mask c) (lanesWhere fun l =>
        if f.u then (BitVec.ofNat 64 (c.g.read (f.srcA 1) 0)).getLsbD l else c.g.read (f.srcA 1) l != 0))) f.s)) ∧
  (∀ (s : State) (c : Cur) (f : V3), f.x.sub.toNat ≤ 2 →
    let v := voters f.u c (f.mask c)
    let holds := fun l => (c.g.pmask (opReg f.a)).getLsbD l
    let some := (lanesOf v).any holds
    let every := (lanesOf v).all holds
    let r := [some, every, every || !some].getD f.x.sub.toNat false
    Issues s c none [] [] f.mask →
    exec (.vote f) s = .next (inFlight s c (f.mask c) []
      (fixedFlight s 4 0 (if f.u then qWr f.d.toNat r else pWr f.d.toNat (f.mask c) (if r then allLanes else 0))) f.s))

/-- `sel`, `rdlane`, `wrlane` and `perm` (R140, R144): the lanes that they read, kill and write. `perm` reads the lane that vA's own
pattern gives the lane that vB names (R120; log 84). -/
def Sys2Proof.Claims.LaneSelection : Prop :=
  (∀ (s : State) (c : Cur) (f : V3),
    let srcs := f.srcs 1 1 0
    let e := c.p.mask
    let take := fun l => if f.u then c.condQ f.x.gp f.x.gi else (c.maskP f.x.gp f.x.gi).getLsbD l
    let val := fun w l => BitVec.ofNat w (if take l then c.g.read (f.srcA 1) l else c.g.read (f.srcB 1) l)
    Issues s c none (srcs ++ [f.dst 1]) srcs (·.p.mask) → Room s c e srcs (needV f.u 1) (needG f.u f.d) →
    exec (.sel f) s = .next (inFlight s c e srcs
      (fixedFlight s (if f.u then 2 else 4) 0
        (if f.u then groupWr f.d.toNat (val 64 0) else [lanesWr f.d.toNat e (val 32)])) f.s)) ∧
  (∀ (s : State) (c : Cur) (f : V3), f.u = true →
    let n := c.g.gval (opReg f.b) % 32
    let a : Src := { grp := false, num := opReg f.a, l := opL f.a, field := 1, map := List.replicate 32 n }
    let srcs := [a, f.srcB 1]
    let x := BitVec.ofNat 32 ((c.g.lane? (opReg f.a) n).getD 0)
    Issues s c none [a, f.srcB 1, f.dst 1] srcs f.mask → Room s c (f.mask c) srcs 0 (needG true f.d) →
    exec (.rdlane f) s = .next (inFlight s c (f.mask c) srcs
      (fixedFlight s 6 0 (groupWr f.d.toNat (if signed f then x.signExtend 64 else x.setWidth 64))) f.s)) ∧
  (∀ (s : State) (c : Cur) (f : V3), f.u = false →
    let a := gsrc f.a 1 1
    let b := gsrc f.b 1 2
    let n := c.g.gval (opReg f.b) % 32
    let hit := (f.mask c).getLsbD n
    Issues s c none [a, b, f.dst 1] [a, b] f.mask → Room s c (f.mask c) [a, b] (if hit then 1 else 0) 0 →
    exec (.wrlane f) s = .next (inFlight s c (f.mask c) [a, b]
      (fixedFlight s 6 0 (if hit then [lanesWr f.d.toNat (BitVec.twoPow 32 n) fun _ => BitVec.ofNat 32 (c.g.gval (opReg f.a))]
        else [])) f.s)) ∧
  (∀ (s : State) (c : Cur) (f : V3), f.u = false →
    let from_ := fun l => (f.srcA 1).lane (c.g.read (f.srcB 1) l % 32)
    let a := { f.srcA 1 with map := (List.range 32).map from_ }
    let srcs := [a, f.srcB 1]
    Issues s c none (srcs ++ [f.dst 1]) srcs f.mask → Room s c (f.mask c) srcs 1 0 →
    exec (.perm f) s = .next (inFlight s c (f.mask c) srcs
      (fixedFlight s 8 0 [lanesWr f.d.toNat (f.mask c) fun l =>
        BitVec.ofNat 32 ((c.g.lane? (opReg f.a) (from_ l)).getD 0)]) f.s))
/-- Predicate logic and the transfers between lanes, predicates and the group (R140, R143, R144).
Where it goes past the words of the spec it rests on the model's choices of log entries 84 and 85. -/
def Obligations.LaneTransfers : Prop :=
  Sys2Proof.Claims.PredicateAndLaneTransfers ∧ Sys2Proof.Claims.LaneSelection

/-- `red` and `scan` (R145, R77 to R79): for the integer operations the tree's value is that of the lanes of V, or of the lanes of
E up to the lane, combined from the lowest; lanes outside contribute the identity. For `.fadd` they complete with the value
of the tree, whose nodes round, a NaN as the canonical one (R63). -/
def Sys2Proof.Claims.ReductionsAndScans : Prop :=
  (∀ (s : State) (c : Cur) (f : V3), f.u = true → f.x.sub.toNat ≤ 5 →
    let srcs := [vsrc f.a f.x.pa 1 1]
    let e := f.mask c
    let r := foldLanes f.x.sub.toNat f.x.sat e (fun l => BitVec.ofNat 32 (c.g.read (vsrc f.a f.x.pa 1 1) l)) 31
    Issues s c none (srcs ++ [f.dst 1]) srcs f.mask → Room s c e srcs 0 (needG true f.d) →
    exec (.red f) s = .next (inFlight s c e srcs
      (fixedFlight s 10 0 (groupWr f.d.toNat
        (if f.x.sat && decide (f.x.sub.toNat ≤ 2) then r.signExtend 64 else r.setWidth 64))) f.s)) ∧
  (∀ (s : State) (c : Cur) (f : V3), f.u = false → f.x.sub.toNat ≤ 5 →
    let srcs := [vsrc f.a f.x.pa 1 1]
    let e := f.mask c
    let x := fun l => BitVec.ofNat 32 (c.g.read (vsrc f.a f.x.pa 1 1) l)
    Issues s c none (srcs ++ [f.dst 1]) srcs f.mask → Room s c e srcs 1 0 →
    exec (.scan f) s = .next (inFlight s c e srcs
      (fixedFlight s 12 0 [lanesWr f.d.toNat e (foldLanes f.x.sub.toNat f.x.sat e x)]) f.s)) ∧
  (∀ (s : State) (c : Cur) (f : V3), f.u = true → f.x.sub.toNat = 6 →
    let srcs := [vsrc f.a f.x.pa 1 1]
    let r := pairTree (faddNode f.x.rm.toNat f.x.sat) (redVals f c (f.mask c)) 5 0
    Issues s c none (srcs ++ [f.dst 1]) srcs f.mask → Room s c (f.mask c) srcs 0 (needG true f.d) →
    exec (.red f) s = .next (inFlight s c (f.mask c) srcs
      (fixedFlight s 10 r.2 (groupWr f.d.toNat (BitVec.ofNat 64 r.1))) f.s)) ∧
  (∀ (s : State) (c : Cur) (f : V3), f.u = false → f.x.sub.toNat = 6 →
    let srcs := [vsrc f.a f.x.pa 1 1]
    let r := prefixAt (faddNode f.x.rm.toNat f.x.sat) (redVals f c (f.mask c))
    Issues s c none (srcs ++ [f.dst 1]) srcs f.mask → Room s c (f.mask c) srcs 1 0 →
    exec (.scan f) s = .next (inFlight s c (f.mask c) srcs
      (fixedFlight s 12 ((lanesOf (f.mask c)).foldl (fun acc l => acc ||| (r l).2) 0)
        [lanesWr f.d.toNat (f.mask c) fun l => BitVec.ofNat 32 (canonF32 (r l).1)]) f.s))

/-- `vget` and `vput` (R122): with every index below the arch count and every register read present, each lane reads or writes
the register that its index names. An index at or above the arch count is ILLEGAL_REG, with no effect. -/
def Sys2Proof.Claims.IndirectRegisters : Prop :=
  (∀ (s : State) (c : Cur) (f : V3), f.u = false →
    let srcs := f.srcs 1 0 0
    let e := f.mask c
    let ix := fun l => c.g.read (f.srcA 1) l % 64
    Issues s c none (srcs ++ [f.dst 1]) srcs f.mask →
    (∀ l ∈ lanesOf e, ix l < c.k.vregs ∧ (c.g.lane? (ix l) l).isSome = true) → Room s c e srcs 1 0 →
    exec (.vget f) s = .next (inFlight s c e srcs
      (fixedFlight s 6 0 [lanesWr f.d.toNat e fun l => BitVec.ofNat 32 ((c.g.lane? (ix l) l).getD 0)]) f.s)) ∧
  (∀ (s : State) (c : Cur) (f : V3), f.u = false →
    let srcs := f.srcs 1 1 0
    let e := f.mask c
    let ix := fun l => c.g.read (f.srcA 1) l % 64
    let named := (List.range 64).filter fun n => (lanesOf e).any fun l => ix l == n
    Issues s c none srcs srcs f.mask → (∀ l ∈ lanesOf e, ix l < c.k.vregs) → Room s c e srcs named.length 0 →
    exec (.vput f) s = .next (inFlight s c e srcs
      (fixedFlight s 6 0 (named.map fun n => lanesWr n (lanesWhere fun l => e.getLsbD l && ix l == n) fun l =>
        BitVec.ofNat 32 (c.g.read (f.srcB 1) l))) f.s)) ∧
  (∀ (s : State) (c : Cur) (f : V3), f.u = false →
    let e := f.mask c
    let bad := lanesWhere fun l => e.getLsbD l && decide (c.k.vregs ≤ c.g.read (f.srcA 1) l % 64)
    Issues s c none (f.srcs 1 0 0 ++ [f.dst 1]) (f.srcs 1 0 0) f.mask → bad ≠ 0 →
    exec (.vget f) s = .next (s.trap c { cause := 0x03, sub := 1, lane := true, fmask := bad })) ∧
  (∀ (s : State) (c : Cur) (f : V3), f.u = false →
    let e := f.mask c
    let bad := lanesWhere fun l => e.getLsbD l && decide (c.k.vregs ≤ c.g.read (f.srcA 1) l % 64)
    Issues s c none (f.srcs 1 1 0) (f.srcs 1 1 0) f.mask → bad ≠ 0 →
    exec (.vput f) s = .next (s.trap c { cause := 0x03, sub := 1, lane := true, fmask := bad }))

/-- `bdep` and `bext`: VZ9 does not execute them; each use takes ILLEGAL_OP with subcode NEWER (R148). -/
def Sys2Proof.Claims.NewerInstructionsTrap : Prop :=
  ∀ (s : State) (c : Cur) (f : V3), Issues s c none [] [] (·.p.mask) →
    exec (.bdep f) s = .next (s.trap c { cause := 0x01, sub := 2 }) ∧
    exec (.bext f) s = .next (s.trap c { cause := 0x01, sub := 2 })
/-- `red`, `scan`, `vget`, `vput`, and the instructions that VZ9 does not execute (R122, R145, R148).
Where it goes past the words of the spec it rests on the model's choices of log entries 55 and 75. -/
def Obligations.ReductionsAndIndirection : Prop :=
  Sys2Proof.Claims.ReductionsAndScans ∧ Sys2Proof.Claims.IndirectRegisters ∧ Sys2Proof.Claims.NewerInstructionsTrap

/-! ## Class FLT -/

namespace Sys2Proof.Claims
open Sys2Proof.Num

/-- Element j of a value in a FLT format (R135): the whole value, or a 16-bit half. -/
def elemOf (sub j x : Nat) : Nat := if 2 ≤ sub then x / 2 ^ (16 * j) % 2 ^ 16 else if sub = 1 then x % 2 ^ 64 else x % 2 ^ 32
/-- The result of the elements, and the OR of their flags. -/
def joinElems (sub : Nat) (r : Nat → Nat × Nat) : Nat × Nat :=
  if 2 ≤ sub then ((r 0).1 % 2 ^ 16 + 2 ^ 16 * ((r 1).1 % 2 ^ 16), (r 0).2 ||| (r 1).2) else r 0
/-- The writes of a result of n registers a lane, or of the group. -/
def fltWr (u : Bool) (d n : Nat) (e : Mask) (r : Nat → Nat × Nat) : List Wr :=
  if u then groupWr d (BitVec.ofNat 64 (r 0).1)
  else if n = 2 then pairWr d e fun l => BitVec.ofNat 64 (r l).1 else [lanesWr d e fun l => BitVec.ofNat 32 (r l).1]
/-- The flags that are raised: those of the lanes of E, or of the group's one computation (R65). -/
def fltFlags (u : Bool) (e : Mask) (r : Nat → Nat × Nat) : Nat :=
  (if u then [0] else lanesOf e).foldl (fun acc l => acc ||| (r l).2) 0

/-- What R133, R135, R65, R72 and R73 say of a FLT instruction whose lane function gives a result of nd registers and its flags:
it reads its operands of na, nb and nc registers and its random bits, the hardware sequences that it used step, and result
and flags are visible after lat cc. -/
def FltComputes (ins : V3 → Instr) (nd na nb nc lat : V3 → Nat) (fn : V3 → Nat → Nat → Nat → Nat → Nat × Nat) : Prop :=
  ∀ (s : State) (c : Cur) (f : V3),
    let srcs := f.srcs (na f) (nb f) (nc f) ++ f.srSrc
    let e := f.mask c
    let rd := fun (n : Nat) (o : Src) l => if n = 0 then 0 else c.g.read o l
    let r := fun l => fn f (rd (na f) (f.srcA (na f)) l) (rd (nb f) (f.srcB (nb f)) l) (rd (nc f) (f.srcC (nc f)) l) (f.rand c.g l)
    Issues s c none (srcs ++ [f.dst (nd f)]) srcs f.mask → Room s c e srcs (needV f.u (nd f)) (needG f.u f.d) →
    exec (ins f) s = .next (inFlight s { c with g := f.stepSeq c.g e } e srcs
      (fixedFlight s (lat f) (fltFlags f.u e r) (fltWr f.u f.d.toNat (nd f) e r)) f.s)

/-- An element-wise instruction of the word's format: the elements of A, B and C, and 16 random bits for each, give the elements
of the result (R135). -/
structure FltOp where
  ins : V3 → Instr
  useB : Bool
  useC : Bool
  lat : V3 → Nat
  fn : V3 → FFmt → Nat → Nat → Nat → Nat → Nat × Nat
/-- 6 cc, or 10 for `.f64` (Table MAP-14). -/
def arithLat (f : V3) : Nat := if f.fmt = 1 then 10 else 6
/-- NV if an operand is a signaling NaN. -/
def raiseNv (F : FFmt) (xs : List Nat) : Nat := if xs.any fun x => (decodeF F x).isSig then NV else 0
/-- Whether value x lies below value y, with -0 below +0 (R149). -/
def lessThan (F : FFmt) (x y : Nat) : Bool :=
  decide (cmpFV (decodeF F x) (decodeF F y) < 0) ||
    (cmpFV (decodeF F x) (decodeF F y) == 0 && signOf F x && !signOf F y)
/-- The smaller or the larger of two values; a NaN gives the other operand, or the canonical NaN under SAT or with two NaNs. -/
def minMax (F : FFmt) (larger sat : Bool) (a b : Nat) : Nat :=
  if (decodeF F a).isNan && (decodeF F b).isNan then F.nan
  else if (decodeF F a).isNan then (if sat then F.nan else b)
  else if (decodeF F b).isNan then (if sat then F.nan else a)
  else if larger then (if lessThan F a b then b else a) else (if lessThan F b a then b else a)
/-- The magnitude of a under a sign; a NaN gives the canonical NaN (R63). -/
def signed' (F : FFmt) (neg : Bool) (a : Nat) : Nat :=
  if (decodeF F a).isNan then F.nan else a % 2 ^ (F.w - 1) + if neg then 2 ^ (F.w - 1) else 0
/-- Table ALU-8, `fclamp`, `fsqrt`, `fdiv` and `frnd`: exact operations, rounded once by RM (R149, R152, R153, R155). -/
def fltOps : List FltOp :=
  [ ⟨.fadd, true, false, arithLat, fun f F a b _ r => encodeSum F f.x.rm.toNat f.x.sat r [decodeF F a, decodeF F b]⟩,
    ⟨.fsub, true, false, arithLat, fun f F a b _ r => encodeSum F f.x.rm.toNat f.x.sat r [decodeF F a, negFV (decodeF F b)]⟩,
    ⟨.fmul, true, false, arithLat, fun f F a b _ r =>
      let v := mulFV (decodeF F a) (decodeF F b)
      ((encodeF F f.x.rm.toNat f.x.sat r v).1, (encodeF F f.x.rm.toNat f.x.sat r v).2 ||| if v.isSig then NV else 0)⟩,
    ⟨.fma, true, true, arithLat, fun f F a b c r =>
      encodeSum F f.x.rm.toNat f.x.sat r [mulFV (decodeF F a) (decodeF F b), decodeF F c]⟩,
    ⟨.fmin, true, false, arithLat, fun f F a b _ _ => (minMax F false f.x.sat a b, raiseNv F [a, b])⟩,
    ⟨.fmax, true, false, arithLat, fun f F a b _ _ => (minMax F true f.x.sat a b, raiseNv F [a, b])⟩,
    ⟨.fabs, false, false, arithLat, fun _ F a _ _ _ => (signed' F false a, 0)⟩,
    ⟨.fneg, false, false, arithLat, fun _ F a _ _ _ => (signed' F (!signOf F a) a, 0)⟩,
    ⟨.fsign, true, false, arithLat, fun _ F a b _ _ => (signed' F (signOf F b) a, 0)⟩,
    ⟨.fclamp, true, true, fun _ => 6, fun _ F a b c _ =>
      (if (decodeF F a).isNan then F.nan else minMax F false false (minMax F true false a b) c, raiseNv F [a, b, c])⟩,
    ⟨.fsqrt, false, false, fun _ => 28, fun f F a _ _ r =>
      let v := sqrtOf (decodeF F a)
      ((encodeF F f.x.rm.toNat false r v.1).1, (encodeF F f.x.rm.toNat false r v.1).2 ||| v.2)⟩,
    ⟨.fdiv, true, false, fun _ => 28, fun f F a b _ r =>
      let v := divOf (decodeF F a) (decodeF F b)
      ((encodeF F f.x.rm.toNat false r v.1).1, (encodeF F f.x.rm.toNat false r v.1).2 ||| v.2)⟩,
    ⟨.frnd, false, false, fun _ => 6, fun f F a _ _ r => rndOf F f.x.rm.toNat r (decodeF F a)⟩ ]

/-- Table ALU-9: the function of a value that is no NaN, with the flag of its special case. -/
structure SpecialOp where
  ins : V3 → Instr
  fn : FV → FV × Nat
def specialOps : List SpecialOp :=
  [ ⟨.frcp, recipOf⟩, ⟨.frsq, rsqOf⟩, ⟨.fexp2, exp2Of⟩, ⟨.flog2, log2Of⟩, ⟨.fsinpi, sinpiOf⟩, ⟨.fcospi, cospiOf⟩,
    ⟨.ftanh, tanhOf⟩ ]
/-- The RNE value of the function; a NaN gives the canonical NaN, with NV where it is signaling (R151). -/
def specialElem (p : SpecialOp) (F : FFmt) (a : Nat) : Nat × Nat :=
  if (decodeF F a).isNan then (F.nan, if (decodeF F a).isSig then NV else 0)
  else ((encodeF F 0 false 0 (p.fn (decodeF F a)).1).1,
    (p.fn (decodeF F a)).2 ||| (encodeF F 0 false 0 (p.fn (decodeF F a)).1).2)

/-- Table ALU-9: what a row's input gives, and what the row says. -/
def specialRows (F : FFmt) : List ((Nat × Nat) × (Nat × Nat)) :=
  let inf := F.infCode
  let neg := 2 ^ (F.w - 1)
  let one := (2 ^ (F.eb - 1) - 1) * 2 ^ (F.p - 1)
  let at' := fun (fn : FV → FV × Nat) (a : Nat) => specialElem ⟨.frcp, fn⟩ F a
  let sq := fun a => roundOf F 0 0 (sqrtOf (decodeF F a))
  let dv := fun a b => roundOf F 0 0 (divOf (decodeF F a) (decodeF F b))
  [ (at' recipOf 0, (inf, DZ)),
    (at' recipOf neg, (neg + inf, DZ)), (at' recipOf inf, (0, 0)), (at' recipOf (neg + inf), (neg, 0)),
    (at' rsqOf 0, (inf, DZ)), (at' rsqOf neg, (neg + inf, DZ)), (at' rsqOf inf, (0, 0)),
    (at' rsqOf (neg + one), (F.nan, NV)), (at' rsqOf (neg + inf), (F.nan, NV)), (sq neg, (neg, 0)),
    (sq inf, (inf, 0)), (sq (neg + one), (F.nan, NV)), (sq (neg + inf), (F.nan, NV)),
    (at' exp2Of (neg + inf), (0, 0)), (at' exp2Of inf, (inf, 0)), (at' exp2Of neg, (one, 0)),
    (at' log2Of 0, (neg + inf, DZ)), (at' log2Of one, (0, 0)), (at' log2Of inf, (inf, 0)),
    (at' log2Of (neg + one), (F.nan, NV)), (at' sinpiOf neg, (neg, 0)), (at' sinpiOf one, (0, 0)),
    (at' sinpiOf (neg + one), (neg, 0)), (at' sinpiOf inf, (F.nan, NV)), (at' cospiOf inf, (F.nan, NV)),
    (at' cospiOf (one - 2 ^ (F.p - 1)), (0, 0)), (at' tanhOf neg, (neg, 0)),
    (at' tanhOf (neg + inf), (neg + one, 0)), (dv one 0, (inf, DZ)), (dv one neg, (neg + inf, DZ)),
    (dv 0 0, (F.nan, NV)), (dv inf inf, (F.nan, NV)), (dv one (neg + inf), (neg, 0)) ]

/-- HALF and the other format or type of a conversion (R153), the byte and the format of `cvt8` and `exp8` (R154). -/
def otherCode (f : V3) : Nat := f.b.toNat % 4
def halfNo (f : V3) : Nat := f.b.toNat / 4 % 2
def byteNo (f : V3) : Nat := f.b.toNat / 32 % 4
/-- A converted value in both halves of a packed destination. -/
def spread (sub : Nat) (r : Nat × Nat) : Nat × Nat := if 2 ≤ sub then (r.1 % 2 ^ 16 * (2 ^ 16 + 1), r.2) else r
/-- The conversion of an element by R75; a signaling NaN raises NV. -/
def convert (f : V3) (a r : Nat) : Nat × Nat :=
  let v := decodeF (fltFmt f.fmt) a
  let G := fltFmt (otherCode f)
  ((encodeF G f.x.rm.toNat f.x.sat r v).1, (encodeF G f.x.rm.toNat f.x.sat r v).2 ||| if v.isSig then NV else 0)
/-- The integer type of `f2i` and `i2f`: its width and signedness. -/
def typeW (f : V3) : Nat := if otherCode f = 2 ∨ otherCode f = 3 then 64 else 32
def typeS (f : V3) : Bool := otherCode f == 0 || otherCode f == 2

/-- A FLT value read with the 10-bit classes of `fclass` (Table ALU-12). -/
def classBits (F : FFmt) (v : FV) : Nat :=
  match v with
  | .inf true => 1
  | .fin m e => if m < 0 then (if (Nat.log2 m.natAbs : Int) + e < 1 - F.bias then 4 else 2)
    else if (Nat.log2 m.natAbs : Int) + e < 1 - F.bias then 32 else 64
  | .zero true => 8
  | .zero false => 16
  | .inf false => 128
  | .nan true => 256
  | .nan false => 512
/-- The floating condition COND (R50): 0 to 5 ordered, 6 ordered, 7 unordered, 8 to 13 unordered or the relation. -/
def fltCond (cond : Nat) (x y : FV) : Bool :=
  let un := x.isNan || y.isNan
  let rel := fun k => intCond k (cmpFV x y) 0
  if cond < 6 then !un && rel cond else if cond = 6 then !un else if cond = 7 then un else un || rel (cond - 8)

end Sys2Proof.Claims
open Sys2Proof.Num

/-- `fadd`, `fsub`, `fmul`, `fma`, `fmin`, `fmax`, `fabs`, `fneg`, `fsign`, `fclamp`, `fsqrt`, `fdiv` and `frnd` complete with
the element-wise values of `fltOps` and their flags (R133, R135, R149, R152, R153, R155).
Where it goes past the words of the spec it rests on the model's choices of log entry 55. -/
def Obligations.FloatingElementwise : Prop :=
  ∀ p ∈ fltOps, FltComputes p.ins (fun f => fltRegs f.fmt) (fun f => fltRegs f.fmt)
    (fun f => if p.useB then fltRegs f.fmt else 0) (fun f => if p.useC then fltRegs f.fmt else 0) p.lat
    (fun f a b c r => joinElems f.fmt fun j =>
      p.fn f (fltFmt f.fmt) (elemOf f.fmt j a) (elemOf f.fmt j b) (elemOf f.fmt j c) (r / 2 ^ (16 * j) % 2 ^ 16))

/-- `frcp`, `frsq`, `fexp2`, `flog2`, `fsinpi`, `fcospi` and `ftanh` complete with the RNE value of their function after 16 cc, or
20 in a packed format; a NaN gives the canonical NaN (R151). -/
def Sys2Proof.Claims.SpecialFunctionsPieces : Prop :=
  ∀ p ∈ specialOps, FltComputes p.ins (fun f => fltRegs f.fmt) (fun f => fltRegs f.fmt) (fun _ => 0) (fun _ => 0)
    (fun f => if f.fmt = 0 then 16 else 20)
    (fun f a _ _ _ => joinElems f.fmt fun j => specialElem p (fltFmt f.fmt) (elemOf f.fmt j a))

/-- Table ALU-9 in binary32 and binary16: the special cases of `frcp`, `frsq`, `fexp2`, `flog2`, `fsinpi`, `fcospi`, `ftanh`,
`fsqrt` and `fdiv`, with their flags. -/
def Sys2Proof.Claims.SpecialCases : Prop := ∀ F ∈ [f32, f16], ∀ x ∈ specialRows F, x.1 = x.2
/-- The special functions: they complete, with the values of their special cases (the precision of the rest is open).
Where it goes past the words of the spec it rests on the model's choices of log entry 20. -/
def Obligations.SpecialFunctions : Prop :=
  Sys2Proof.Claims.SpecialFunctionsPieces ∧ Sys2Proof.Claims.SpecialCases

/-- `fcvt`, `f2i`, `i2f` and `exp8` (R153, R154): the source element, the conversion, and the places of the result. -/
def Sys2Proof.Claims.ConversionsPieces : Prop :=
  FltComputes .fcvt (fun f => fltRegs (otherCode f)) (fun f => fltRegs f.fmt) (fun _ => 0) (fun _ => 0) (fun _ => 6)
    (fun f a _ _ r =>
      if 2 ≤ f.fmt ∧ 2 ≤ otherCode f then joinElems 2 fun j => convert f (elemOf f.fmt j a) (r / 2 ^ (16 * j) % 2 ^ 16)
      else spread (otherCode f) (convert f (elemOf f.fmt (if 2 ≤ f.fmt then halfNo f else 0) a) (r % 2 ^ 16))) ∧
  FltComputes .f2i (fun f => if typeW f = 64 then 2 else 1) (fun f => fltRegs f.fmt) (fun _ => 0) (fun _ => 0) (fun _ => 6)
    (fun f a _ _ r =>
      let x := toInt (typeW f) (typeS f) f.x.rm.toNat (r % 2 ^ 16)
        (decodeF (fltFmt f.fmt) (elemOf f.fmt (if 2 ≤ f.fmt then halfNo f else 0) a))
      ((BitVec.ofInt 64 x.1).toNat, x.2)) ∧
  FltComputes .i2f (fun f => fltRegs f.fmt) (fun f => if typeW f = 64 then 2 else 1) (fun _ => 0) (fun _ => 0) (fun _ => 6)
    (fun f a _ _ r =>
      let x := readAs (typeS f) (BitVec.ofNat (typeW f) a)
      spread f.fmt (encodeF (fltFmt f.fmt) f.x.rm.toNat f.x.sat (r % 2 ^ 16) (if x = 0 then .zero false else .fin x 0))) ∧
  ∀ (s : State) (c : Cur) (f : V3), f.u = false →
    let srcs := f.srcs 1 0 0
    let e := f.mask c
    Issues s c none (srcs ++ [f.dst 1]) srcs f.mask → Room s c e srcs 1 0 →
    exec (.exp8 f) s = .next (inFlight s c e srcs
      (fixedFlight s 6 0 [lanesWr f.d.toNat e fun l => BitVec.ofNat 32 (encodeF f32 0 false 0
        (decode8 (B8.ofCode (f.b.toNat % 32)) (c.g.read (f.srcA 1) l / 2 ^ (8 * byteNo f) % 256))).1]) f.s)

/-- `cvt8` replaces one byte of d, whose other bytes are those of d at issue, without STALE; a lane that is dead or unmapped
supplies 0 (R154). -/
def Sys2Proof.Claims.PackedByteConversion : Prop :=
  ∀ (s : State) (c : Cur) (f : V3), f.u = false →
    let srcs := f.srcs 1 0 0 ++ f.srSrc
    let e := f.mask c
    let x := fun l => encode8 (B8.ofCode (f.b.toNat % 32)) f.x.rm.toNat f.x.sat (f.rand c.g l % 2 ^ 16)
      (decodeF f32 (c.g.read (f.srcA 1) l))
    let old := fun l => BitVec.ofNat 32 ((c.g.lane? f.d.toNat l).getD 0)
    let keep : BitVec 32 := ~~~((0xFF : BitVec 32) <<< (8 * byteNo f))
    Issues s c none (srcs ++ [f.dst 1]) srcs f.mask → Room s c e srcs 1 0 →
    exec (.cvt8 f) s = .next (inFlight s { c with g := f.stepSeq c.g e } e srcs
      (fixedFlight s 6 (fltFlags false e x) [lanesWr f.d.toNat e fun l =>
        (old l &&& keep) ||| (BitVec.ofNat 32 (x l).1 <<< (8 * byteNo f))]) f.s)

/-- `fscale`, `fclass`, `fdot2`, `fdot4b8` and `idot4` (R155), and `fcmp` (R150).
Where it goes past the words of the spec it rests on the model's choices of log entries 55 and 85. -/
def Obligations.ScaleClassDotAndCompare : Prop :=
  FltComputes .fscale (fun f => fltRegs f.fmt) (fun f => fltRegs f.fmt) (fun _ => 1) (fun _ => 0) (fun _ => 6)
    (fun f a b _ r => joinElems f.fmt fun j =>
      let n := if 2 ≤ f.fmt then (BitVec.ofNat 16 (b / 2 ^ (16 * j))).toInt else (BitVec.ofNat 32 b).toInt
      let v := scaleFV n (decodeF (fltFmt f.fmt) (elemOf f.fmt j a))
      let x := encodeF (fltFmt f.fmt) f.x.rm.toNat f.x.sat (r / 2 ^ (16 * j) % 2 ^ 16) v
      (x.1, x.2 ||| if v.isSig then NV else 0)) ∧
  (∀ (s : State) (c : Cur) (f : V3),
    let srcs := f.srcs (fltRegs f.fmt) 0 0
    let e := f.mask c
    let r := fun l => joinElems f.fmt fun j =>
      (classBits (fltFmt f.fmt) (decodeF (fltFmt f.fmt) (elemOf f.fmt j (c.g.read (f.srcA (fltRegs f.fmt)) l))), 0)
    Issues s c none (srcs ++ [f.dst 1]) srcs f.mask → Room s c e srcs (needV f.u 1) (needG f.u f.d) →
    exec (.fclass f) s = .next (inFlight s c e srcs (fixedFlight s 6 0 (fltWr f.u f.d.toNat 1 e r)) f.s)) ∧
  FltComputes .fdot2 (fun _ => 1) (fun _ => 1) (fun _ => 1) (fun _ => 1) (fun _ => 8)
    (fun f a b c r =>
      let F := fltFmt f.fmt
      encodeSum f32 f.x.rm.toNat f.x.sat (r % 2 ^ 16)
        [mulFV (decodeF F (elemOf f.fmt 0 a)) (decodeF F (elemOf f.fmt 0 b)),
         mulFV (decodeF F (elemOf f.fmt 1 a)) (decodeF F (elemOf f.fmt 1 b)), decodeF f32 c]) ∧
  (∀ (s : State) (c : Cur) (f : V3), f.u = false →
    let srcs := f.srcs 1 1 1
    let e := f.mask c
    let fa := B8.ofCode (c.g.b8fmt.toNat % 32)
    let fb := B8.ofCode (c.g.b8fmt.toNat / 256 % 32)
    let byte := fun (o : Src) l i => c.g.read o l / 2 ^ (8 * i) % 256
    let r := fun l => if fa.p = 0 ∨ fb.p = 0 then (f32.nan, NV) else
      encodeSum f32 f.x.rm.toNat false 0
        [mulFV (decode8 fa (byte (f.srcA 1) l 0)) (decode8 fb (byte (f.srcB 1) l 0)),
         mulFV (decode8 fa (byte (f.srcA 1) l 1)) (decode8 fb (byte (f.srcB 1) l 1)),
         mulFV (decode8 fa (byte (f.srcA 1) l 2)) (decode8 fb (byte (f.srcB 1) l 2)),
         mulFV (decode8 fa (byte (f.srcA 1) l 3)) (decode8 fb (byte (f.srcB 1) l 3)), decodeF f32 (c.g.read (f.srcC 1) l)]
    Issues s c none (srcs ++ [f.dst 1]) srcs f.mask → Room s c e srcs 1 0 →
    exec (.fdot4b8 f) s = .next (inFlight s c e srcs
      (fixedFlight s 8 (fltFlags false e r) [lanesWr f.d.toNat e fun l => BitVec.ofNat 32 (r l).1]) f.s)) ∧
  (∀ (s : State) (c : Cur) (f : V3), f.u = false →
    let srcs := f.srcs 1 1 1
    let e := f.mask c
    let byte := fun (sg : Bool) (o : Src) l i => readAs sg (BitVec.ofNat 8 (c.g.read o l / 2 ^ (8 * i)))
    let x := fun l i => byte (f.x.sub.getLsbD 0) (f.srcA 1) l i * byte (f.x.sub.getLsbD 1) (f.srcB 1) l i
    let sum := fun l => x l 0 + x l 1 + x l 2 + x l 3 + (BitVec.ofNat 32 (c.g.read (f.srcC 1) l)).toInt
    Issues s c none (srcs ++ [f.dst 1]) srcs f.mask → Room s c e srcs 1 0 →
    exec (.idot4 f) s = .next (inFlight s c e srcs
      (fixedFlight s 8 0 [lanesWr f.d.toNat e fun l =>
        if f.x.sat then saturate true 32 (sum l) else BitVec.ofInt 32 (sum l)]) f.s)) ∧
  (∀ (s : State) (c : Cur) (f : Cmp), f.x.cond.toNat ≤ 13 →
    let typ := f.x.typ.toNat
    let n := if typ = 1 then 2 else 1
    let a := usrc f.u f.a f.x.pa n 1
    let b := usrc f.u f.b f.x.pb n 2
    let x := fun l => decodeF (fltFmt typ) (c.g.read a l % 2 ^ (fltFmt typ).w)
    let y := fun l => decodeF (fltFmt typ) (c.g.read b l % 2 ^ (fltFmt typ).w)
    let guard := fun l => if f.u then c.condQ f.x.gp f.x.gi else (c.maskP f.x.gp f.x.gi).getLsbD l
    let sig := (if f.u then [0] else lanesOf c.p.mask).any fun l => guard l && ((x l).isSig || (y l).isSig)
    let quiet := [0, 1, 6, 7, 8, 9].contains f.x.cond.toNat
    Issues s c none [a, b] [a, b] (·.p.mask) →
    exec (.fcmp f) s = .next (inFlight s c c.p.mask [a, b]
      (fixedFlight s 4 (if sig && !quiet then NV else 0)
        (cmpWr c f.u f.x.gp f.x.gi f.pd1 f.pd2 f.x.ct.toNat fun l => fltCond f.x.cond.toNat (x l) (y l))) f.s))

/-- Encoding the value of a code gives the code back without a flag, under every rounding mode, for every code of binary16,
bfloat16, binary32 and binary64 that is no NaN; a NaN gives the canonical NaN (R63, R69, R81). -/
def Sys2Proof.Claims.EncodeDecodeFormats : Prop :=
  ∀ F ∈ [f16, bf16, f32, f64], ∀ (x rm r : Nat) (sat : Bool), x < 2 ^ F.w →
    encodeF F rm sat r (decodeF F x) = (if (decodeF F x).isNan then F.nan else x, 0)
/-- The conversions between formats and to integers, the packed byte formats, and the formats themselves.
Where it goes past the words of the spec it rests on the model's choices of log entry 86. -/
def Obligations.Conversions : Prop :=
  Sys2Proof.Claims.ConversionsPieces ∧ Sys2Proof.Claims.PackedByteConversion ∧ Sys2Proof.Claims.EncodeDecodeFormats

/-! ## Classes MEM and LOC -/

namespace Sys2Proof.Claims
open Sys2Proof.Num

/-- The writes of n registers a lane, 32 bits each, the lowest first. -/
def regsWr (d n : Nat) (e : Mask) (x : Nat → Nat) : List Wr :=
  (List.range n).map fun j => lanesWr (d + j) e fun l => BitVec.ofNat 32 (x l / 2 ^ (32 * j))
/-- The writes of a destination by U: n registers a lane, or the group's value, which is that of the lowest lane of E. -/
def accWr (u : Bool) (d n : Nat) (e : Mask) (x : Nat → Nat) : List Wr :=
  if u then groupWr d (BitVec.ofNat 64 (x (lowLane e))) else regsWr d n e x
/-- Table MEM-1: bytes of W, and the value that a load gives: sign-extended for codes 1 and 3. -/
def widthOf (w : Nat) : Nat := [1, 1, 2, 2, 4, 8, 16, 32].getD w 32
def loaded (u : Bool) (w x : Nat) : Nat :=
  if w = 1 then (if u then ((BitVec.ofNat 8 x).signExtend 64).toNat else ((BitVec.ofNat 8 x).signExtend 32).toNat)
  else if w = 3 then (if u then ((BitVec.ofNat 16 x).signExtend 64).toNat else ((BitVec.ofNat 16 x).signExtend 32).toNat)
  else x
/-- The address of lane l: base + index + immediate, modulo 2^64 (R156). -/
def addrOf (c : Cur) (base : BitVec 6) (a : Src) (imm : Int) (l : Nat) : Nat :=
  (BitVec.ofNat 64 (c.g.gval base.toNat) + BitVec.ofNat 64 (c.g.read a l) + BitVec.ofInt 64 imm).toNat
/-- The lanes that access memory: those of E in rising order, or one for the group (R158). -/
def accessors (u : Bool) (e : Mask) : List Nat := if u then [lowLane e] else lanesOf e
/-- Every lane passes the checks of R157: where each lane's bytes lie, and the state with the translations that were used. -/
abbrev Reaches (s : State) (c : Cur) (u : Bool) (e : Mask) (addr : Nat → Nat) (n : Nat) (a : Acs) (scope : Nat)
    (x : List (Nat × List Piece) × State) : Prop :=
  s.checkLanes c addr n a scope (accessors u e) = (([], x.1), x.2)
/-- The value that a list gives a lane. -/
def valOf (xs : List (Nat × Nat)) (l : Nat) : Nat := ((xs.find? (·.1 == l)).map (·.2)).getD 0
/-- POISON for the lanes whose data was poisoned, with the lanes' addresses (R160). -/
def poisonFor (u : Bool) (e : Mask) (addr : Nat → Nat) (bad : List Nat) : Option (Mask × List Nat) :=
  if bad = [] then none
  else some (if u then e else lanesWhere fun l => bad.contains l, (List.range 32).map fun l => if e.getLsbD l then addr l else 0)
/-- A flight of an access: a load's values with its poison, an atomic's, or a store's completion; a read or an atomic stands on the
scoreboard where a part of it lies in the domain aperture. -/
def accFlight (s : State) (cls : Drn) (away : Bool) (ws : List Wr) (poison : Option (Mask × List Nat)) : Flight :=
  { laterFlight s cls ws with board := away || !ws.isEmpty || poison.isSome, poison := poison }
/-- What an access awaits, where a part of it lies in the domain aperture: what its lanes have of their own package, and which of it
is poisoned. -/
def accAwait (u : Bool) (e : Mask) (w n : Nat) (d : Option (BitVec 6)) (addr : Nat → Nat) (xs : List (Nat × Nat)) (bad : List Nat) :
    Await :=
  { u := u, e := e, w := w, d := d.map BitVec.toNat, regs := n, lanes := xs.map fun x => (x.1, x.2, bad.contains x.1), parts := [],
    addrs := (List.range 32).map fun l => if e.getLsbD l then addr l else 0 }
def storeFlight (s : State) : Flight := { laterFlight s .ds [] with store := true }
/-- The store forms, and their bytes. -/
def storeOps : List ((MS → Instr) × Nat) :=
  [(.st8, 1), (.st16, 2), (.st32, 4), (.st64, 8), (.st128, 16), (.st256, 32)]
/-- Registers that hold n bytes of data. -/
def dataRegs (n : Nat) : Nat := if n < 4 then 1 else n / 4

/-- An atomic: its constructor, whether it compares, its place in Table MEM-2, the operation that a request for it names, and its new
value from the width in bits, the old value, the data and the compare value, with flags (Table MEM-2). -/
structure AtOp where
  ins : At → Instr
  cmp : Bool
  code : Nat
  am : At → AmOp
  fn : At → (w : Nat) → BitVec w → BitVec w → BitVec w → BitVec w × Nat
/-- Whether `amin` and `amax` are signed, and the format of `amfadd` (R42, R162). -/
def atTyp (f : At) : Nat := f.x.typ.toNat % 4
def atFmt (f : At) : Nat := if atTyp f = 2 then 2 else if atTyp f = 3 then 3 else if f.w = 5 then 1 else 0
def atOps : List AtOp :=
  [ ⟨.amadd, false, 0, fun _ => .add, fun _ _ o x _ => (o + x, 0)⟩,
    ⟨.amin, false, 1, fun f => .min (atTyp f == 1), fun f _ o x _ => (if readAs (atTyp f == 1) o ≤ readAs (atTyp f == 1) x then o else x, 0)⟩,
    ⟨.amax, false, 2, fun f => .max (atTyp f == 1), fun f _ o x _ => (if readAs (atTyp f == 1) o ≤ readAs (atTyp f == 1) x then x else o, 0)⟩,
    ⟨.amand, false, 3, fun _ => .and, fun _ _ o x _ => (o &&& x, 0)⟩,
    ⟨.amor, false, 4, fun _ => .or, fun _ _ o x _ => (o ||| x, 0)⟩,
    ⟨.amxor, false, 5, fun _ => .xor, fun _ _ o x _ => (o ^^^ x, 0)⟩,
    ⟨.amxch, false, 6, fun _ => .xch, fun _ _ _ x _ => (x, 0)⟩,
    ⟨.amcas, true, 7, fun _ => .cas, fun _ _ o x y => (if o = y then x else o, 0)⟩,
    ⟨.amfadd, false, 8, fun f => .fadd (atFmt f), fun f w o x _ =>
      let F := fltFmt (atFmt f)
      let r := joinElems (atFmt f) fun j =>
        encodeSum F 0 false 0 [decodeF F (elemOf (atFmt f) j o.toNat), decodeF F (elemOf (atFmt f) j x.toNat)]
      (BitVec.ofNat w r.1, r.2)⟩,
    ⟨.aminc, false, 9, fun _ => .inc, fun _ _ o x _ => (if x ≤ o then 0 else o + 1, 0)⟩ ]
/-- The block of the issuing group has acted beyond itself (R316). -/
def sidedCur (c : Cur) : Cur := { c with b := { c.b with side := true } }

/-- The scratchpad store forms: bytes, and whether the data is one word repeated (R171, R173). -/
def scratchStores : List ((MS → Instr) × Nat × Bool) :=
  [(.sst8, 1, false), (.sst16, 2, false), (.sst32, 4, false), (.sst64, 8, false), (.sst128, 16, false), (.sfill, 64, true)]
/-- A lane's offset into the buffer: index and immediate. -/
def offOf (c : Cur) (a : Src) (imm : Int) (l : Nat) : Int := (c.g.read a l : Int) + imm
/-- The lanes that pass the checks of Table MEM-9, of those judged. -/
def passing (kinds : List (Nat × Nat)) : Mask := lanesWhere fun l => kinds.any fun x => x.1 == l && x.2 == 0
/-- The lanes that are switched off, with their kinds. -/
def failing (kinds : List (Nat × Nat)) : List (Nat × Nat) := kinds.filter (·.2 != 0)
/-- The operation of `samo` by its TYPE (R172). -/
def samoOp (typ : Nat) {w : Nat} (o x y : BitVec w) : BitVec w :=
  match typ with
  | 0 => o + x
  | 1 => o &&& x
  | 2 => o ||| x
  | 3 => o ^^^ x
  | 4 => x
  | 5 => if o = y then x else o
  | 6 => if o.toInt ≤ x.toInt then o else x
  | _ => if o.toInt ≤ x.toInt then x else o

end Sys2Proof.Claims

/-- `ld` reads the bytes of every lane at its address, in rising order, and its values arrive later: zero- or sign-extended by W,
wider ones in consecutive registers; poisoned data arrives as POISON (R156 to R161). What lies in the domain aperture is asked of
its package (`RemoteAccesses`).
Where it goes past the words of the spec it rests on the model's choices of log entries 15 and 21. -/
def Obligations.Loads : Prop :=
  ∀ (s : State) (c : Cur) (f : M) (x : List (Nat × List Piece) × State),
    let a := usrc f.u f.a (paramShort f.a) 1 1
    let n := if f.u then 1 else wRegs f.w
    let srcs := [a, gfld f.base]
    let mask := fun (c : Cur) => c.mask f.u f.x.gp f.x.gi
    let e := mask c
    let addr := addrOf c f.base a f.x.imm.toInt
    let r := x.2.readLanes x.1
    let away := x.2.apParts (fun _ => {}) x.1
    Issues s c none (srcs ++ [{ grp := f.u, num := f.d.toNat, n := n }]) srcs mask →
    Reaches s c f.u e addr (widthOf f.w.toNat) .read f.x.scope.toNat x → Room x.2 c e srcs (needV f.u n) (needG f.u f.d) →
    exec (.ld f) s = .next ((inFlightLater r.2 c e srcs
      (accFlight r.2 .dl (!away.isEmpty) (accWr f.u f.d.toNat n e fun l => loaded f.u f.w.toNat (valOf r.1.1 l))
        (poisonFor f.u e addr r.1.2)) f.s).asks c.ref (some (accAwait f.u e f.w.toNat n (some f.d) addr r.1.1 r.1.2)) away)

/-- `st8` to `st256` write the low bytes of the data of every lane at its address, in rising order of lanes, and count under DS
until they complete; nothing else of memory is written, and a granule that the lanes together write whole loses its poison (R156 to
R158, R160, R161). -/
def Sys2Proof.Claims.Stores : Prop :=
  ∀ p ∈ storeOps, ∀ (s : State) (c : Cur) (f : MS) (x : List (Nat × List Piece) × State),
    let a := usrc f.u f.a (paramShort f.a) 1 1
    let data := usrc f.u f.data (paramShort f.data) (dataRegs p.2) 4
    let srcs := [a, data, gfld f.base]
    let mask := fun (c : Cur) => c.mask f.u f.x.gp f.x.gi
    let e := mask c
    let addr := addrOf c f.base a f.x.imm.toInt
    let t := (x.2.writeLanes p.2 (fun l => c.g.read data l) x.1).unpoisonAll (x.1.flatMap (·.2))
    Issues s c none srcs srcs mask → Reaches s c f.u e addr p.2 .write f.x.scope.toNat x →
    exec (p.1 f) s = .next ((inFlightLater t c e srcs (storeFlight t) f.s).asks c.ref none
      (x.2.apParts (fun l => { code := 1, data := leBytes p.2 (c.g.read data l) }) x.1))

/-- The ten atomics read, compute and write in every lane in rising order, at the width of W; they return the old values unless
`.nr`, raise the flags of `amfadd`, do not modify poisoned bytes, and mark the block SIDE (R42, R158, R160, R162, R316).
Where it goes past the words of the spec it rests on the model's choices of log entries 14, 15 and 21. -/
def Obligations.Atomics : Prop :=
  ∀ p ∈ atOps, ∀ (s : State) (c : Cur) (f : At) (x : List (Nat × List Piece) × State),
    let a := usrc f.u f.a (paramShort f.a) 1 1
    let regs := if f.u then 1 else wRegs f.w
    let n := widthOf f.w.toNat
    let data := usrc f.u f.x.data (paramShort f.x.data) regs 4
    let cm := usrc f.u f.x.cmp (paramShort f.x.cmp) regs 4
    let srcs := [a, data, gfld f.base] ++ if p.cmp then [cm] else []
    let dst : List Src := if atNr f then [] else [{ grp := f.u, num := f.d.toNat, n := regs }]
    let mask := fun (c : Cur) => c.mask f.u f.x.gp f.x.gi
    let e := mask c
    let addr := addrOf c f.base a 0
    let new := fun l old =>
      let v := p.fn f (8 * n) (BitVec.ofNat (8 * n) old) (BitVec.ofNat (8 * n) (c.g.read data l))
        (BitVec.ofNat (8 * n) (if p.cmp then c.g.read cm l else 0))
      (v.1.toNat, v.2)
    let r := x.2.atomicLanes n new x.1
    let low := fun (z : Nat) => z % 2 ^ (8 * n)
    let two := fun l => (low (c.g.read data l), if p.cmp then low (c.g.read cm l) else 0)
    let away := x.2.apParts (fun l => { code := 2 + p.code, data := leBytes n (two l).1 ++ if p.cmp then leBytes n (two l).2 else [] }) x.1
    Issues s c none (srcs ++ dst) srcs mask → Reaches s c f.u e addr n .both f.x.scope.toNat x →
    Room x.2 c e srcs (if atNr f then 0 else needV f.u regs) (if atNr f then 0 else needG f.u f.d) →
    exec (p.ins f) s = .next ((inFlightLater r.2 (sidedCur c) e srcs
      { accFlight r.2 .da (!away.isEmpty) (if atNr f then [] else accWr f.u f.d.toNat regs e (valOf r.1.1)) (poisonFor f.u e addr r.1.2.2)
        with flags := r.1.2.1 } f.s).asks c.ref
      (some { accAwait f.u e n regs (if atNr f then none else some f.d) addr r.1.1 r.1.2.2 with
        op := some (p.am f), data := x.1.map fun y => (y.1, two y.1) }) away)

/-- `fence` and `pref` only go on; `cwb` and `cinv` count under DS until they complete (R163, R164). Memory orders accesses as
they issue, which is the model's choice (log 14). -/
def Sys2Proof.Claims.FenceAndCacheInstructions : Prop :=
  ∀ (s : State) (c : Cur) (f : M),
    let srcs := [vsrc f.a (paramShort f.a) 1 1, gfld f.base]
    let mask := fun (c : Cur) => c.maskP f.x.gp f.x.gi
    (Issues s c none [] [] mask → exec (.fence f) s = .next (issued s c (mask c) [] f.s)) ∧
    (Issues s c none srcs srcs mask →
      exec (.pref f) s = .next (issued s c (mask c) srcs f.s) ∧
      exec (.cwb f) s = .next (inFlightLater s c (mask c) srcs (storeFlight s) f.s) ∧
      exec (.cinv f) s = .next (inFlightLater s c (mask c) srcs (storeFlight s) f.s))
/-- The global stores, `fence`, `pref`, `cwb` and `cinv`. -/
def Obligations.StoresFencesAndCaches : Prop :=
  Sys2Proof.Claims.Stores ∧ Sys2Proof.Claims.FenceAndCacheInstructions

/-- The checks of one address (R157): one at or above 2^57 is ACCESS with subcode 1; then one that is not a multiple of the
access's alignment is MISALIGNED; then the walk and the leaf decide. -/
def Sys2Proof.Claims.AddressChecks : Prop :=
  ∀ (s : State) (c : Cur) (addr n : Nat) (a : Acs) (scope : Nat),
    (2 ^ 57 ≤ addr → s.checkLane c addr n a scope = (.inl ⟨1, 0x09, 1, 0⟩, s)) ∧
    (addr < 2 ^ 57 → addr % (if n = 32 then 16 else n) ≠ 0 → s.checkLane c addr n a scope = (.inl ⟨2, 0x0A, 0, 0⟩, s)) ∧
    (∀ m t, s.checkLane c addr n a scope = (.inl m, t) → (m.cause = 0x08 ∧ m.rank = 3) ∨ m.cause = 0x09 ∨ m.cause = 0x0A)
/-- Lanes fail the checks of R157: one lane fault, the first cause in the order of R157 that some lane meets, on exactly the lanes
that meet it, or on all of E under U = 1, with every lane's address in the frame. -/
def Sys2Proof.Claims.LaneFault (s : State) (c : Cur) (u : Bool) (e : Mask) (addr : Nat → Nat) (n : Nat) (a : Acs) (scope : Nat)
    (i : Instr) : Prop :=
  let r := s.checkLanes c addr n a scope (accessors u e)
  r.1.1 ≠ [] →
  ∃ m ∈ r.1.1, (∀ x ∈ r.1.1, m.2.rank ≤ x.2.rank) ∧
    let fm := if u then e else lanesWhere fun l => r.1.1.any fun x => x.1 == l && x.2.rank == m.2.rank
    exec i s = .next (r.2.trap c
      { cause := m.2.cause, sub := m.2.sub, lane := true, fmask := fm, exta := true, faddr := addr (lowLane fm),
        ext := (List.range 32).map fun l => if e.getLsbD l then addr l else 0 })
/-- A load, a store or an atomic whose lanes fail the checks of R157 takes one lane fault; nothing is read or stored. -/
def Sys2Proof.Claims.AccessFaultsPieces : Prop :=
  (∀ (s : State) (c : Cur) (f : M),
    let a := usrc f.u f.a (paramShort f.a) 1 1
    let srcs := [a, gfld f.base]
    let mask := fun (c : Cur) => c.mask f.u f.x.gp f.x.gi
    Issues s c none (srcs ++ [{ grp := f.u, num := f.d.toNat, n := if f.u then 1 else wRegs f.w }]) srcs mask →
    LaneFault s c f.u (mask c) (addrOf c f.base a f.x.imm.toInt) (widthOf f.w.toNat) .read f.x.scope.toNat (.ld f)) ∧
  (∀ p ∈ storeOps, ∀ (s : State) (c : Cur) (f : MS),
    let a := usrc f.u f.a (paramShort f.a) 1 1
    let data := usrc f.u f.data (paramShort f.data) (dataRegs p.2) 4
    let srcs := [a, data, gfld f.base]
    let mask := fun (c : Cur) => c.mask f.u f.x.gp f.x.gi
    Issues s c none srcs srcs mask →
    LaneFault s c f.u (mask c) (addrOf c f.base a f.x.imm.toInt) p.2 .write f.x.scope.toNat (p.1 f)) ∧
  ∀ p ∈ atOps, ∀ (s : State) (c : Cur) (f : At),
    let a := usrc f.u f.a (paramShort f.a) 1 1
    let regs := if f.u then 1 else wRegs f.w
    let srcs := [a, usrc f.u f.x.data (paramShort f.x.data) regs 4, gfld f.base] ++
      if p.cmp then [usrc f.u f.x.cmp (paramShort f.x.cmp) regs 4] else []
    let mask := fun (c : Cur) => c.mask f.u f.x.gp f.x.gi
    Issues s c none (srcs ++ if atNr f then [] else [{ grp := f.u, num := f.d.toNat, n := regs }]) srcs mask →
    LaneFault s c f.u (mask c) (addrOf c f.base a 0) (widthOf f.w.toNat) .both f.x.scope.toNat (p.ins f)
/-- The checks of a global access, and the faults that it takes (R157).
Where it goes past the words of the spec it rests on the model's choices of log entry 29. -/
def Obligations.AccessFaults : Prop :=
  Sys2Proof.Claims.AccessFaultsPieces ∧ Sys2Proof.Claims.AddressChecks

/-- What reading and writing bytes do in a memory of canonical form (StepKeepsMemory): bytes written at a physical address read back
under the same key, in a region that no port going down and no migration record touches. Every other byte reads as before: under any key where its granule is not
touched, and under the writer's key where its granule stood under it (R3, R161, R340). -/
def Sys2Proof.Claims.StoredBytes : Prop :=
  ∀ (s : State) (key : Option (BitVec 256)) (pa : Nat) (bs : List Byte), MemOk s → s.migs = [] → s.cxlIsDown pa = false →
    (s.writePhys key pa bs).readPhys key pa bs.length = bs ∧
    ∀ a, (a < pa ∨ pa + bs.length ≤ a) →
      ((a / 64 < pa / 64 ∨ (pa + bs.length - 1) / 64 < a / 64 ∨ bs = []) →
        ∀ k, (s.writePhys key pa bs).readByte k a = s.readByte k a) ∧
      (s.granuleKey a = key → (s.writePhys key pa bs).readByte key a = s.readByte key a)
/-- A write changes memory, keys, poison and migration counts, and nothing else; behind a CXL port that is down it is discarded
and logged (R160, R338, R340, R372). -/
def Sys2Proof.Claims.WritesChangeMemoryOnly : Prop :=
  ∀ (s : State) (key : Option (BitVec 256)) (pa : Nat) (bs : List Byte),
    let t := s.writePhys key pa bs
    (s.cxlIsDown pa = false →
      t = { s with mem := t.mem, granKey := t.granKey, poison := t.poison, migs := t.migs } ∧
      (∀ g ∈ t.poison, g ∈ s.poison)) ∧
    (s.cxlIsDown pa = true → t = { s with logHead := s.logHead + 1, log := t.log })
/-- What a write leaves in memory, and that it changes nothing else.
Where it goes past the words of the spec it rests on the model's choices of log entry 4. -/
def Obligations.MemoryWrites : Prop :=
  Sys2Proof.Claims.StoredBytes ∧ Sys2Proof.Claims.WritesChangeMemoryOnly

/-- `sld`: every lane is checked by Table MEM-9; the lanes that pass read the buffer, and their values arrive later; the others
are then switched off, with their kinds in the fault mask (R171, R172, R174). -/
def Sys2Proof.Claims.ScratchpadLoads : Prop :=
  ∀ (s : State) (c : Cur) (f : M) (b : Buf),
    let a := usrc f.u f.a (paramShort f.a) 1 1
    let n := widthOf f.w.toNat
    let regs := if f.u then 1 else wRegs f.w
    let srcs := [a, gfld f.base]
    let mask := fun (c : Cur) => c.mask f.u f.x.gp f.x.gi
    let e := mask c
    let off := offOf c a f.x.imm.toInt
    let h := c.g.gval f.base.toNat
    let kinds := s.laneKinds c f.u e h off n n true
    let ok := passing kinds
    let poisoned := (accessors f.u ok).filter fun l => b.poisoned (off l).toNat n
    Issues s c none (srcs ++ [{ grp := f.u, num := f.d.toNat, n := regs }]) srcs mask → s.handle c.b.die h = .buf b → ok ≠ 0 →
    Room s c e srcs (needV f.u regs) (needG f.u f.d) →
    exec (.sld f) s = .next ((inFlightLater s c e srcs
      (accFlight s .dl false (accWr f.u f.d.toNat regs ok fun l => loaded f.u f.w.toNat (leVal (Memory.readN b.bytes (off l).toNat n)))
        (poisonFor f.u ok (fun l => (off l).toNat) poisoned)) f.s).switchOff c.ref.blk c.ref.grp (failing kinds))

/-- `sst8` to `sst128` and `sfill`: as `sld`, and the lanes that pass write the buffer in rising order, and a granule that they
together write whole loses its poison (R160, R171 to R174). -/
def Sys2Proof.Claims.ScratchpadStores : Prop :=
  ∀ p ∈ scratchStores, ∀ (s : State) (c : Cur) (f : MS) (b : Buf),
    let n := p.2.1
    let a := usrc f.u f.a (paramShort f.a) 1 1
    let data := usrc f.u f.data (paramShort f.data) (if p.2.2 then 1 else dataRegs n) 4
    let srcs := [a, data, gfld f.base]
    let mask := fun (c : Cur) => c.mask f.u f.x.gp f.x.gi
    let e := mask c
    let off := offOf c a f.x.imm.toInt
    let h := c.g.gval f.base.toNat
    let kinds := s.laneKinds c f.u e h off n n false
    let ok := passing kinds
    let bytes := fun l => if p.2.2 then (List.replicate 16 (leBytes 4 (c.g.read data l))).flatten else leBytes n (c.g.read data l)
    let t := s.setBuf (((accessors f.u ok).foldl (fun b l => b.write (off l).toNat (bytes l)) b).unpoison
      ((accessors f.u ok).map fun l => ((off l).toNat, n)))
    Issues s c none srcs srcs mask → s.handle c.b.die h = .buf b → ok ≠ 0 →
    exec (p.1 f) s = .next ((inFlightLater t c e srcs (storeFlight t) f.s).switchOff c.ref.blk c.ref.grp (failing kinds))

/-- `samo` reads, computes and writes in every lane that passes, in rising order, and returns the old values (R172, R174). -/
def Sys2Proof.Claims.ScratchpadAtomics : Prop :=
  ∀ (s : State) (c : Cur) (f : At) (b : Buf),
    let a := usrc f.u f.a (paramShort f.a) 1 1
    let regs := if f.u then 1 else wRegs f.w
    let n := widthOf f.w.toNat
    let data := usrc f.u f.x.data (paramShort f.x.data) regs 4
    let cm := usrc f.u f.x.cmp (paramShort f.x.cmp) regs 4
    let typ := f.x.typ.toNat
    let srcs := [a, data, gfld f.base] ++ if typ = 5 then [cm] else []
    let mask := fun (c : Cur) => c.mask f.u f.x.gp f.x.gi
    let e := mask c
    let off := offOf c a 0
    let h := c.g.gval f.base.toNat
    let kinds := s.laneKinds c f.u e h off n n true
    let ok := passing kinds
    let new := fun l old => (samoOp typ (BitVec.ofNat (8 * n) old) (BitVec.ofNat (8 * n) (c.g.read data l))
      (BitVec.ofNat (8 * n) (if typ = 5 then c.g.read cm l else 0))).toNat
    let r := samoLanes n (fun l => (off l).toNat) new (accessors f.u ok) b
    let t := s.setBuf r.1
    Issues s c none (srcs ++ [{ grp := f.u, num := f.d.toNat, n := regs }]) srcs mask → s.handle c.b.die h = .buf b → ok ≠ 0 →
    Room s c e srcs (needV f.u regs) (needG f.u f.d) →
    exec (.samo f) s = .next ((inFlightLater t c e srcs
      (accFlight t .da false (accWr f.u f.d.toNat regs ok (valOf r.2.1)) (poisonFor f.u ok (fun l => (off l).toNat) r.2.2)) f.s).switchOff
        c.ref.blk c.ref.grp (failing kinds))
/-- Loads, stores, fills and atomics of the scratchpad.
Where it goes past the words of the spec it rests on the model's choices of log entry 15. -/
def Obligations.Scratchpad : Prop :=
  Sys2Proof.Claims.ScratchpadLoads ∧ Sys2Proof.Claims.ScratchpadStores ∧ Sys2Proof.Claims.ScratchpadAtomics

/-- The kinds of Table MEM-9, in their order; lanes that a check fails are switched off: their kinds are recorded, they leave the
group as by `exit`, dead in every vector register and arrived at every open token, and no path holds them, of those that run, that
wait in a token or that stand on the divergence stack, where none but the running paths held them before (R104, R174). -/
def Sys2Proof.Claims.SwitchedOffLanes : Prop :=
  (∀ (s : State) (b : Block) (h n align : Nat) (o : Int) (reads : Bool), 0 < n →
    let kind := s.laneKind b h o n align reads
    (s.handle b.die h = .bad → kind = 5) ∧ (s.handle b.die h = .stale → kind = 4) ∧
    ∀ u, s.handle b.die h = .buf u →
      (u.heldBy b = false → kind = 1) ∧
      (u.heldBy b = true → o % (align : Int) ≠ 0 → kind = 6) ∧
      (u.heldBy b = true → o % (align : Int) = 0 → (o < 0 ∨ (u.size : Int) < o + n → kind = 2) ∧
        (0 ≤ o → o + n ≤ (u.size : Int) →
          let unwritten := ∃ i < n, (o.toNat + i) / 64 ∉ u.valid
          (reads = true → unwritten → kind = 3) ∧ (reads = false ∨ ¬ unwritten → kind = 0)))) ∧
  ∀ (s : State) (c : Cur) (bad : List (Nat × Nat)),
    let off := lanesWhere fun l => bad.any (·.1 == l)
    s.cursor = some c → bad ≠ [] → c.g.exited ||| off ≠ allLanes →
    ∃ g : Group, (s.switchOff c.ref.blk c.ref.grp bad).group? c.ref.blk c.ref.grp = some g ∧
      g.fm = c.g.fm ||| off ∧ g.exited = c.g.exited ||| off ∧
      (∀ l < 32, bad.any (·.1 == l) → g.kinds.getD l 0 = ((bad.find? (·.1 == l)).map (·.2)).getD 0 ∧ ∀ n, g.lane? n l = none) ∧
      (∀ t ∈ g.toks, t.isOpen = true → t.mask &&& off &&& ~~~t.arrived = 0) ∧
      ((∀ x ∈ c.g.stack, x.mask &&& off = 0) → (∀ t ∈ c.g.toks, t.parked &&& off = 0) →
        (∀ k p, g.path? k = some p → p.mask &&& off = 0) ∧ (∀ x ∈ g.stack, x.mask &&& off = 0) ∧ ∀ t ∈ g.toks, t.parked &&& off = 0)

/-- `hinfo`, `fmask`, `fmclr` and `halloc`, `hfree`, `hpass` where the handle and the holder are good (R166 to R168, R175). -/
def Sys2Proof.Claims.BuffersAndFaultMask : Prop :=
  ∀ (s : State) (c : Cur) (f : M),
    let a := gsrc f.a 1 1
    let h := c.g.gval f.base.toNat
    let mask := fun (c : Cur) => c.maskP f.x.gp f.x.gi
    let e := mask c
    (Issues s c none [gfld f.base, gfld f.d] [gfld f.base] mask → Room s c e [] 0 (needG true f.d) →
      exec (.hinfo f) s = .next (inFlightLater s c e []
        (laterFlight s .dl (groupWr f.d.toNat (BitVec.ofNat 64 (s.hinfoVal c.b f.w.toNat h)))) f.s) ∧
      exec (.fmask f) s = .next (inFlightLater s c e []
        (laterFlight s .dl (groupWr f.d.toNat (BitVec.ofNat 64 (c.g.fm.toNat + 2 ^ 32 * kindBits c.g.fm c.g.kinds +
          2 ^ 48 * if c.g.fm.getLsbD (h % 32) then c.g.kinds.getD (h % 32) 0 else 0)))) f.s)) ∧
    (Issues s c none [a] [a] mask →
      let m : Mask := BitVec.ofNat 32 (c.g.read a 0)
      exec (.fmclr f) s = .next (issued s { c with g := { c.g with
        fm := c.g.fm &&& ~~~m, kinds := (List.range 32).map fun l => if m.getLsbD l then 0 else c.g.kinds.getD l 0 } } e [a] f.s)) ∧
    (Issues s c none [a, gfld f.d] [a] mask → Room s c e [a] 0 (needG true f.d) →
      let r := s.allocBuf c.b ((c.g.read a 0 : Int) + f.x.imm.toInt)
      ∃ b : Block, r.2.block? c.ref.blk = some b ∧
        exec (.halloc f) s = .next (inFlightLater r.2 { c with b := b } e [a]
          (laterFlight r.2 .dl (groupWr f.d.toNat (BitVec.ofNat 64 r.1))) f.s)) ∧
    (∀ u, Issues s c none [gfld f.base] [gfld f.base] mask → s.handle c.b.die h = .buf u → u.heldBy c.b = true →
      ∃ b : Block, (s.freeBuf u).block? c.ref.blk = some b ∧
        exec (.hfree f) s = .next (inFlightLater (s.freeBuf u) { c with b := b } e [] (storeFlight s) f.s)) ∧
    (∀ u t k, Issues s c none [gfld f.base, a] [a, gfld f.base] mask → s.handle c.b.die h = .buf u → u.heldBy c.b = true →
      s.holderBlock c.b.die (c.g.read a 0) = some (t, k) → t.ctx = c.b.ctx →
      let s' := s.setBuf { u with st := .transfer, target := t.id, targetKind := k }
      exec (.hpass f) s = .next ((inFlightLater s' (sidedCur c) e [a] (storeFlight s') f.s).passed c.b.die h t.id k))

/-- The HANDLE faults of `hfree` and `hpass` (R166, Table MEM-7): a bad handle is 6, a stale one 1, a buffer that the block does
not hold 2; for `hpass`, a dead target 3, a target of another context 4. -/
def Sys2Proof.Claims.HandleFaults : Prop :=
  ∀ (s : State) (c : Cur) (f : M),
    let a := gsrc f.a 1 1
    let h := c.g.gval f.base.toNat
    let mask := fun (c : Cur) => c.maskP f.x.gp f.x.gi
    let fault := fun (n : Nat) => s.trap c { cause := 0x18, sub := n, faddr := h }
    (Issues s c none [gfld f.base] [gfld f.base] mask →
      (s.handle c.b.die h = .bad → exec (.hfree f) s = .next (fault 6)) ∧
      (s.handle c.b.die h = .stale → exec (.hfree f) s = .next (fault 1)) ∧
      (∀ u, s.handle c.b.die h = .buf u → u.heldBy c.b = false → exec (.hfree f) s = .next (fault 2))) ∧
    (Issues s c none [gfld f.base, a] [a, gfld f.base] mask →
      (s.handle c.b.die h = .bad → exec (.hpass f) s = .next (fault 6)) ∧
      (s.handle c.b.die h = .stale → exec (.hpass f) s = .next (fault 1)) ∧
      ∀ u, s.handle c.b.die h = .buf u →
        (u.heldBy c.b = false → exec (.hpass f) s = .next (fault 2)) ∧
        (u.heldBy c.b = true →
          (s.holderBlock c.b.die (c.g.read a 0) = none → exec (.hpass f) s = .next (fault 3)) ∧
          ∀ t k, s.holderBlock c.b.die (c.g.read a 0) = some (t, k) → t.ctx ≠ c.b.ctx → exec (.hpass f) s = .next (fault 4)))
/-- The checks of a scratchpad access, the lanes that they switch off, and the HANDLE faults of `hfree` and `hpass`. -/
def Obligations.ScratchpadFaults : Prop :=
  Sys2Proof.Claims.SwitchedOffLanes ∧ Sys2Proof.Claims.HandleFaults

/-- `qpush` appends the values of the lanes of E in rising order, at most to 1,024 entries, counts what it drops and sets QOVF;
`qpop` under SAT takes at most one entry a lane, for the lowest lanes; `qlen` gives the length, or the count of dropped
entries, which code 2 clears. A queue that is not configured is HANDLE with subcode 7 (R176 to R179). Entry i lies in granule
(head + i) mod 1,024 / 16 of the queue's storage: pushes that fill a granule clear its poison, and lanes whose entries are poisoned
take POISON (R160). -/
def Sys2Proof.Claims.HardwareQueues : Prop :=
  ∀ (s : State) (c : Cur) (f : M),
    let a := vsrc f.a (paramShort f.a) 1 1
    let mask := fun (c : Cur) => c.maskP f.x.gp f.x.gi
    let e := mask c
    let none' := s.trap c { cause := 0x18, sub := 7 }
    let q? := s.hq? c.b f.base.toNat
    (Issues s c none [a] [a] mask →
      (q? = none → exec (.qpush f) s = .next none') ∧
      ∀ q, q? = some q →
        let vals := (lanesOf e).map fun l => BitVec.ofNat 32 (c.g.read a l)
        let lost := vals.length - (1024 - q.ents.length)
        let put := (List.range (min vals.length (1024 - q.ents.length))).map fun i => (q.head + q.ents.length + i) % 1024 / 16
        let s' := s.setHq { q with
          ents := q.ents ++ vals.take (1024 - q.ents.length), poison := q.poison.filter fun g => put.count g < 16
          ovf := min (q.ovf + lost) (2 ^ 32 - 1) }
        exec (.qpush f) s = .next (inFlightLater s' (sidedCur { c with g := { c.g with qovf := c.g.qovf || lost != 0 } }) e [a]
          (laterFlight s' .dq []) f.s)) ∧
    (Issues s c none [{ grp := false, num := f.d.toNat }] [] mask →
      (q? = none → exec (.qpopSat f) s = .next none') ∧
      ∀ q, q? = some q → Room s c e [] 1 0 →
        let k := min (lanesOf e).length q.ents.length
        let lanes := (lanesOf e).take k
        let m := lanesWhere fun l => lanes.contains l
        let s' := s.setHq { q with ents := q.ents.drop k, head := (q.head + k) % 1024 }
        let bad := lanesWhere fun l => lanes.contains l && q.poison.contains ((q.head + lanes.idxOf l) % 1024 / 16)
        let ws := lanesWr f.d.toNat m (fun l => q.ents.getD (lanes.idxOf l) 0) :: pWr (opReg f.a) e m
        exec (.qpopSat f) s = .next (inFlightLater s' (if k = 0 then c else sidedCur c) e []
          { laterFlight s' .dq ws with poison := if bad = 0 then none else some (bad, List.replicate 32 0) } f.s)) ∧
    (Issues s c none [gfld f.d] [] mask →
      (q? = none → exec (.qlen f) s = .next none') ∧
      ∀ q, q? = some q → Room s c e [] 0 (needG true f.d) →
        let s' := if f.w = 2 then s.setHq { q with ovf := 0 } else s
        let x := if f.w = 0 then q.ents.length else q.ovf
        exec (.qlen f) s = .next (inFlightLater s' (if f.w = 2 then sidedCur c else c) e []
          (laterFlight s' .dq (groupWr f.d.toNat (BitVec.ofNat 64 x))) f.s))
/-- Buffers, the fault mask and the hardware queues.
Where it goes past the words of the spec it rests on the model's choices of log entries 30, 57 and 83. -/
def Obligations.BuffersMasksAndQueues : Prop :=
  Sys2Proof.Claims.BuffersAndFaultMask ∧ Sys2Proof.Claims.HardwareQueues

/-! ## Class ENG: identifiers, views, tile tasks and copies -/

namespace Sys2Proof.Claims

/-- The address of an entry of the tensor identifier table (R253). -/
def entryOf (c : Cur) (id : Nat) : Nat := c.c.tidbase + 64 * id
/-- The bytes that a group access reads, whether some are poisoned, and the state after the read. -/
def bytesAt (x : List (Nat × List Piece) × State) : (List Byte × Bool) × State := x.2.readPieces (x.1.headD (0, [])).2
/-- A tensor entry with another generation and another byte 0x2E, which holds VALID (Table MTX-1). -/
def entryWith (ent : List Byte) (gen valid : Nat) : List Byte := ent.take 0x2C ++ leBytes 2 gen ++ leBytes 1 valid ++ ent.drop 0x2F
/-- The generation of an entry, a stored 0 counting as 1, and the one after it, from 65,535 back to 1 (R253, R257). -/
def genOf (ent : List Byte) : Nat := if leVal ((ent.drop 0x2C).take 2) = 0 then 1 else leVal ((ent.drop 0x2C).take 2)
def genAfter (ent : List Byte) : Nat := genOf ent % 65535 + 1
/-- The byte of an entry that holds VALID in bit 0. -/
def validByte (ent : List Byte) : Nat := leVal ((ent.drop 0x2E).take 1)
/-- The state after an identifier instruction: the entry is written, and the instruction waits for its acknowledgement, under DE
(R258). -/
def identifierIssued (s : State) (c : Cur) (e : Mask) (srcs : List Src) (ps : List (Nat × List Piece)) (ent : List Byte)
    (sbit : Bool) : State :=
  let t := s.writeLanes 64 (fun _ => leVal ent) ps
  let pend := (t.uid, c.b.die, c.b.core, t.cc + (1 + Config.latency t.free))
  let t := ({ t with free := t.free + 1 } : State).updCtx c.b.ctx fun x => { x with tidPend := x.tidPend ++ [pend] }
  inFlight t (sidedCur c) e srcs { id := 0, slot := 0, due := none, cls := .de } sbit

/-- The generation of the name of a view register (Table MTX-3); 0 in an empty view. -/
def viewGenOf (c : Cur) (n : Nat) : Nat := (c.g.t.getD n 0).toNat / 2 ^ 16 % 2 ^ 16
/-- A clasp number that a bead names lies below the block's count (R264). -/
def claspsOk (c : Cur) (w : BeadW) : Prop :=
  (w.we = true → w.wcl < c.b.clasps.length) ∧ (w.ae = true → w.acl < c.b.clasps.length)
/-- A bead is written: its 64 bytes to the next slot of the ring; it is QUEUED behind the identifier instructions of its core
that are not acknowledged (R258, R262, R264). -/
def beadWritten (t : State) (c : Cur) (e : Mask) (sbit : Bool) : State :=
  let n := c.b.mtx.tail + 1
  let pend := (c.c.tidPend.filter fun x => x.2.1 == c.b.die && x.2.2.1 == c.b.core).map (·.1)
  let m := { c.b.mtx with tail := n, beads := c.b.mtx.beads ++ [{ num := n, st := .queued, minAck := pend }] }
  inFlightLater t { c with b := { c.b with mtx := m } } e [] (laterFlight t .de []) sbit
/-- Where the block's next bead lies (R262). -/
def nextBeadAt (c : Cur) : Nat := c.c.savebase + 0x90000 * c.b.recNo + 0x1000 + 64 * ((c.b.mtx.tail + 1) % 64)

/-- The beads that `mma`, `drain` and `mzero` write (Table MTX-4). -/
def mmaBead (c : Cur) (f : Mma) : BeadW :=
  { kind := 1, cont := false, acc := f.acc.toNat, clr := f.clr, ser := f.ser, af := f.x.af.toNat, add := false, relu := false,
    rm := 0, sat := false, scope := f.x.scope.toNat, we := f.x.we, wpar := f.x.wpar, ae := f.x.ae, wcl := f.x.wcl.toNat,
    acl := f.x.acl.toNat, k := c.g.gval f.gk.toNat, koff := 0, er := c.g.e.getD f.er.toNat 0, ec := c.g.e.getD f.ec.toNat 0,
    v0 := c.g.t.getD f.ta.toNat 0, v1 := c.g.t.getD f.tb.toNat 0 }
def drainBead (c : Cur) (f : Drain) : BeadW :=
  { kind := 2, cont := false, acc := f.acc.toNat, clr := false, ser := false, af := 0, add := f.add, relu := f.relu,
    rm := f.x.rm.toNat, sat := f.x.sat, scope := f.x.scope.toNat, we := f.x.we, wpar := f.x.wpar, ae := f.x.ae,
    wcl := f.x.wcl.toNat, acl := f.x.acl.toNat, k := 0, koff := 0, er := c.g.e.getD f.er.toNat 0, ec := c.g.e.getD f.ec.toNat 0,
    v0 := c.g.t.getD f.td.toNat 0,
    v1 := BitVec.ofNat 128 ((c.g.t.getD f.ta.toNat 0).toNat % 2 ^ 32 + 2 ^ 32 * ((c.g.t.getD f.tb.toNat 0).toNat % 2 ^ 32)) }
def mzeroBead (c : Cur) (f : Mzero) : BeadW :=
  { kind := 3, cont := false, acc := f.acc.toNat, clr := false, ser := false, af := f.af.toNat, add := false, relu := false,
    rm := 0, sat := false, scope := f.x.scope.toNat, we := f.x.we, wpar := f.x.wpar, ae := f.x.ae, wcl := f.x.wcl.toNat,
    acl := f.x.acl.toNat, k := 0, koff := 0, er := c.g.e.getD f.er.toNat 0, ec := c.g.e.getD f.ec.toNat 0, v0 := 0, v1 := 0 }
/-- What a bead instruction does once its operands pass: CLASP_OVERRUN for a clasp out of range, a stall while the ring has no
room, and otherwise the bead (R262, R264). -/
def BeadIssue (s : State) (c : Cur) (e : Mask) (i : Instr) (w : BeadW) (sbit : Bool) : Prop :=
  (∀ n, (w.we = true ∧ c.b.clasps.length ≤ w.wcl ∧ n = w.wcl) ∨
      (¬(w.we = true ∧ c.b.clasps.length ≤ w.wcl) ∧ w.ae = true ∧ c.b.clasps.length ≤ w.acl ∧ n = w.acl) →
    exec i s = .next (s.trap c (s.claspFault c.b n 6))) ∧
  (claspsOk c w → c.b.mtxTl + 64 < c.b.mtx.tail + 1 → exec i s = .next (s.updPath c.ref fun p => { p with cond := .stalled .ring })) ∧
  (∀ t u, claspsOk c w → c.b.mtx.tail + 1 ≤ c.b.mtxTl + 64 →
    s.vwrite c.c c.b.die c.b.core (nextBeadAt c) w.bytes = (some t, u) → exec i s = .next (beadWritten t c e sbit))

/-- The copy requests and their operation numbers. -/
def copyOps : List ((Cpy → Instr) × Nat) := [(.cpy, 10), (.cpyp, 11), (.gath, 12), (.put, 13)]
/-- The words of a request's descriptor. -/
def descOf (c : Cur) (f : Cpy) : List Nat := (List.range 4).map fun i => c.g.gval (opReg f.a + i)

end Sys2Proof.Claims

/-- `tidset` writes the source's 64 bytes as the entry, with the generation after the entry's and VALID 1; `tidinv` advances the
generation and clears VALID; each is acknowledged later. An ID of 4,096 or more is TASK with subcode 1. `tidget` returns 8 bytes
of the entry, its name while it is valid, or the ring's base (R256 to R258, Table MTX-2). -/
def Sys2Proof.Claims.TensorIdentifiers : Prop :=
  (∀ (s : State) (c : Cur) (f : V3) (x y : List (Nat × List Piece) × State),
    let e := f.maskP c
    let id := c.g.gval (opReg f.a)
    Issues s c (some 1) [f.ga, f.gb] [f.ga, f.gb] f.maskP →
    (4096 ≤ id → exec (.tidset f) s = .next (s.trap c (grpFault 0x19 1))) ∧
    (id < 4096 → Reaches s c true e (fun _ => c.g.gval (opReg f.b)) 64 .read 7 x →
      Reaches (bytesAt x).2 c true e (fun _ => entryOf c id) 64 .both 7 y → (bytesAt x).1.2 = false →
      exec (.tidset f) s = .next (identifierIssued (bytesAt y).2 c e [f.ga, f.gb] y.1
        (entryWith (bytesAt x).1.1 (genAfter (bytesAt y).1.1) 1) f.s))) ∧
  (∀ (s : State) (c : Cur) (f : V3) (y : List (Nat × List Piece) × State),
    let e := f.maskP c
    let id := c.g.gval (opReg f.a)
    let old := (bytesAt y).1.1
    Issues s c (some 1) [f.ga] [f.ga] f.maskP →
    (4096 ≤ id → exec (.tidinv f) s = .next (s.trap c (grpFault 0x19 1))) ∧
    (id < 4096 → Reaches s c true e (fun _ => entryOf c id) 64 .both 7 y →
      exec (.tidinv f) s = .next (identifierIssued (bytesAt y).2 c e [f.ga] y.1
        (entryWith old (genAfter old) (validByte old / 2 * 2)) f.s))) ∧
  (∀ (s : State) (c : Cur) (f : V3) (y : List (Nat × List Piece) × State),
    let e := f.maskP c
    let id := c.g.gval (opReg f.a)
    let sel := f.b.toNat
    let r := bytesAt y
    let ent := r.1.1
    let val := if sel = 8 then (if validByte ent % 2 = 1 then id + 65536 * genOf ent else 0)
      else leVal (((entryWith ent (genOf ent) (validByte ent)).drop (8 * sel)).take 8)
    Issues s c (some 1) [f.ga, gfld f.d] [f.ga] f.maskP → sel < 9 →
    (4096 ≤ id → exec (.tidget f) s = .next (s.trap c (grpFault 0x19 1))) ∧
    (id < 4096 → Reaches s c true e (fun _ => entryOf c id) 64 .read 7 y → Room r.2 c e [f.ga] 0 (needG true f.d) →
      exec (.tidget f) s = .next
        (inFlightLater r.2 c e [f.ga] (laterFlight r.2 .dl (groupWr f.d.toNat (BitVec.ofNat 64 val))) f.s))) ∧
  (∀ (s : State) (c : Cur) (f : V3),
    let base := c.c.savebase + 0x90000 * c.b.recNo + 0x1000
    Issues s c (some 1) [f.ga, gfld f.d] [] f.maskP → f.b.toNat = 9 → Room s c (f.maskP c) [f.ga] 0 (needG true f.d) →
    exec (.tidget f) s = .next
      (inFlightLater s c (f.maskP c) [f.ga] (laterFlight s .dl (groupWr f.d.toNat (BitVec.ofNat 64 base))) f.s)) ∧
  ∀ (s : State) (n id : Nat) (x : Ctx), s.ctx? n = some x → (∃ t ∈ x.tidPend, t.1 = id) →
    exec (.tidAcknowledge n id) s = .next
      ((s.setCtx { x with tidPend := x.tidPend.filter fun t => t.1 ≠ id }).ackFlight id [])

/-- `tview` writes a view: the name of A, the origin of B; a name with other bits is TASK with subcode 2. `emask` writes an edge
mask, `emask.cnt` the mask of that many ones, at most 64; each takes effect at issue (R260). -/
def Sys2Proof.Claims.ViewsAndEdgeMasks : Prop :=
  (∀ (s : State) (c : Cur) (f : V3),
    let n := c.g.gval (opReg f.a)
    let o := c.g.gval (opReg f.b)
    let good := n / 2 ^ 12 % 2 ^ 4 = 0 ∧ n / 2 ^ 32 = 0
    Issues s c (some 1) [f.ga, f.gb] [f.ga, f.gb] f.maskP →
    (¬good → exec (.tview f) s = .next (s.trap c (grpFault 0x19 2))) ∧
    (good → exec (.tview f) s = .next (issued s
      { c with g := { c.g with t := c.g.t.set f.d.toNat (BitVec.ofNat 128 (n + 2 ^ 32 * o)) } } (f.maskP c) [f.ga, f.gb] f.s))) ∧
  (∀ (s : State) (c : Cur) (f : V3),
    let n := c.g.gval (opReg f.a)
    let put := fun (x : BitVec 64) => { c with g := { c.g with e := c.g.e.set f.d.toNat x } }
    Issues s c (some 1) [f.ga] [f.ga] f.maskP →
    exec (.emask f) s = .next (issued s (put (BitVec.ofNat 64 n)) (f.maskP c) [f.ga] f.s) ∧
    exec (.emaskCnt f) s = .next
      (issued s (put (if 64 ≤ n then BitVec.allOnes 64 else BitVec.ofNat 64 (2 ^ n - 1))) (f.maskP c) [f.ga] f.s))
/-- Tensor identifiers, tile views and edge masks. -/
def Obligations.TileViews : Prop :=
  Sys2Proof.Claims.TensorIdentifiers ∧ Sys2Proof.Claims.ViewsAndEdgeMasks

/-- `mma`, `drain` and `mzero`: an empty view is TASK with subcode 3, a depth outside 1 to 2^24 is subcode 4; otherwise the bead
is written, or the path stalls or traps as R262 and R264 give.
Where it goes past the words of the spec it rests on the model's choices of log entry 51. -/
def Obligations.TileTasks : Prop :=
  (∀ (s : State) (c : Cur) (f : Mma),
    let k := c.g.gval f.gk.toNat
    let full := viewGenOf c f.ta.toNat ≠ 0 ∧ viewGenOf c f.tb.toNat ≠ 0
    Issues s c (some 1) [gfld f.gk] [gfld f.gk] (·.maskP f.x.gp f.x.gi) →
    (¬full → exec (.mma f) s = .next (s.trap c (grpFault 0x19 3))) ∧
    (full → (k = 0 ∨ 2 ^ 24 < k) → exec (.mma f) s = .next (s.trap c (grpFault 0x19 4))) ∧
    (full → 0 < k → k ≤ 2 ^ 24 → BeadIssue s c (c.maskP f.x.gp f.x.gi) (.mma f) (mmaBead c f) f.s)) ∧
  (∀ (s : State) (c : Cur) (f : Drain),
    let full := viewGenOf c f.td.toNat ≠ 0 ∧ viewGenOf c f.ta.toNat ≠ 0 ∧ viewGenOf c f.tb.toNat ≠ 0
    Issues s c (some 1) [] [] (·.maskP f.x.gp f.x.gi) →
    (¬full → exec (.drain f) s = .next (s.trap c (grpFault 0x19 3))) ∧
    (full → BeadIssue s c (c.maskP f.x.gp f.x.gi) (.drain f) (drainBead c f) f.s)) ∧
  ∀ (s : State) (c : Cur) (f : Mzero), Issues s c (some 1) [] [] (·.maskP f.x.gp f.x.gi) →
    BeadIssue s c (c.maskP f.x.gp f.x.gi) (.mzero f) (mzeroBead c f) f.s

/-- `cpy`, `cpyp`, `gath` and `put`: a descriptor that Table CPY-5 refuses is TASK, one whose rows leave the address space is
ACCESS, a window that is no import is ACCESS with subcode 3, a clasp out of range is CLASP_OVERRUN; with 64 requests
outstanding the path stalls; otherwise the request is issued, under DE, and its results wait for the acknowledgement
(R217, R218). -/
def Sys2Proof.Claims.CopyRequests : Prop :=
  ∀ p ∈ copyOps, ∀ (s : State) (c : Cur) (f : Cpy),
    let quad : Src := { grp := true, num := opReg f.a, n := 4, l := opL f.a, field := 1 }
    let cb := gsrc f.b 1 2
    let dst : Src := { grp := true, num := f.d.toNat, n := 2 }
    let e := c.maskP f.x.gp f.x.gi
    let q := descOf c f
    let mode := f.x.mode.toNat
    let n := c.g.gval (opReg f.b) + f.x.clasp.toNat
    let r : CopyReq :=
      { id := s.uid, op := p.2, mode := mode, q := q.map (BitVec.ofNat 64), scope := f.x.scope.toNat,
        clasp := if f.x.ce then some n else none, grp := c.ref.grp, d := f.d.toNat, flight := s.uid, st := .issued,
        due := some (s.cc + (1 + Config.latency s.free)) }
    let fl : Flight :=
      { id := 0, slot := 0, due := none, cls := .de, board := f.d != 0,
        writes := if f.d = 0 then [] else [.g f.d.toNat 0, .g (f.d.toNat + 1) 0] }
    let import' := p.2 = 13 → ∃ w : Win, s.win? c.b.ctx (q.getD 1 0 % 4096) = some w ∧ w.kind = 2
    let claspOk := f.x.ce = true → n < c.b.clasps.length
    let slowed := fun (x : Block) => { x with reqs := x.reqs.map fun r => { r with late := true } }
    let others : State := if c.b.reqs.any (·.st != .done) then s else { s with blocks := s.blocks.map fun x =>
      if x.id ≠ c.b.id ∧ x.die = c.b.die ∧ x.core = c.b.core ∧ x.bslot % 2 = c.b.bslot % 2 ∧ x.st ≠ .saved then slowed x else x }
    let count := (c.b.reqs.filter fun r => r.st != .done).length
    Issues s c (some 2) [quad, cb, dst] [quad, cb] (·.maskP f.x.gp f.x.gi) →
    (∀ sub, cpyDescBad p.2 mode q = some sub → exec (p.1 f) s = .next (s.trap c (grpFault 0x19 sub))) ∧
    (cpyDescBad p.2 mode q = none → cpyRangeBad p.2 mode q = true → exec (p.1 f) s = .next (s.trap c (grpFault 0x09 1))) ∧
    (cpyDescBad p.2 mode q = none → cpyRangeBad p.2 mode q = false →
      (¬import' → exec (p.1 f) s = .next (s.trap c (grpFault 0x09 3))) ∧
      (import' → ¬claspOk → exec (p.1 f) s = .next (s.trap c (s.claspFault c.b n 6))) ∧
      (import' → claspOk → 64 ≤ count → exec (p.1 f) s = .next (s.updPath c.ref fun p => { p with cond := .stalled .copy })) ∧
      (import' → claspOk → count < 64 → Room s c e [quad, cb] 0 (if f.d = 0 then 0 else 2) →
        exec (p.1 f) s = .next (inFlight { others with free := s.free + 1 }
          { c with b := { c.b with side := c.b.side || p.2 == 13, reqs := c.b.reqs ++ [r] } } e [quad, cb] fl f.s)))

/-! ## Class CTL: control flow, clasps, timelines and checked waits -/

namespace Sys2Proof.Claims

/-- The address that a BR or JS word names: its own address and 4 times the offset (R44, R45). -/
def branchTarget (c : Cur) (off : Int) : Nat := (BitVec.ofNat 64 c.wordAddr + BitVec.ofInt 64 (4 * off)).toNat
/-- The state after a jump to a header. -/
def jumped (s : State) (c : Cur) (e : Mask) (srcs : List Src) (target : Nat) (sbit : Bool) : State :=
  withGroup s c (withPath c (c.g.killAll c.ref.slot e srcs)
    (some { pathAfter c c.p.board sbit with clause := target, index := 15 }))
/-- The state after a call: the jump, and the link in flight to group register d, visible at the target (R97). -/
def called (s : State) (c : Cur) (e : Mask) (srcs : List Src) (d target : Nat) (sbit : Bool) : State :=
  withGroup { s with uid := s.uid + 1 } c
    (withPath c
      { c.g.killAll c.ref.slot e srcs with
        flights := c.g.flights ++ [{ fixedFlight s 1 0 (groupWr d (BitVec.ofNat 64 c.nextClause)) with
          id := s.uid, slot := c.ref.slot, words := c.w }] }
      (some { pathAfter c c.p.board sbit with clause := target, index := 15 }))
/-- The condition of a BR word on the whole group: p7, or a group predicate (R97). -/
def groupCond (c : Cur) (f : Br) : Bool := (if f.sel.toNat < 8 then true else c.g.qbit (f.sel.toNat - 8)) != f.inv
/-- The lanes of the path that `bra` takes under a lane predicate (R89). -/
def taken (c : Cur) (f : Br) : Mask := c.p.mask &&& if f.inv then ~~~(c.g.pmask f.sel.toNat) else c.g.pmask f.sel.toNat
/-- Every result on the path's scoreboard has returned. -/
abbrev Settled (c : Cur) : Prop := c.g.clear c.p.board = true

/-- The waiting path, and the state in which it waits. -/
def waitPath (c : Cur) (on : WaitOn) : Path := { c.p with cond := .wait on c.w }
def waiting (s : State) (c : Cur) (e : Mask) (srcs : List Src) (on : WaitOn) : State :=
  s.updGroup c.ref.blk c.ref.grp fun _ => withPath c (c.g.killAll c.ref.slot e srcs) (some (waitPath c on))
/-- A wait whose condition holds when it begins. -/
def waited (s : State) (c : Cur) (e : Mask) (srcs : List Src) (on : WaitOn) : State :=
  (waiting s c e srcs on).waitMet c.ref (waitPath c on) on c.w
/-- The failed value that the end of a timeline wait meets: the lowest of the block's copies or of the window's puts, where it lies at or
below the counter's value x (R229, R377); and the state in which it has been taken. -/
def failedAt (s : State) (b : Block) (kind name x : Nat) : Option (Nat × Nat × Nat) :=
  let fs := if kind = 1 then b.failv
    else if kind = 3 ∨ kind = 4 then ((s.win? b.ctx name).map (·.fails)).getD [] else []
  fs.head?.filter fun y => y.1 ≤ x
def failTaken (s : State) (b : Block) (kind name : Nat) : State :=
  if kind = 1 then s.updBlock b.id fun b => { b with failv := b.failv.tail }
  else match s.win? b.ctx name with
    | some w => s.setWin { w with fails := w.fails.tail }
    | none => s
/-- A wait on a counter that has reached its value x ends: the path goes on, or takes COPY_FAILED (R214, R229). -/
def tlEnded (s : State) (b : Block) (kind name x : Nat) (r : PRef) (p : Path) (on : WaitOn) (w : Words) : State :=
  match failedAt s b kind name x with
  | none => s.waitMet r p on w
  | some y => (failTaken s b kind name).waitFault r p on w
    { cause := 0x19, sub := 0x25, faddr := y.2.2, detail := y.2.1, ext := [y.1] }
/-- A nap that ends below its value: NAP_LATE, counted in the context (R215). -/
def napLate (s : State) (b : Block) (kind n t x : Nat) (r : PRef) (p : Path) (on : WaitOn) (w : Words) : State :=
  ((s.updCtx b.ctx fun c => { c with napMiss := min (c.napMiss + 1) (2 ^ 64 - 1) }).stageCtx b.ctx).waitFault r p on w
    { cause := 0x11, sub := kind, detail := kind, ext := [n, t, x] }
/-- The WAIT_CLASS of a wait of class w on a target whose class fails the check (R238, Tables PRG-2 and PRG-4). -/
def waitClass (t : Target) (w : Nat) : Fault2 :=
  { cause := 0x10, sub := if t.fixed then 4 else 1, faddr := t.name,
    detail := t.kind + 2 ^ 8 * w + 2 ^ 10 * t.cls + 2 ^ 12 * t.clsL + 2 ^ 14 * t.prom.toNat }
/-- The conditions on the waiter: it is the path of a slot, no cancellation is due, and the target's class passes the check of
R238. -/
abbrev MayWait (s : State) (c : Cur) (t : Target) : Prop :=
  c.ref.slot < 2 ∧ c.g.cancelDue c.p = none ∧ t.fault (s.curClass c.b) = none
/-- The state in which the reference of a wait is held. -/
def held (s : State) (c : Cur) (t : Target) : State := s.hold (some c.ref) none (s.curClass c.b) t
/-- A flight that a wait allocates at issue: its result has no time yet. -/
def pendingFlight (s : State) (c : Cur) (cls : Drn) (ws : List Wr) : Flight :=
  { id := s.uid, slot := c.ref.slot, due := none, cls := cls, board := true, writes := ws, words := c.w }
/-- The cursor whose group holds that flight. -/
def withPending (s : State) (c : Cur) (cls : Drn) (ws : List Wr) : Cur :=
  let p := { c.p with board := c.p.board ++ [s.uid] }
  { c with
    p := p
    g := { c.g with flights := c.g.flights ++ [pendingFlight s c cls ws],
                    slot0 := if c.ref.slot = 0 then some p else c.g.slot0, slot1 := if c.ref.slot = 0 then c.g.slot1 else some p } }

/-- The POISON of a pop for the lanes of E: those whose entry lies in a poisoned granule, 16 entries of the ring each (R160). -/
def popped (q : HQueue) (e : Mask) : Option (Mask × List Nat) :=
  let bad := lanesWhere fun l => e.getLsbD l && q.poison.contains ((q.head + (lanesOf e).idxOf l) % 1024 / 16)
  if bad = 0 then none else some (bad, List.replicate 32 0)
/-- A phase whose condition holds completes: CYCLE advances, PENDING is EXPECTED again, REM is 0 (R205). -/
def phased (x : Clasp) : Clasp :=
  if x.pending = 0 ∧ (x.bytes = false ∨ x.posted = true ∧ x.rem = 0) then
    { x with cycle := (x.cycle + 1) % 256, pending := x.expected, rem := 0, posted := false }
  else x
/-- An arrival of k at an ARMED clasp: more than PENDING is ERROR 3 (Table CLP-2). -/
def arrived (x : Clasp) (k : Nat) : Clasp :=
  if x.pending < k then { x with mode := 2, why := 3 } else phased { x with pending := x.pending - k }
/-- A post of p bytes: REM below 0 is ERROR 1 (Table CLP-2). -/
def posted (x : Clasp) (p : Nat) : Clasp :=
  let y := { x with rem := x.rem + p, posted := true }
  if x.rem + p < 0 then { y with mode := 2, why := 1 } else y
/-- Table CLP-3: a post needs byte mode, a count below 2^23, and REM within 2^23 - 1. -/
abbrev mayPost (x : Clasp) (p : Nat) : Prop := x.bytes = true ∧ p < 2 ^ 23 ∧ x.rem + p ≤ 2 ^ 23 - 1
/-- The state after a clasp instruction that makes y of clasp n, which was x. -/
def claspIssued (s : State) (c : Cur) (e : Mask) (srcs : List Src) (n : Nat) (x y : Clasp) (sbit : Bool) : State :=
  (issued s { c with b := { c.b with clasps := c.b.clasps.set n y } } e srcs sbit).claspTurned c.ref.blk n x
/-- The save slot's entry for the path that a group pushes next on its divergence stack (Table REG-2, R90, R345). -/
def stackSlot (c : Cur) : Nat := c.c.savebase + 0x90000 * c.b.recNo + 0x23000 + 0x3400 * c.ref.grp + 0x500 + 16 * c.g.stack.length
/-- A path is pushed: its entry goes to the save slot, and the group goes on as `next` says; a slot that cannot be written faults
the context. -/
def pushes (s : State) (c : Cur) (x : StackEnt) (next : State → State) : State :=
  match s.vwrite c.c c.b.die c.b.core (stackSlot c) (pathBytes x.clause x.index x.mask) with
  | (some t, _) => next t
  | (none, _) => s.faultCtx c.b.ctx
/-- The flight of `callb`'s accesses, counted as an atomic of memory (R100). -/
def bindFlight (s : State) (c : Cur) : Flight :=
  { id := s.uid, slot := c.ref.slot, due := some (s.cc + (1 + Config.latency s.free)), cls := .da, words := c.w }
/-- A `callb` that has read its slot: the state and the cursor with that flight. -/
def boundState (s : State) : State := { s with uid := s.uid + 1, free := s.free + 1 }
def boundCur (s : State) (c : Cur) : Cur := { c with g := { c.g with flights := c.g.flights ++ [bindFlight s c] } }

end Sys2Proof.Claims

/-- `bra` under p7 or a group predicate, `jmp`: the whole path jumps where the condition holds, and goes on where it does not
(R44, R97). `nop` goes on (R105). -/
def Sys2Proof.Claims.UniformBranches : Prop :=
  (∀ (s : State) (c : Cur) (f : Br), 7 ≤ f.sel.toNat → Issues s c none [] [] (·.p.mask) →
    exec (.bra f) s = .next (if groupCond c f then jumped s c 0 [] (branchTarget c f.off.toInt) f.s else issued s c 0 [] f.s)) ∧
  (∀ (s : State) (c : Cur) (f : Br), Issues s c none [] [] (·.p.mask) →
    exec (.jmp f) s = .next (if groupCond c f then jumped s c 0 [] (branchTarget c f.off.toInt) f.s else issued s c 0 [] f.s)) ∧
  (∀ (s : State) (c : Cur) (f : V3), Issues s c none [] [] (·.p.mask) → exec (.nop f) s = .next (issued s c 0 [] f.s))

/-- `bra` under a lane predicate (R89): all lanes taken, the path jumps; none, it goes on; some, it splits. With the other slot
free the taken lanes stand there at the target, and the others go on in this slot. With both slots used, once the
scoreboard is empty, the part with more lanes keeps the slot, the other is pushed on the stack, in the group's save slot, and a full stack of 64 is
DIVERGENCE_OVERFLOW with subcode 1. -/
def Sys2Proof.Claims.DivergentBranches : Prop :=
  ∀ (s : State) (c : Cur) (f : Br), f.sel.toNat < 7 → Issues s c none [] [] (·.p.mask) →
    let m := taken c f
    let rest := c.p.mask &&& ~~~m
    let target := branchTarget c f.off.toInt
    let other := if c.ref.slot = 0 then c.g.slot1 else c.g.slot0
    (m = c.p.mask → exec (.bra f) s = .next (jumped s c 0 [] target f.s)) ∧
    (m = 0 → exec (.bra f) s = .next (issued s c 0 [] f.s)) ∧
    (m ≠ c.p.mask → m ≠ 0 → c.ref.slot < 2 →
      (other = none →
        let far : Path := { clause := target, index := 15, mask := m, board := c.p.board, cancelled := c.p.cancelled }
        let near : Path := { pathAfter c c.p.board f.s with mask := rest }
        exec (.bra f) s = .next (withGroup s c { c.g with
          turn := 1 - c.ref.slot, slot0 := some (if c.ref.slot = 0 then near else far),
          slot1 := some (if c.ref.slot = 0 then far else near) })) ∧
      (other ≠ none → ¬ Settled c → exec (.bra f) s = .next (s.updPath c.ref fun p => { p with cond := .park [] })) ∧
      (other ≠ none → Settled c → 64 ≤ c.g.stack.length → exec (.bra f) s = .next (s.trap c { cause := 0x17, sub := 1 })) ∧
      (other ≠ none → Settled c → c.g.stack.length < 64 →
        let far : StackEnt := { clause := target, index := 15, mask := m }
        let near : StackEnt := { clause := c.after.1, index := c.after.2, mask := rest }
        exec (.bra f) s = .next (
          if (lanesOf rest).length < (lanesOf m).length then pushes s c near fun s =>
            withGroup s c (withPath c { c.g with stack := c.g.stack ++ [near] }
              (some { pathAfter c c.p.board f.s with clause := target, index := 15, mask := m }))
          else pushes s c far fun s =>
            withGroup s c (withPath c { c.g with stack := c.g.stack ++ [far] }
              (some { pathAfter c c.p.board f.s with mask := rest })))))
/-- `bra`, `jmp` and `nop`: uniform and divergent branches (R89, R97, R105).
Where it goes past the words of the spec it rests on the model's choices of log entries 26 and 78. -/
def Obligations.Branches : Prop :=
  Sys2Proof.Claims.UniformBranches ∧ Sys2Proof.Claims.DivergentBranches

/-- `call`, `callr`, `ret` and `jmpr`: the link is the header after the caller's clause, and is visible at the target (R97,
R98). A register target that is not a multiple of 4 is MISALIGNED, one at or above 2^57 ACCESS with subcode 1. -/
def Sys2Proof.Claims.CallsAndRegisterJumps : Prop :=
  (∀ (s : State) (c : Cur) (f : Br), Issues s c none [gfld 62] [] (·.p.mask) →
    (groupCond c f = true → Room s c c.p.mask [] 0 1 →
      exec (.call f) s = .next (called s c c.p.mask [] 62 (branchTarget c f.off.toInt) f.s)) ∧
    (groupCond c f = false → exec (.call f) s = .next (issued s c 0 [] f.s))) ∧
  (∀ (s : State) (c : Cur) (f : V3), Issues s c none [f.ga, gfld f.d] [f.ga] f.maskQ →
    let t := c.g.gval (opReg f.a)
    (t % 4 ≠ 0 → exec (.callr f) s = .next (s.trap c { cause := 0x0A, sub := 0 })) ∧
    (t % 4 = 0 → 2 ^ 57 ≤ t → exec (.callr f) s = .next (s.trap c { cause := 0x09, sub := 1 })) ∧
    (t % 4 = 0 → t < 2 ^ 57 → Room s c (f.maskQ c) [f.ga] 0 (needG true f.d) →
      exec (.callr f) s = .next (called s c (f.maskQ c) [f.ga] f.d.toNat t f.s))) ∧
  (∀ (s : State) (c : Cur) (f : V3), Issues s c none [f.ga] [f.ga] f.maskQ →
    let t := c.g.gval (opReg f.a)
    ∀ i ∈ [Instr.ret f, .jmpr f],
      (t % 4 ≠ 0 → exec i s = .next (s.trap c { cause := 0x0A, sub := 0 })) ∧
      (t % 4 = 0 → 2 ^ 57 ≤ t → exec i s = .next (s.trap c { cause := 0x09, sub := 1 })) ∧
      (t % 4 = 0 → t < 2 ^ 57 → exec i s = .next (jumped s c (f.maskQ c) [f.ga] t f.s)))

/-- `jset` opens a token for the path's lanes at the target; an open one, or one that a handler may not use, is DIVERGENCE_OVERFLOW TOKEN_BUSY.
`join` of a closed token goes on; of an open one, at the token's header, it parks the path's lanes, and once every lane of
the token has arrived or exited the merged path stands after the `join`, parked until its results are there where a `join` had S = 1
(R86; log 56, 58); elsewhere it is DIVERGENCE_OVERFLOW TOKEN_ADDR (R92, R102). -/
def Sys2Proof.Claims.TokensPieces : Prop :=
  ∀ (s : State) (c : Cur) (f : Js), Issues s c none [] [] (·.p.mask) →
    let k := f.token.toNat
    let t := c.g.toks.getD k {}
    (t.isOpen = true ∨ c.g.mayMerge k = false → exec (.jset f) s = .next (s.trap c { cause := 0x17, sub := 2 })) ∧
    (t.isOpen = false → c.g.mayMerge k = true →
      exec (.jset f) s = .next (withGroup s c (withPath c
        { c.g with toks := c.g.toks.set k { isOpen := true, mask := c.p.mask, jaddr := branchTarget c f.off.toInt % 2 ^ 57 } }
        (some (pathAfter c c.p.board f.s))))) ∧
    (t.isOpen = false → exec (.join f) s = .next (issued s c 0 [] f.s)) ∧
    (t.isOpen = true → t.jaddr ≠ c.p.clause → exec (.join f) s = .next (s.trap c { cause := 0x17, sub := 3 })) ∧
    (t.isOpen = true → t.jaddr = c.p.clause →
      let t' := { t with
        arrived := t.arrived ||| c.p.mask, parked := t.parked ||| c.p.mask, resumeClause := c.after.1,
        resumeIndex := c.after.2, board := t.board ++ c.p.board.filter (!t.board.contains ·), sbit := t.sbit || f.s }
      let g := withPath c { c.g with toks := c.g.toks.set k t' } none
      exec (.join f) s = .next (withGroup s c g.settle)) ∧
    ((Instr.jset f).WellFormed → k ≤ 15) ∧ ((Instr.join f).WellFormed → k ≤ 15 ∧ f.off = 0)
/-- A token merges once every lane of it has arrived, and not before (R92): in a group whose other tokens hold no merged path
and whose slot is free, the merged path then takes the slot, with every lane that parked. -/
def Sys2Proof.Claims.TokensMerge : Prop :=
  ∀ (g : Group) (k : Nat) (t : Tok), k < 16 → g.toks.length = 16 → g.toks.getD k {} = t → t.isOpen = true → t.parked ≠ 0 →
    (∀ j, j ≠ k → g.toks.getD j {} = {}) → g.traps = [] → g.stack = [] → g.slot0 = none →
    (t.mask &&& ~~~t.arrived = 0 →
      g.settle.slot0 = some { clause := t.resumeClause, index := t.resumeIndex, mask := t.parked, board := t.board,
                              cond := if t.sbit && !t.board.isEmpty then .park [] else .ready } ∧
      g.settle.toks.getD k {} = {}) ∧
    (t.mask &&& ~~~t.arrived ≠ 0 → t.held = false → g.settle = g)
/-- `jset`, `join`, and the merge of a token (R92, R102).
Where it goes past the words of the spec it rests on the model's choices of log entries 56 and 58. -/
def Obligations.Tokens : Prop :=
  Sys2Proof.Claims.TokensPieces ∧ Sys2Proof.Claims.TokensMerge

/-- `exit`: the lanes of E leave the group once the path has gone on; a group whose lanes have all exited is EXITED and holds no
register (R104). `lower` lowers the block's launched class, and one that would raise it is WAIT_CLASS with subcode 3; a block that a res reference holds at res stays there (R106).
`yield` goes on and, with other paths of its quarter that could issue, waits for each of them to issue once: those of groups that go
on, are placed in the quarter, and neither fence nor suspend, that are ready or would not stall again (R103, R112). -/
def Sys2Proof.Claims.ExitLowerAndYield : Prop :=
  (∀ (s : State) (c : Cur) (f : V3), Issues s c none [] [] f.maskP →
    exec (.exit f) s = .next ((issued s c 0 [] f.s).exitLanes c.ref.blk c.ref.grp (f.maskP c))) ∧
  (∀ (g : Group) (m : Mask), g.exited ||| m = allLanes →
    let g' := g.exitLanes m
    g'.st = .exited ∧ g'.slot0 = none ∧ g'.slot1 = none ∧ g'.stack = [] ∧ (∀ n l, g'.lane? n l = none) ∧ ∀ n, g'.gval n = 0) ∧
  (∀ (s : State) (c : Cur) (f : VI), Issues s c none [] [] (·.p.mask) →
    let k := f.val.toNat
    (c.b.clsL < k → exec (.lower f) s = .next (s.trap c { cause := 0x10, sub := 3 })) ∧
    (k ≤ c.b.clsL → exec (.lower f) s = .next (issued s { c with b := { c.b with
      clsL := k, resRes := c.b.resRes || (s.curClass c.b == 2 && s.refClass c.b == 2) } } 0 [] f.s))) ∧
  (∀ (s : State) (c : Cur) (f : V3), Issues s c none [] [] (·.p.mask) →
    let others := (s.quarterPaths c.b.die c.b.core (c.g.slotNo.getD 0 / 16)).filter (· ≠ (c.ref.blk, c.ref.grp, c.ref.slot))
    let p := pathAfter c c.p.board f.s
    let cond : Cond := if f.s && !c.p.board.isEmpty then .park others else if others = [] then .ready else .yielded others
    exec (.yield f) s = .next (withGroup s c (withPath c c.g (some { p with cond := cond })))) ∧
  ∀ (s : State) (die core q : Nat) (x : Nat × Nat × Nat), x ∈ s.quarterPaths die core q ↔
    ∃ b ∈ s.blocks, ∃ g ∈ b.groups, ∃ p : Path, x.1 = b.id ∧ x.2.1 = g.index ∧ x.2.2 < 2 ∧ g.path? x.2.2 = some p ∧
      b.die = die ∧ b.core = core ∧ b.st ≠ .saved ∧ s.goes b g = true ∧ g.fences = [] ∧ g.suspends = false ∧
      (∃ n, g.slotNo = some n ∧ n / 16 = q) ∧ p.start ≤ s.cc ∧
      (p.cond = .ready ∨ ∃ n, p.cond = .stalled n ∧ s.needMet b g n = true)

/-- `cancel` of a level that the context may read and write (R107, R15): the request counts under DE, and the level is
cancelled. Without an address it is the launch's own record. -/
def Sys2Proof.Claims.Cancels : Prop :=
  ∀ (s s' : State) (c : Cur) (f : V3) (ps : List Piece), Issues s c none [f.ga] [f.ga] f.maskQ →
    let level := if opReg f.a = 0 then c.b.lrec else c.g.gval (opReg f.a)
    s.checkLane c level 64 .both 9 = (.inr ps, s') →
    exec (.cancel f) s = .next ((inFlightLater s' c (f.maskQ c) [f.ga] (laterFlight s' .de []) f.s).cancelLevel c.c level)
/-- `exit`, `lower`, `yield` and `cancel` (R103 to R107).
Where it goes past the words of the spec it rests on the model's choices of log entries 26 and 40. -/
def Obligations.ExitLowerYieldCancel : Prop :=
  Sys2Proof.Claims.ExitLowerAndYield ∧ Sys2Proof.Claims.Cancels

/-- `cinit`, `arrive` and `expect` on a clasp below CLASPS (R203 to R209, Tables CLP-2 and CLP-3): arming keeps CYCLE unless the
clasp was IDLE; an arrival of k takes k from PENDING, is an ERROR where k is larger, and a phase whose condition holds
completes; a post of p raises REM by p, and is an ERROR where REM stays below 0; `arrive.post` posts, then arrives. A flip or an ERROR
ends the waits on the clasp (`ClaspWakes`). -/
def Sys2Proof.Claims.ClaspsPieces : Prop :=
  (∀ (s : State) (c : Cur) (f : VI) (k : Clasp),
    let a := gsrc f.a 1 1
    let n := c.g.gval (opReg f.a) + f.d.toNat
    let cnt := f.val.toNat % 2048
    Issues s c none [a] [a] (·.maskP f.gp f.gi) → c.b.clasps[n]? = some k → 1 ≤ cnt → cnt ≤ 1024 →
    let armed : Clasp :=
      { cycle := if k.mode = 0 then 0 else k.cycle, mode := 1, bytes := f.val.toNat / 2048 % 2 == 1, expected := cnt,
        pending := cnt }
    exec (.cinit f) s = .next (issued s { c with b := { c.b with clasps := c.b.clasps.set n armed } } (c.maskP f.gp f.gi) [a]
      f.s)) ∧
  (∀ (s : State) (c : Cur) (f : V3) (k : Clasp),
    let srcs := if f.x.sub.getLsbD 1 then [gsrc f.a 1 1, gsrc f.b 1 2] else [gsrc f.a 1 1]
    let n := c.g.gval (opReg f.a) + f.d.toNat
    let p := c.g.gval (opReg f.b)
    let cnt := if f.x.sub.getLsbD 0 then (lanesOf (f.maskP c)).length else 1
    Issues s c none srcs srcs f.maskP → c.b.clasps[n]? = some k → k.mode = 1 →
    (f.x.sub.getLsbD 1 = false → exec (.arrive f) s = .next (claspIssued s c (f.maskP c) srcs n k (arrived k cnt) f.s)) ∧
    (f.x.sub.getLsbD 1 = true → mayPost k p → exec (.arrive f) s = .next (claspIssued s c (f.maskP c) srcs n k
      (if k.rem + p < 0 then posted k p else arrived (posted k p) cnt) f.s))) ∧
  (∀ (s : State) (c : Cur) (f : V3) (k : Clasp),
    let srcs := [gsrc f.a 1 1, gsrc f.b 1 2]
    let n := c.g.gval (opReg f.a) + f.d.toNat
    let p := c.g.gval (opReg f.b)
    Issues s c none srcs srcs f.maskP → c.b.clasps[n]? = some k → k.mode = 1 → mayPost k p →
    exec (.expect f) s = .next (claspIssued s c (f.maskP c) srcs n k
      (if k.rem + p < 0 then posted k p else phased (posted k p)) f.s))
/-- What a change of a clasp does to the waits on it (R206, R207, R210): nothing without a flip or an ERROR; else every path that
waits on it for the parity it left goes on from the next cc, and after an ERROR takes CLASP_OVERRUN with its cause; all else
stays. -/
def Sys2Proof.Claims.ClaspWakes : Prop :=
  ∀ (s : State) (blk n : Nat) (x y : Clasp) (b : Block), s.block? blk = some b → b.clasps[n]? = some y →
    let t := s.claspTurned blk n x
    (y.cycle = x.cycle → y.mode ≠ 2 → t = s) ∧ t = { s with blocks := t.blocks } ∧
    (y.cycle ≠ x.cycle ∨ y.mode = 2 → ∀ (i gi slot : Nat) (b' : Block) (g : Group) (p : Path), s.blocks[i]? = some b' →
      b'.groups[gi]? = some g → g.path? slot = some p → ∃ (b'' : Block) (g' : Group) (p' : Path),
        t.blocks[i]? = some b'' ∧ b''.groups[gi]? = some g' ∧ g'.path? slot = some p' ∧
        ((∀ k par hdr w, p.cond = .wait (.clasp k par hdr) w → b'.id ≠ blk ∨ k ≠ n ∨ (y.mode ≠ 2 ∧ (y.cycle % 2 == 1) = par)) →
          p' = p) ∧
        ∀ par hdr w, p.cond = .wait (.clasp n par hdr) w → b'.id = blk →
          let ended := fun (fault : Option Fault2) =>
            { p with cond := .ended (.clasp n par hdr) w fault, start := s.cc + 1 }
          (y.mode = 2 → p' = ended (some (s.claspFault b n y.why))) ∧
          (y.mode ≠ 2 → (y.cycle % 2 == 1) ≠ par → p' = ended none))
/-- The clasp instruction traps of R207 and R209: a clasp at or above CLASPS is RANGE (6), an IDLE clasp 5, one in ERROR 8, a
count outside 1 to 1,024 is COUNT (9), a post without byte mode 4, and one past 2^23 - 1 bytes 7; each is CLASP_OVERRUN, after
the kill of the operands. -/
def Sys2Proof.Claims.ClaspTraps : Prop :=
  (∀ (s : State) (c : Cur) (f : VI),
    let a := gsrc f.a 1 1
    let n := c.g.gval (opReg f.a) + f.d.toNat
    let cnt := f.val.toNat % 2048
    Issues s c none [a] [a] (·.maskP f.gp f.gi) →
    (c.b.clasps[n]? = none → exec (.cinit f) s = .next (s.killTrap c (c.maskP f.gp f.gi) [a] (s.claspFault c.b n 6))) ∧
    (n < c.b.clasps.length → (cnt < 1 ∨ 1024 < cnt) →
      exec (.cinit f) s = .next (s.killTrap c (c.maskP f.gp f.gi) [a] (s.claspFault c.b n 9)))) ∧
  (∀ (s : State) (c : Cur) (f : V3) (i : Instr),
    let a := gsrc f.a 1 1
    let b := gsrc f.b 1 2
    let posts := i = .expect f ∨ f.x.sub.getLsbD 1 = true
    let srcs := if i = .expect f ∨ f.x.sub.getLsbD 1 = true then [a, b] else [a]
    let n := c.g.gval (opReg f.a) + f.d.toNat
    let p := c.g.gval (opReg f.b)
    i = .arrive f ∨ i = .expect f → Issues s c none srcs srcs f.maskP →
    (c.b.clasps[n]? = none → exec i s = .next (s.killTrap c (f.maskP c) [a] (s.claspFault c.b n 6))) ∧
    ∀ k, c.b.clasps[n]? = some k →
      (k.mode = 0 → exec i s = .next (s.killTrap c (f.maskP c) [a] (s.claspFault c.b n 5))) ∧
      (k.mode = 2 → exec i s = .next (s.killTrap c (f.maskP c) [a] (s.claspFault c.b n 8))) ∧
      (k.mode = 1 → posts → k.bytes = false → exec i s = .next (s.killTrap c (f.maskP c) [a, b] (s.claspFault c.b n 4))) ∧
      (k.mode = 1 → posts → k.bytes = true → ¬ mayPost k p →
        exec i s = .next (s.killTrap c (f.maskP c) [a, b] (s.claspFault c.b n 7)))) ∧
  ∀ (s : State) (b : Block) (n sub : Nat), (s.claspFault b n sub).cause = 0x12 ∧ (s.claspFault b n sub).sub = sub ∧
    (s.claspFault b n sub).faddr = n
/-- `cinit`, `arrive` and `expect`, and the traps that they take.
Where it goes past the words of the spec it rests on the model's choices of log entry 27. -/
def Obligations.Clasps : Prop :=
  Sys2Proof.Claims.ClaspsPieces ∧ Sys2Proof.Claims.ClaspWakes ∧ Sys2Proof.Claims.ClaspTraps

/-- The check of R238: a wait of class w proceeds on a target of its class or above, or on a promotable one of a kind that is not
fixed; else it is WAIT_CLASS with the target in the frame. `wclasp` on an ARMED clasp: with CYCLE's low bit other than the parity named
the path goes on, and otherwise it waits. So does `wtl` of a counter below its value; at or above it the path goes on, or takes
COPY_FAILED where a failed value lies at or below the counter; a `wtl` whose target fails the check takes WAIT_CLASS (R208, R210,
R214, R229, R238). A wait whose condition holds goes on in the next cc. -/
def Sys2Proof.Claims.ClaspAndTimelineWaitsPieces : Prop :=
  (∀ (t : Target) (w : Nat), (w ≤ t.cls ∨ (t.prom = true ∧ t.fixed = false) → t.fault w = none) ∧
    (¬ (w ≤ t.cls ∨ (t.prom = true ∧ t.fixed = false)) → t.fault w = some (waitClass t w))) ∧
  (∀ (s : State) (k : Nat) (b : Block), (s.ownTarget k b).fault (s.curClass b) = none) ∧
  (∀ (s : State) (c : Cur) (f : VI) (k : Clasp),
    let a := gsrc f.a 1 1
    let e := c.maskP f.gp f.gi
    let n := c.g.gval (opReg f.a) + f.d.toNat
    let on := WaitOn.clasp n (f.val == 1) false
    Issues s c none [a] [a] (·.maskP f.gp f.gi) → c.b.clasps[n]? = some k → k.mode = 1 → c.ref.slot < 2 →
    c.g.cancelDue c.p = none →
    ((k.cycle % 2 == 1) ≠ (f.val == 1) → exec (.wclasp f) s = .next (waited s c e [a] on)) ∧
    ((k.cycle % 2 == 1) = (f.val == 1) → exec (.wclasp f) s = .next (waiting s c e [a] on))) ∧
  (∀ (s : State) (c : Cur) (f : Tl) (x : Nat),
    let a := gsrc f.a 1 1
    let kind := f.d.toNat
    let srcs := if 3 ≤ kind ∧ kind ≤ 6 then [a, gsrc f.b 1 2] else [a]
    let e := c.maskP f.x.gp f.x.gi
    let n := c.g.gval (opReg f.a)
    let name := if 3 ≤ kind ∧ kind ≤ 6 then c.g.gval (opReg f.b) else 0
    let t := s.tlTarget c.b kind name
    let on := WaitOn.tl kind n name f.x.scope.toNat
    let w := waiting (held s c t) c e srcs on
    Issues s c none srcs srcs (·.maskP f.x.gp f.x.gi) → haltFault c.c c.b kind n = none → s.counter c.b kind name = some x →
    (t.fault (s.curClass c.b) ≠ none → exec (.wtl f) s = .next (s.trap c (waitClass t (s.curClass c.b)))) ∧
    (MayWait s c t → x < n → exec (.wtl f) s = .next w) ∧
    (MayWait s c t → n ≤ x → exec (.wtl f) s = .next (tlEnded w c.b kind name x c.ref (waitPath c on) on c.w)))

/-- `nap`: before chip time T the path waits; at or after it, a counter that has reached its value lets it go on, or gives the path
COPY_FAILED as in `wtl`, and one that has not is NAP_LATE with the value, T and the counter in the frame, counted in the context
(R215, R229). NAP_WAKE is that end of the wait. -/
def Sys2Proof.Claims.Naps : Prop :=
  (∀ (s : State) (c : Cur) (f : Tl),
    let a := gsrc f.a 1 1
    let b := gsrc f.b 1 2
    let kind := f.d.toNat
    let e := c.maskP f.x.gp f.x.gi
    let n := c.g.gval (opReg f.a)
    let t := c.g.gval (opReg f.b)
    let on := WaitOn.nap kind n t f.x.scope.toNat
    let w := waiting s c e [a, b] on
    let x := (s.counter c.b kind 0).getD 0
    Issues s c none [a, b] [a, b] (·.maskP f.x.gp f.x.gi) → haltFault c.c c.b kind n = none → c.ref.slot < 2 →
    c.g.cancelDue c.p = none →
    (s.ct < t → exec (.nap f) s = .next w) ∧
    (t ≤ s.ct → kind ≤ 2 → n ≤ x → exec (.nap f) s = .next (tlEnded w c.b kind 0 x c.ref (waitPath c on) on c.w)) ∧
    (t ≤ s.ct → kind ≤ 2 → x < n → exec (.nap f) s = .next (napLate w c.b kind n t x c.ref (waitPath c on) on c.w))) ∧
  (∀ (s : State) (r : PRef) (w : Waiter) (kind n t scope : Nat), s.waiter? r = some w → w.on = .nap kind n t scope →
    w.fin = none → t ≤ s.ct → haltFault w.c w.b kind n = none → kind ≤ 2 →
    let x := (s.counter w.b kind 0).getD 0
    (n ≤ x → exec (.napWake r) s = .next (tlEnded s w.b kind 0 x r w.p w.on w.w)) ∧
    (x < n → exec (.napWake r) s = .next (napLate s w.b kind n t x r w.p w.on w.w)))

/-- `tlrd` returns the counter, or the block's name for kind 7; a name that reaches nothing is a trap. `tlsig` raises the user
timeline to the value, or by 1 without one, and marks the block SIDE (R212 to R214, R316). -/
def Sys2Proof.Claims.TimelineReadAndSignal : Prop :=
  (∀ (s : State) (c : Cur) (f : V3),
    let kind := f.b.toNat / 8
    let named := decide (3 ≤ kind ∧ kind ≤ 6)
    let srcs := if named then [f.ga] else []
    let e := f.maskP c
    let x? := if kind = 7 then some (blockName c.b) else s.counter c.b kind (if named then c.g.gval (opReg f.a) else 0)
    Issues s c none (srcs ++ [gfld f.d]) srcs f.maskP →
    (x? = none → exec (.tlrd f) s = .next (s.trap c nameFault)) ∧
    (∀ x, x? = some x → Room s c e srcs 0 (needG true f.d) →
      exec (.tlrd f) s = .next (inFlightLater s c e srcs (laterFlight s .dl (groupWr f.d.toNat (BitVec.ofNat 64 x))) f.s))) ∧
  (∀ (s : State) (c : Cur) (f : Tl),
    let a := gsrc f.a 1 1
    let tl := if opReg f.a = 0 then min (c.b.userTl + 1) (2 ^ 64 - 1) else max c.b.userTl (c.g.gval (opReg f.a))
    Issues s c none [a] [a] (·.maskP f.x.gp f.x.gi) →
    exec (.tlsig f) s = .next (issued s { c with b := { c.b with userTl := tl, side := true } } (c.maskP f.x.gp f.x.gi) [a] f.s))
/-- Waits on clasps and timelines, naps, and the reading and signalling of timelines.
Where it goes past the words of the spec it rests on the model's choices of log entries 27 and 31. -/
def Obligations.ClaspAndTimelineWaits : Prop :=
  Sys2Proof.Claims.ClaspAndTimelineWaitsPieces ∧ Sys2Proof.Claims.Naps ∧ Sys2Proof.Claims.TimelineReadAndSignal

/-- `wjoin` waits while the record's count is not 0; `hclaim` of a buffer that is in transfer to the block takes it, and of one
that its holder keeps it waits, and the block acts beyond itself once `hclaim` issues (R316); `qpop` takes one entry for every lane of E once the queue holds as many, and waits until
then; each check of R238 passing; a record, a holder or a queue whose class fails it is WAIT_CLASS (R169, R178, R238, R246). -/
def Sys2Proof.Claims.JoinClaimAndPopWaitsPieces : Prop :=
  (∀ (s s' : State) (c : Cur) (f : V3) (x : List (Nat × List Piece)),
    let j := c.g.gval (opReg f.a)
    let e := f.maskQ c
    let word := s'.vword c.c c.b.die c.b.core (j + 8) 2
    let t : Target :=
      { kind := 6, cls := word % 4, clsL := word % 4,
        prom := word / 256 % 2 == 1, name := j, join := some (c.b.ctx, j) }
    let w := waiting (held s' c t) c e [f.ga] (.join j)
    Issues s c none [f.ga] [f.ga] f.maskQ → j % 16 = 0 → Reaches s c true e (fun _ => j) 16 .read 7 (x, s') →
    (t.fault (s'.curClass c.b) ≠ none → exec (.wjoin f) s = .next (s'.trap c (waitClass t (s'.curClass c.b)))) ∧
    (MayWait s' c t → w.vword c.c c.b.die c.b.core j 8 = 0 →
      exec (.wjoin f) s = .next (waited (held s' c t) c e [f.ga] (.join j))) ∧
    (MayWait s' c t → w.vword c.c c.b.die c.b.core j 8 ≠ 0 → exec (.wjoin f) s = .next w)) ∧
  (∀ (s : State) (c : Cur) (f : M) (u : Buf) (o : Block),
    let h := c.g.gval f.base.toNat
    let e := c.maskP f.x.gp f.x.gi
    let t := s.blockTarget 8 h o
    let s1 := ({ s with uid := s.uid + 1 } : State).updBlock c.b.id fun b => { b with side := true }
    let c1 := withPending s c .dl (groupWr f.d.toNat 0)
    let on := WaitOn.claim h s.uid f.d.toNat
    let w := waiting (held s1 c t) c1 e [] on
    Issues s c none [gfld f.base, gfld f.d] [gfld f.base] (·.maskP f.x.gp f.x.gi) → s.handle c.b.die h = .buf u →
    u.holder ≠ c.b.id → s.block? u.holder = some o →
    (t.fault (s.curClass c.b) ≠ none → u.st = .held ∨ (u.st = .transfer ∧ u.target = c.b.id ∧ u.targetKind = 0) →
      exec (.hclaim f) s = .next (s.trap c (waitClass t (s.curClass c.b)))) ∧
    (MayWait s c t → Room s c e [] 0 (needG true f.d) → u.st = .held → exec (.hclaim f) s = .next w) ∧
    (MayWait s c t → Room s c e [] 0 (needG true f.d) → u.st = .transfer → u.target = c.b.id → u.targetKind = 0 →
      exec (.hclaim f) s = .next (((w.setBuf { u with st := .held, holder := c.b.id, holderKind := 0 }).updGroup c.b.id c.ref.grp
        fun g => g.fulfil s.uid (groupWr f.d.toNat (BitVec.ofNat 64 u.size)) (s.cc + 1)).waitMet c.ref (waitPath c1 on) on c.w))) ∧
  (∀ (s : State) (c : Cur) (f : M) (q : HQueue),
    let e := c.maskP f.x.gp f.x.gi
    let t : Target := { kind := 7, cls := q.cls, clsL := q.cls, fixed := true, name := f.base.toNat }
    let s1 : State := { s with uid := s.uid + 1 }
    let c1 := withPending s c .dq [.v f.d.toNat e []]
    let on := WaitOn.qpop f.base.toNat s.uid f.d.toNat e
    let w := waiting s1 c1 e [] on
    let n := (lanesOf e).length
    Issues s c none [{ grp := false, num := f.d.toNat }] [] (·.maskP f.x.gp f.x.gi) → s.hq? c.b f.base.toNat = some q →
    (t.fault (s.curClass c.b) ≠ none → exec (.qpop f) s = .next (s.trap c (waitClass t (s.curClass c.b)))) ∧
    (MayWait s c t → Room s c e [] 1 0 → q.ents.length < n → exec (.qpop f) s = .next w) ∧
    (MayWait s c t → Room s c e [] 1 0 → n ≤ q.ents.length → exec (.qpop f) s = .next ((((w.setHq { q with ents := q.ents.drop n, head := (q.head + n) % 1024 }).sided
      c.b.id).updGroup c.b.id c.ref.grp fun g => (g.fulfil s.uid
        [lanesWr f.d.toNat e fun l => q.ents.getD ((lanesOf e).idxOf l) 0] (s.cc + 1)).spoil s.uid (popped q e)).waitMet
          c.ref (waitPath c1 on) on c.w)))
/-- The end of a `qpop` and of an `hclaim` wait: the entries leave the queue for the lanes in rising order, or the block holds
the buffer, and the result arrives with the lanes' values, as POISON for lanes whose entry is poisoned, or with the buffer's size (R160,
R169, R178). -/
def Sys2Proof.Claims.PopAndClaimEnd : Prop :=
  (∀ (s : State) (b : Block) (gi q flight d : Nat) (lanes : Mask) (h : HQueue), s.hq? b q = some h →
    (lanesOf lanes).length ≤ h.ents.length →
    s.qpopEnd b gi q flight d lanes = .met
      (((s.setHq { h with
        ents := h.ents.drop (lanesOf lanes).length, head := (h.head + (lanesOf lanes).length) % 1024 }).sided b.id).updGroup b.id gi
          fun g => (g.fulfil flight [lanesWr d lanes fun l => h.ents.getD ((lanesOf lanes).idxOf l) 0] (s.cc + 1)).spoil flight
            (popped h lanes))) ∧
  (∀ (g : Group) (id : Nat) (bad : Option (Mask × List Nat)), g.spoil id bad = { g with
    flights := g.flights.map fun (f : Flight) => if f.id = id then { f with poison := bad } else f }) ∧
  (∀ (s : State) (b : Block) (gi h flight d : Nat) (u : Buf), s.handle b.die h = .buf u → u.st = .transfer → u.target = b.id →
    u.targetKind = 0 →
    s.claimEnd b gi h flight d = .met ((s.setBuf { u with st := .held, holder := b.id, holderKind := 0 }).updGroup b.id gi fun g =>
      g.fulfil flight (groupWr d (BitVec.ofNat 64 u.size)) (s.cc + 1)))
/-- Waits of `wjoin`, `hclaim` and `qpop`, and how they end.
Where it goes past the words of the spec it rests on the model's choices of log entries 27, 30 and 57. -/
def Obligations.JoinClaimAndPopWaits : Prop :=
  Sys2Proof.Claims.JoinClaimAndPopWaitsPieces ∧ Sys2Proof.Claims.PopAndClaimEnd

/-- `callb` (R99, R100): its accesses of the slot count as an atomic of memory. A slot that holds a target calls it; one that holds 0 takes
the group's BINDING value and is BIND_FAIL with subcode 0; one that failed is 1, one that holds the group's own BINDING value 5, one
that holds no such value 3; another group's BINDING value is a wait on that group; an index outside the table is 4. -/
def Sys2Proof.Claims.BoundCalls : Prop :=
  ∀ (s s' : State) (c : Cur) (f : VI) (x : List (Nat × List Piece)),
    let e := c.maskQ f.gp f.gi
    let idx := f.val.toNat
    let at' := (BitVec.ofInt 64 (c.k.bindBase + 8 * f.val)).toNat
    let a := c.k.bindBase + 8 * idx
    let v := s'.vword c.c c.b.die c.b.core a 8
    let own := 4 * c.g.tag + 1
    let fails := fun (s : State) (sub : Nat) =>
      (withGroup (boundState s) c (boundCur s c).g).trap c { cause := 0x16, sub := sub, faddr := a, detail := idx }
    let t := s'.bindTarget c.b a v
    let on := WaitOn.bind a v f.d.toNat
    let w := waiting (held (boundState s') c t) (boundCur s' c) e [] on
    Issues s c none [gfld f.d] [] (·.maskQ f.gp f.gi) → c.ref.slot < 2 →
    (f.val < 0 ∨ (c.k.nbind : Int) ≤ f.val →
      exec (.callb f) s = .next (s.trap c { cause := 0x16, sub := 4, faddr := at', detail := (BitVec.ofInt 64 f.val).toNat })) ∧
    (0 ≤ f.val → f.val < c.k.nbind → a < 2 ^ 64 → Reaches s c true e (fun _ => a) 8 .both 7 (x, s') →
      (v = 0 → exec (.callb f) s = .next (fails (s'.vset c.c c.b.die c.b.core a 8 own) 0)) ∧
      (v % 4 = 2 → exec (.callb f) s = .next (fails s' 1)) ∧
      (v % 4 = 3 ∨ (v % 4 = 0 ∧ 2 ^ 57 ≤ v) → exec (.callb f) s = .next (fails s' 3)) ∧
      (v = own → exec (.callb f) s = .next (fails s' 5)) ∧
      (v % 4 = 1 → v ≠ own → MayWait s' c t → w.vword c.c c.b.die c.b.core a 8 = v → exec (.callb f) s = .next w) ∧
      (v ≠ 0 → v % 4 = 0 → v < 2 ^ 57 → Room s' c e [] 0 (needG true f.d) →
        exec (.callb f) s = .next (called (boundState s') (boundCur s' c) e [] f.d.toNat v f.s)))
/-- Calls, returns and register jumps, and the lazily bound call (R97 to R101).
Where it goes past the words of the spec it rests on the model's choices of log entry 25. -/
def Obligations.CallsAndJumps : Prop :=
  Sys2Proof.Claims.CallsAndRegisterJumps ∧ Sys2Proof.Claims.BoundCalls

/-! ## Tasks and copies: what their engines do -/

namespace Sys2Proof.Claims

/-- Where bead n of a block lies (R262). -/
def beadOf (c : Ctx) (b : Block) (n : Nat) : Nat := c.savebase + 0x90000 * b.recNo + 0x1000 + 64 * (n % 64)
/-- STATUS with REASON, KOFF and CONT of a bead are written in its slot of the ring (Table MTX-4). -/
def putStatus (s : State) (c : Ctx) (b : Block) (n status reason : Nat) : State :=
  s.vset c b.die b.core (beadOf c b n + 6) 1 (status + 4 * reason)
def putKoff (s : State) (c : Ctx) (b : Block) (n koff : Nat) : State := s.vset c b.die b.core (beadOf c b n + 12) 4 koff
def putCont (s : State) (c : Ctx) (b : Block) (n : Nat) : State :=
  s.vset c b.die b.core (beadOf c b n + 1) 1 ((s.vword c b.die b.core (beadOf c b n + 1) 1) ||| 1)
/-- The fields of a bead, as its 64 bytes in the ring hold them. -/
def fieldsOf (s : State) (c : Ctx) (b : Block) (n : Nat) : BeadW := BeadW.ofNat (s.vword c b.die b.core (beadOf c b n) 64)
/-- The matrix timeline that some uncompleted beads allow: the number before the lowest of them (R197). -/
def timelineOf (m : Mtx) (beads : List Bead) : Nat :=
  if beads = [] then m.tail else (beads.map (·.num)).foldl min (beads.headD { num := 0, st := .queued }).num - 1
/-- A block whose bead n has completed (R266): its flags, its arrive, or CLASPERR where the clasp is not ARMED, and the
timeline. -/
def beadCompleted (n : Nat) (w : BeadW) (flags : Nat) (b : Block) : Block :=
  let armed := (b.clasps[w.acl]?).filter (·.mode = 1)
  let err := if w.ae ∧ armed.isNone then 64 else 0
  let beads := b.mtx.beads.filter (·.num ≠ n)
  let acc := b.mtx.accs.getD w.acc {}
  { b with
    clasps := if w.ae then (match armed with | some k => b.clasps.set w.acl (k.arrive 1) | none => b.clasps) else b.clasps
    mtx := { b.mtx with beads := beads, accs := b.mtx.accs.set w.acc { acc with dirty := w.kind == 1 },
                        mflags := b.mtx.mflags ||| flags ||| err, halted := b.mtx.halted.filter (·.1 ≠ n) }
    mtxTl := max b.mtxTl (timelineOf b.mtx beads) }
/-- A block one of whose beads has changed. -/
def beadChanged (n : Nat) (f : Bead → Bead) (b : Block) : Block :=
  { b with mtx := { b.mtx with beads := b.mtx.beads.map fun x => if x.num = n then f x else x } }
/-- A bead halts for a reason at a boundary, with the flags so far (R275). -/
def beadHalts (s : State) (c : Ctx) (b : Block) (n koff flags reason : Nat) : State :=
  let t := putStatus (putCont (putKoff s c b n koff) c b n) c b n 3 reason
  t.updBlock b.id fun b =>
    let b := beadChanged n (fun x => { x with
      st := .halted, due := none, recheck := false, fault := none, flags := flags, tags := [], got := [], lost := false, sent := false }) b
    { b with mtx := { b.mtx with halted := (n, reason) :: b.mtx.halted.filter (·.1 ≠ n) } }
/-- A bead stops at a boundary and stays QUEUED, at a page fault (R277). -/
def beadStops (s : State) (c : Ctx) (b : Block) (n koff flags : Nat) (fault : Option Nat) : State :=
  (putStatus (putCont (putKoff s c b n koff) c b n) c b n 0 0).updBlock b.id
    (beadChanged n fun x => { x with
      st := .queued, due := none, fault := fault, flags := flags, tags := [], got := [], lost := false, sent := false })

/-- The arrive of a completed bead of a block, and the waits that it ends (R206). -/
def beadWakes (w : BeadW) (b : Block) (t : State) : State :=
  if w.ae then (match b.clasps[w.acl]? with | some k => t.claspTurned b.id w.acl k | none => t) else t
/-- A request credits its bytes at its clasp, with the waits that this ends (R206, R227). -/
def copyCredited (s : State) (blk : Nat) (r : CopyReq) : State :=
  match r.clasp with
  | none => s
  | some n => match (s.block? blk).bind (·.clasps[n]?) with
    | none => s
    | some k => (s.updBlock blk fun b =>
        { b with clasps := b.clasps.set n (k.byteArrival (cpyBytes r.op (r.q.map BitVec.toNat))) }).claspTurned blk n k
/-- A block whose copy request has completed, moved or FAILED (R227, R228): the failed value and the timeline. -/
def copyCompleted (r : CopyReq) (fail : Option (Nat × Nat)) (b : Block) : Block :=
  let reqs := b.reqs.filter (·.id ≠ r.id)
  let open' := (reqs.filter fun r => r.st = .moving ∨ r.st = .faulted).map (·.value)
  { b with
    reqs := reqs
    failv := match fail with | some (k, a) => insertFail (r.value, k, a) b.failv | none => b.failv
    cpFail := match fail with | some _ => b.cpFail + 1 | none => b.cpFail
    copyTl := max b.copyTl (if open' = [] then b.copyLast else open'.foldl min (open'.headD 0) - 1) }
/-- The allowance of a side in ct (Table CPY-4a), by the region of its first byte. -/
def allowanceOf (s : State) (c : Ctx) (b : Block) : Side → Nat
  | .pad _ _ => 200
  | .glob va => match (s.leafOf c b.die b.core va).1 with
    | .leaf e => match s.region (leafFrame e + va % 2 ^ pageLog (leafSize e)) with
      | some (.hbm _) => 1500
      | some (.cxl _) => 4000
      | some .aperture => 3000
      | _ => 6000
    | _ => 6000

end Sys2Proof.Claims

/-- `mcont` sets a halted bead QUEUED, to be checked again; `mcont.discard` completes it without arithmetic; an address of no
halted bead is TASK with subcode 5 (R278). -/
def Sys2Proof.Claims.Continuations : Prop :=
  ∀ (s : State) (c : Cur) (f : V3),
    let a := c.g.gval (opReg f.a)
    let e := f.maskP c
    Issues s c (some 1) [f.ga] [f.ga] f.maskP →
    ((∀ x ∈ c.b.mtx.beads, x.st = .halted → beadOf c.c c.b x.num ≠ a) →
      ∀ i ∈ [Instr.mcont f, .mcontDiscard f], exec i s = .next (s.trap c (grpFault 0x19 5))) ∧
    ∀ x, (c.b.mtx.beads.find? fun x => x.st = .halted ∧ beadOf c.c c.b x.num = a) = some x →
      (let t := putStatus s c.c c.b x.num 0 0
       let b := beadChanged x.num (fun x => { x with st := .queued, recheck := true, fault := none }) c.b
       let b := { b with mtx := { b.mtx with halted := b.mtx.halted.filter (·.1 ≠ x.num) } }
       exec (.mcont f) s = .next (inFlightLater t { c with b := b } e [f.ga] (laterFlight t .de []) f.s)) ∧
      (let t := putStatus s c.c c.b x.num 2 0
       let b := beadCompleted x.num (fieldsOf s c.c c.b x.num) x.flags c.b
       exec (.mcontDiscard f) s = .next (beadWakes (fieldsOf s c.c c.b x.num) c.b
         (inFlightLater t { c with b := b } e [f.ga] (laterFlight t .de []) f.s)))

/-- What an engine does with beads (R265, R266, R275, R277, R280). BEAD_START starts the next bead, or halts it.
TASK_COMPLETION ends a running task: DONE, halted, or stopped at a page fault, at the boundary that its arithmetic reached; what it
reads of other packages it asks for first, and what it writes there they answer before it is DONE (R379; log 21).
TASK_HALT halts a queued bead, TASK_PAGE_RESTART lets one go on, BANK_TAKE binds a block to a bank: the contents go to the block
that loses it, in whose record they lie, and what lies in the record of the block that takes it is loaded. -/
def Sys2Proof.Claims.TaskEventsPieces : Prop :=
  (∀ (s t : State) (blk n koff flags : Nat) (b : Block) (c : Ctx) (x : Bead) (how : TaskEnd),
    let w := fieldsOf s c b n
    s.bead? blk n = some (b, c, x) → x.st = .running →
    (x.sent = true →
      exec (.taskCompletion blk n) s = .next (beadWakes w b ((putStatus s c b n 2 0).updBlock blk (beadCompleted n w x.flags)))) ∧
    (x.sent = false → ({ s with ap := { known := x.got, lost := x.lost } } : State).runTask c b x w = ((koff, flags, how), t) →
      (t.ap.wanted ≠ [] → ∃ u : State, ∃ tags, s.askReads t.ap.wanted = (tags, u) ∧
        exec (.taskCompletion blk n) s = .next (u.updBlock blk (beadChanged n fun x => { x with due := none, tags := tags }))) ∧
      (t.ap.wanted = [] →
        let t : State := { t with ap := {} }
        let z := putKoff t c b n koff
        let asked := z.tagsSince s
        exec (.taskCompletion blk n) s = .next (match how with
          | .done =>
            if asked = [] then beadWakes w b ((putStatus z c b n 2 0).updBlock blk (beadCompleted n w (flags ||| x.flags)))
            else z.updBlock blk (beadChanged n fun x' => { x' with due := none, tags := asked, sent := true, flags := flags ||| x.flags })
          | .halt r => beadHalts t c b n koff (flags ||| x.flags) r
          | .page a => beadStops t c b n koff (flags ||| x.flags) (some a))))) ∧
  (∀ (s : State) (blk n reason : Nat) (b : Block) (c : Ctx) (x : Bead), s.bead? blk n = some (b, c, x) →
    (x.st = .queued → exec (.taskHalt blk n reason) s = .next (beadHalts s c b n (fieldsOf s c b n).koff x.flags reason)) ∧
    (∀ a, x.fault = some a →
      exec (.taskPageRestart blk n) s = .next (s.updBlock blk (beadChanged n fun x => { x with fault := none })))) ∧
  (∀ (s : State) (core : CoreId) (eng : Engine) (b : Block) (c : Ctx) (x : Bead),
    (∀ r, s.nextBead core.die core.core eng = some (b, c, x, .halt r) →
      exec (.beadStart core eng) s = .next (beadHalts s c b x.num (fieldsOf s c b x.num).koff x.flags r)) ∧
    (∀ (t : State) (es : List (List Byte)), s.nextBead core.die core.core eng = some (b, c, x, .start) →
      s.latch c b (fieldsOf s c b x.num).names = (.inl es, t) →
      let w := fieldsOf s c b x.num
      let ents := es.map Ent.ofBytes
      (∀ r, startReason w (b.mtx.accs.getD w.acc {}).fmt ents = some r →
        exec (.beadStart core eng) s = .next (beadHalts t c b x.num w.koff x.flags r)) ∧
      (startReason w (b.mtx.accs.getD w.acc {}).fmt ents = none →
        ∃ u : State, exec (.beadStart core eng) s = .next u ∧ ∀ b', u.block? b.id = some b' →
          (∀ y ∈ b'.mtx.beads, y.num = x.num → y.st = .running ∧ y.ents = es ∧ ∃ due, y.due = some due ∧ s.cc + taskTime w ents ≤ due) ∧
          b'.mtx.lastStart = s.cc))) ∧
  (∀ (s : State) (b v : Block) (c : Ctx) (k : Nat), s.block? b.id = some b → s.wantsBank b = true →
    let takes := fun (accs : List Acc) (fresh : Bool) (t : State) =>
      t.updBlock b.id fun x => { x with mtx := { x.mtx with bank := some k, stored := false, accs := accs, fresh := fresh } }
    let image := fun (c : Ctx) (b : Block) => c.savebase + 0x90000 * b.recNo + 0x2000
    (s.bankFor b = some (k, none) →
      (b.mtx.stored = false → exec (.bankTake b.id) s = .next (takes b.mtx.accs false s)) ∧
      ∀ ps t u bs accs, b.mtx.stored = true → s.ctx? b.ctx = some c →
        s.reach c b.die b.core (image c b) imageSize .read = (.inr ps, t) → t.readPieces ps = ((bs, false), u) →
        accsOf b.mtx.accs bs = some accs → exec (.bankTake b.id) s = .next (takes accs false u)) ∧
    (∀ t u, s.bankFor b = some (k, some v) → s.ctx? v.ctx = some c → b.mtx.stored = false →
      s.vwrite c v.die v.core (image c v) v.mtx.image = (some t, u) →
      exec (.bankTake b.id) s = .next
        (takes b.mtx.accs true (t.updBlock v.id fun x => { x with mtx := { x.mtx with bank := none, stored := true } }))))
/-- The events of tile tasks, and their continuation after a fault.
Where it goes past the words of the spec it rests on the model's choices of log entries 21, 51 and 82. -/
def Obligations.TaskEvents : Prop :=
  Sys2Proof.Claims.TaskEventsPieces ∧ Sys2Proof.Claims.Continuations

/-- COPY_ACKNOWLEDGE gives a request the block's next value, its promised time and, for a `put`, its window's next number
(R218, R226). The promise is the later of the block's last one and the present with the farthest side's allowance, and the time
of the bytes at the engine's share, in ct. COPY_COMPLETION first asks for what the request reads of other packages; it completes the
request once the packages it reached have answered, at once for a `put`, whose source counter then advances, and both where it FAILED;
or leaves it waiting for a page; and it counts a missed promise. COPY_PAGE_RESUME lets it go on; a `put` without an active port for 10 ms fails (R227, R228, R375). -/
def Sys2Proof.Claims.CopyEvents : Prop :=
  (∀ (s : State) (blk id : Nat) (b : Block) (c : Ctx) (r : CopyReq), s.req? blk id = some (b, c, r) → r.op ≠ 13 →
    let d := (r.sides.map (allowanceOf s c b)).foldl max 0
    let load := (s.blocks.filter fun x => x.die == b.die && x.core == b.core && x.bslot % 2 == b.bslot % 2 && x.st != .saved &&
      x.reqs.any (·.st != .done)).length
    let rate := max 1 (64 / max 1 load)
    let cc := (cpyBytes r.op (r.q.map BitVec.toNat) + rate - 1) / rate
    let tick := max (s.ct + d) b.prevT + (cc * 1000 + dvfsF s.dvfs - 1) / dvfsF s.dvfs
    ∃ t : State, exec (.copyAcknowledge blk id) s = .next t ∧ ∀ b', t.block? blk = some b' →
      b'.copyLast = b.copyLast + 1 ∧ b'.prevT = tick ∧
      (∀ y ∈ b'.reqs, y.id = r.id → y.st = .moving ∧ y.value = b.copyLast + 1 ∧ y.tick = tick ∧ y.late = false ∧ ∃ due, y.due = some due ∧ s.cc < due) ∧
      ∀ g' ∈ b'.groups[r.grp]?, ∀ fl ∈ g'.flights, fl.id = r.flight → fl.due = some (s.cc + 1) ∧
        fl.writes = if r.d = 0 then [] else [.g r.d (BitVec.ofNat 64 (b.copyLast + 1)), .g (r.d + 1) (BitVec.ofNat 64 tick)]) ∧
  (∀ (s : State) (blk id : Nat) (b : Block) (c : Ctx) (r : CopyReq) (w : Win), s.req? blk id = some (b, c, r) → r.op = 13 →
    s.win? b.ctx ((r.q.getD 1 0).toNat % 4096) = some w →
    ∃ t : State, exec (.copyAcknowledge blk id) s = .next t ∧ (t.win? w.ctx w.index).map (·.puts) = some (w.puts + 1) ∧
      (t.win? w.ctx w.index).map (·.owners) =
        some (w.owners ++ [(w.puts + 1, blk, b.copyLast + 1, (r.q.getD 1 0).toNat / 2 ^ 16)]) ∧
      ∀ b', t.block? blk = some b' → ∀ y ∈ b'.reqs, y.id = r.id → y.putNo = w.puts + 1 ∧ y.value = b.copyLast + 1) ∧
  (∀ (s : State) (blk id : Nat) (b : Block) (c : Ctx) (r : CopyReq), s.req? blk id = some (b, c, r) →
    let done := fun (fail : Option (Nat × Nat)) (t : State) =>
      let u := (copyCredited t blk r).updBlock blk (copyCompleted r fail)
      let u := if r.tick < s.ct then
          (u.updCtx b.ctx fun c => { c with cpMiss := min (c.cpMiss + 1) (2 ^ 64 - 1) }).stageCtx b.ctx
        else u
      match if r.op = 13 then u.win? b.ctx ((r.q.getD 1 0).toNat % 4096) else none with
      | none => u
      | some w => match fail with
        | none => u.setWin (w.srcDone' r.putNo)
        | some (k, a) => u.setWin { (w.srcDone' r.putNo).tgtDone' r.putNo with fails := insertFail (r.putNo, k, a) w.fails }
    let becomes := fun (r' : CopyReq) (t : State) =>
      t.updBlock blk fun b => { b with reqs := b.reqs.map fun x => if x.id = r.id then r' else x }
    let moves := ({ s with ap := { known := r.got, lost := r.lost } } : State).move c { b with reqs := [r] } r
    (r.moved = true → exec (.copyCompletion blk id) s = .next (done none s)) ∧
    (r.moved = false → moves.state.ap.wanted ≠ [] → ∃ u : State, ∃ tags, s.askReads moves.state.ap.wanted = (tags, u) ∧
      exec (.copyCompletion blk id) s = .next (becomes { r with due := none, tags := tags } u)) ∧
    (r.moved = false → moves.state.ap.wanted = [] → ∀ t,
      let t' : State := { t with ap := {} }
      (moves = .done t → (r.op = 13 ∨ t.uid ≤ s.uid) → exec (.copyCompletion blk id) s = .next (done none t')) ∧
      (moves = .done t → r.op ≠ 13 → s.uid < t.uid → exec (.copyCompletion blk id) s = .next (becomes
        { r with due := none, moved := true, tags := (List.range (t.uid - s.uid)).map fun i => ((s.uid + i) % 65536, 0, 0) } t')) ∧
      (∀ k a, moves = .failed k a t → exec (.copyCompletion blk id) s = .next (done (some (k, a)) t')) ∧
      ∀ a, moves = .page a t → exec (.copyCompletion blk id) s = .next (becomes
        { r with st := .faulted, due := none, fail := some (6, a), late := true } t'))) ∧
  (∀ (s : State) (blk id : Nat) (b : Block) (c : Ctx) (r : CopyReq), s.req? blk id = some (b, c, r) →
    exec (.copyPageResume blk id) s = .next (({ s with free := s.free + 1 } : State).updBlock blk fun b =>
      { b with reqs := b.reqs.map fun x => if x.id = r.id then
          { r with st := .moving, due := some (s.cc + (1 + Config.latency s.free)), fail := none, late := true } else x })) ∧
  (∀ (s : State) (blk id since : Nat) (b : Block) (c : Ctx) (r : CopyReq), s.req? blk id = some (b, c, r) → r.op = 13 →
    r.st = .moving → s.activePort = false → s.linkDown = some since → since + 10000000 ≤ s.ct →
    exec (.putLinkTimeout (.request blk) id) s = .next (s.finishCopy blk r (some (8, (r.q.getD 1 0).toNat / 2 ^ 16 % 2 ^ 48))))
/-- Copy requests: their issue, and the events that carry them out.
Where it goes past the words of the spec it rests on the model's choices of log entries 14, 21, 22 and 32. -/
def Obligations.Copies : Prop :=
  Sys2Proof.Claims.CopyRequests ∧ Sys2Proof.Claims.CopyEvents

/-- `emit` appends the lanes' records to a work-graph node in the order of lanes: a descriptor that is not 64-aligned is
MISALIGNED, one with a field out of range is TASK with subcode 12, and a node without room for the records stalls the path.
`spawn` raises the join record, counts the children in the launch record and enqueues them: a kernel that takes no work is TASK
with subcode 10, a task record out of range is subcode 11, and a core with 256 spawns waiting stalls the path once
these are done (R365 to R367).
Where it goes past the words of the spec it rests on the model's choices of log entries 36 and 74. -/
def Obligations.SpawnAndEmit : Prop :=
  (∀ (s t : State) (c : Cur) (f : V3) (bs : List Byte),
    let data := f.srcB 1
    let e := f.maskP c
    let desc := c.g.gval (opReg f.a)
    let vals := (lanesOf e).map fun l => BitVec.ofNat 32 (c.g.read data l)
    Issues s c none [f.ga, data] [f.ga, data] f.maskP →
    (desc % 64 ≠ 0 → exec (.emit f) s = .next (s.trap c (grpFault 0x0A 0))) ∧
    (desc % 64 = 0 → s.lkRead c.c c.b.die c.b.core e desc 64 = (.inr bs, t) →
      ((NodeDesc.ofBytes bs).bad = true → exec (.emit f) s = .next (t.trap c (grpFault 0x19 0x0C))) ∧
      ((NodeDesc.ofBytes bs).bad = false → 1024 < t.nodeHeld c.b.ctx desc + vals.length →
        exec (.emit f) s = .next (t.updPath c.ref fun p => { p with cond := .stalled (.node desc vals.length) })) ∧
      ((NodeDesc.ofBytes bs).bad = false → t.nodeHeld c.b.ctx desc + vals.length ≤ 1024 →
        let u := t.nodeAppend c.b.ctx desc vals
        exec (.emit f) s = .next (inFlightLater u (sidedCur c) e [f.ga, data] (laterFlight u .dq []) f.s)))) ∧
  (∀ (s t : State) (c : Cur) (f : V3) (bs : List Byte) (k : Kernel),
    let srcs := [f.ga, f.gb]
    let e := f.maskQ c
    let j := c.g.gval (opReg f.a)
    let task := c.g.gval (opReg f.b)
    let n := fieldAt bs 0x10 4
    let cls := min (fieldAt bs 0x14 1) c.b.clsL
    let prom := fieldAt bs 0x15 1 == 1
    let good := 1 ≤ n ∧ n ≤ 65535 ∧ fieldAt bs 0x14 1 ≤ 2 ∧ fieldAt bs 0x15 1 ≤ 1 ∧ fieldAt bs 0x16 10 = 0
    Issues s c none srcs srcs f.maskQ →
    (task % 32 ≠ 0 ∨ j % 16 ≠ 0 → exec (.spawn f) s = .next (s.killTrap c e srcs (grpFault 0x0A 0))) ∧
    (task % 32 = 0 → j % 16 = 0 → s.lkRead c.c c.b.die c.b.core e task 32 = (.inr bs, t) →
      (∀ r, t.kernelFor c.b.ctx (fieldAt bs 0 8) = .inr r → exec (.spawn f) s = .next (t.killTrap c e srcs (grpFault 0x19 0x0A))) ∧
      (t.kernelFor c.b.ctx (fieldAt bs 0 8) = .inl k →
        (¬good → exec (.spawn f) s = .next (t.killTrap c e srcs (grpFault 0x19 0x0B))) ∧
        ∀ u, good → (if j = 0 then (none, t) else t.spanMiss c.c c.b.die c.b.core j 16 .both) = (none, u) →
          let v := (if j = 0 then u else u.joinRaise c.c c.b.die c.b.core j cls n prom).enqueueChildren c k
            (fieldAt bs 8 8) j cls n prom
          (u.spawnCount c.b.die c.b.core < 256 → (∀ i ∈ u.items, i.id ≠ u.uid) →
            exec (.spawn f) s = .next (inFlightLater v (sidedCur c) e srcs (laterFlight v .de []) f.s)) ∧
          ((∃ i ∈ v.items, i.id = u.uid ∧ i.queued = false) → exec (.spawn f) s = .next (withGroup v (sidedCur c)
            (withPath c (c.g.killAll c.ref.slot e srcs) (some { c.p with cond := .stalled (.spawnQ u.uid c.w) })))))))

/-! ## Traps, handlers and class SYS -/

namespace Sys2Proof.Claims

/-- A fault without more than its cause and subcode, of the path as a whole. -/
def groupFault (cause sub : Nat) : Fault2 := { cause := cause, sub := sub }
/-- Where a group's trap frame and trap bank lie (R303, Table CTX-4). -/
def frameAt (c : Cur) : Nat := c.c.savebase + 0x90000 * c.b.recNo + 0x23000 + 0x3400 * c.ref.grp
def bankAt (c : Cur) : Nat := c.c.savebase + 0x90000 * c.b.recNo + 0x25C00 + 0x3400 * c.ref.grp
/-- The kernel's handler of a cause, or the supervisor's of PAGE_FAULT; none where HANDLERS names none (R302). -/
def handlerOf (k : Kernel) (cause : Nat) : Option Nat :=
  let off := k.handlers.getD cause 0xFFFFFFFF
  if cause = 8 then some supBase else if off = 0xFFFFFFFF then none else some (k.textBase + off)
/-- The values of Table TRP-8. -/
def csrOf (s : State) (c : Cur) (n : Nat) : Nat :=
  let g := c.g
  let bit := fun (b : Bool) (k : Nat) => if b then 2 ^ k else 0
  [ g.fflags, bit g.stale 0 + bit g.staleEn 1 + bit g.qovf 2 + bit (decide (1 ≤ g.traps.length)) 3 + bit (decide (2 ≤ g.traps.length)) 4,
    g.b8fmt.toNat, c.b.mtx.mflags, g.trapnest.toNat,
    c.b.core + 2 ^ 6 * c.b.die + 2 ^ 11 * (g.slotNo.getD 0 / 16) + 2 ^ 13 * g.slotNo.getD 0, bit c.b.side 0,
    c.b.clsL + 4 * s.curClass c.b, g.lkgen.toNat, frameAt c ].getD n (frameAt c)
/-- The writable bits of the registers 0 to 4 (Tables NUM-3, TRP-9, ALU-1, MTX-8, TRP-7), the read-only ones of `gstat` with
them. -/
def writable (n : Nat) : BitVec 64 := [0x1F, 0x1F, 0x1F1F, 0x7F, 0x01FFFFFFFFFFF001].getD n 0x01FFFFFFFFFFF001
/-- A group access of n bytes at a 4 KiB-aligned address passes the checks of R157, with the state after them. -/
abbrev RegionOk (s : State) (c : Cur) (a n : Nat) (acs : Acs) (t : State) : Prop :=
  a < 2 ^ 57 ∧ a % 4096 = 0 ∧ s.spanMiss c.c c.b.die c.b.core a n acs = (none, t)

/-- The group that comes back from a handler by a frame and its bank, lanes that have exited aside (R308): a cancellation that was
held back is due at the path's first issue, once no handler is left. -/
def cameBack (g : Group) (fr : Frame) (t : TrapSt) (bank : List Byte) (slot cc : Nat) : Group :=
  let live := fr.amask &&& ~~~g.exited
  let om : Mask := BitVec.ofNat 32 fr.other.2
  let point := fun (x : Nat) => (x % 2 ^ 57, x / 2 ^ 57 % 16)
  let me : Option Path := if live = 0 then none else some
    { clause := (point fr.pc).1, index := (point fr.pc).2, mask := live, board := t.trapped.board, cancelled := t.trapped.cancelled,
      owesCancel := g.traps.length == 1 && g.cancel.isSome && !t.trapped.cancelled, start := cc + 1 }
  let other : Option Path := if om &&& ~~~g.exited = 0 then none
    else if fr.slot = t.slot ∧ t.otherAt = some ((point fr.other.1).1, (point fr.other.1).2, om) then
      t.other.map fun p => { p with mask := om &&& ~~~g.exited }
    else some { clause := (point fr.other.1).1, index := (point fr.other.1).2, mask := om &&& ~~~g.exited }
  { g with
    g := g.g.take 56 ++ (List.range 8).map fun i => if fr.mapG.testBit i then some (BitVec.ofNat 64 (fieldAt bank (8 * i) 8)) else none
    v := g.v.take 56 ++ (List.range 8).map fun i => if fr.mapV.testBit i then some
      { val := (List.range 32).map fun l => BitVec.ofNat 32 (fieldAt bank (0x80 + 128 * i + 4 * l) 4),
        dead := BitVec.ofNat 32 (fieldAt bank (0x40 + 4 * i) 4) } else none
    stack := g.stack.take fr.sdepth, toks := g.toks.mapIdx fun k x => if fr.tokOpen.testBit k then x else {}
    traps := g.traps.drop 1, trapnest := if t.nest then g.trapnest ||| 1 else g.trapnest, turn := 1 - slot
    slot0 := if fr.slot = 0 then me else other, slot1 := if fr.slot = 0 then other else me }

end Sys2Proof.Claims

/-- Entry of a handler (R303 to R306). From code that is no handler the frame and the trap bank are written to the group's save slot, and
nothing else of memory; from a handler with EN of `trapnest` 1, to the area that `trapnest` names, and EN is cleared. The path of slot 0
stands at the handler's clause on FMASK or AMASK, slot 1 is free, the registers 56 to 63 are unmapped but for g63, which holds
the frame's address, every other register is as it was, and the level holds what `rfe` needs. -/
def Sys2Proof.Claims.TrapEntry : Prop :=
  ∀ (s t : State) (c : Cur) (f : Fault2) (target clause index : Nat), s.cursor = some c → c.ref.slot < 2 →
    c.g.index = c.ref.grp → c.g.v.length = 64 → c.g.g.length = 64 → handlerOf c.k f.cause = some target →
    let nested := c.g.traps ≠ []
    let area := c.g.trapnest.toNat / 4096 % 2 ^ 45 * 4096
    let frame := if nested then area else frameAt c
    let bank := if nested then area + 0x800 else bankAt c
    let u := s.dropRefs c.ref.blk c.ref.grp (some c.ref.slot)
    (nested → c.g.traps.length = 1 ∧ c.g.trapnest.getLsbD 0 = true ∧
      ∃ ps, (u.reach c.c c.b.die c.b.core area 4096 .write).1 = .inr ps) →
    u.vwriteAll c.c c.b.die c.b.core
      ((frame, frameBytes c.g c.p c.ref.slot f c.w clause index s.ct bank nested) :: bankWrites c.g bank) = some t →
    let v := s.trapAt c.ref f c.w clause index
    v.mem = t.mem ∧ ∃ g' : Group, v.group? c.ref.blk c.ref.grp = some g' ∧
      g'.slot0 = some { clause := target, index := 15, mask := if f.lane then f.fmask else c.p.mask } ∧ g'.slot1 = none ∧
      g'.gval 63 = frame % 2 ^ 64 ∧ (∀ n, 56 ≤ n → n < 63 → g'.gval? n = none) ∧ (∀ n l, 56 ≤ n → g'.lane? n l = none) ∧
      (∀ n, n < 56 → g'.gval? n = c.g.gval? n ∧ ∀ l, g'.lane? n l = c.g.lane? n l) ∧
      g'.p = c.g.p ∧ g'.q = c.g.q ∧ g'.e = c.g.e ∧ g'.t = c.g.t ∧ g'.stack = c.g.stack ∧ g'.toks = c.g.toks ∧
      g'.flights = c.g.flights ∧ g'.fflags = c.g.fflags ∧ g'.seq = c.g.seq ∧
      g'.trapnest = (if nested then c.g.trapnest &&& ~~~1 else c.g.trapnest) ∧
      ∃ lvl : TrapSt, g'.traps = lvl :: c.g.traps ∧ lvl.frame = frame ∧ lvl.bank = bank ∧ lvl.cause = f.cause ∧
        lvl.amask = c.p.mask ∧ lvl.start = s.ct ∧ lvl.sdepth = c.g.stack.length ∧ lvl.slot = c.ref.slot ∧ lvl.nest = decide nested ∧
        lvl.other = (if c.ref.slot = 0 then c.g.slot1 else c.g.slot0)

/-- A trap of an instruction is one of its group, at its index, with STALE as the instruction leaves it (R114, R304). Without a
handler (R307): Kill ends the group and marks its block failed with the cause and subcode, unless it has failed
before; CANCELLED lets the path's lanes exit, and marks nothing; NAP_LATE waits on for the value; BIND_FAIL with subcode 0 marks the
slot failed, with 2, and is Kill. In a handler with EN of `trapnest` 0, and in a nested one, a
fault is DOUBLE_TRAP: the group ends, the block is marked with cause 0x30 and the inner cause, and the event is logged
(R306). -/
def Sys2Proof.Claims.DefaultActionsAndDoubleTrap : Prop :=
  (∀ (s : State) (c : Cur) (f : Fault2), s.trap c f =
    (s.updGroup c.ref.blk c.ref.grp fun g => { g with stale := g.stale || c.g.stale }).trapAt c.ref f c.w c.p.clause c.p.index) ∧
  (∀ (s t : State) (c : Cur) (f : Fault2), s.cursor = some c → c.g.traps = [] → handlerOf c.k f.cause = none →
    (s.dropRefs c.ref.blk c.ref.grp (some c.ref.slot)).vwriteAll c.c c.b.die c.b.core
      [(frameAt c, frameBytes c.g c.p c.ref.slot f c.w c.p.clause c.p.index s.ct (bankAt c) false)] = some t →
    let kills := fun (u : State) => (u.updBlock c.ref.blk fun b =>
        { b with failed := if b.failed = none then some (f.cause, f.sub) else b.failed }).exitLanes c.ref.blk c.ref.grp allLanes
    (f.cause ≠ 0x22 → f.cause ≠ 0x11 → (f.cause = 0x16 → f.sub ≠ 0) →
      s.trapAt c.ref f c.w c.p.clause c.p.index = kills t) ∧
    (f.cause = 0x16 → f.sub = 0 →
      s.trapAt c.ref f c.w c.p.clause c.p.index = kills (t.vset c.c c.b.die c.b.core f.faddr 8 2)) ∧
    (f.cause = 0x11 → s.trapAt c.ref f c.w c.p.clause c.p.index =
      t.updPath c.ref fun p => { p with cond := .wait (.tl f.detail (f.ext.headD 0) 0 3) c.w }) ∧
    (f.cause = 0x22 →
      s.trapAt c.ref f c.w c.p.clause c.p.index = t.exitLanes c.ref.blk c.ref.grp c.p.mask)) ∧
  (∀ (s : State) (c : Cur) (f : Fault2) (lvl : TrapSt) (ls : List TrapSt), s.cursor = some c → c.g.traps = lvl :: ls →
    (ls ≠ [] ∨ c.g.trapnest.getLsbD 0 = false) →
    s.trapAt c.ref f c.w c.p.clause c.p.index = (((s.dropRefs c.ref.blk c.ref.grp (some c.ref.slot)).updBlock c.ref.blk fun b =>
        { b with failed := if b.failed = none then some (0x30, f.cause) else b.failed }).exitLanes c.ref.blk c.ref.grp
          allLanes).logEvent 5 c.b.ctx 0x30 f.cause 0 0)
/-- Taking a trap: the entry of a handler, the default actions and DOUBLE_TRAP (R302 to R307).
Where it goes past the words of the spec it rests on the model's choices of log entries 19 and 28. -/
def Obligations.Traps : Prop :=
  Sys2Proof.Claims.TrapEntry ∧ Sys2Proof.Claims.DefaultActionsAndDoubleTrap

/-- `trap` raises SWTRAP with its code and resumes after itself; `brk` raises BREAKPOINT and resumes at itself (R304, R311).
`ctc` returns the chip time, `csrr` the register's value at issue, each 4 cc later; `csrw` replaces the writable fields at
issue + 4, and a 1 in a reserved bit is ILLEGAL_OP NONZERO (R311, R312). `icsync` goes on once no store of the group is
outstanding, and holds its path until then (R313). -/
def Obligations.TrapsAndSystemRegisters : Prop :=
  (∀ (s : State) (c : Cur) (f : VI), Issues s c none [] [] (·.maskQ f.gp f.gi) →
    exec (.trap f) s = .next ((withGroup s c { c.g with turn := 1 - c.ref.slot }).trapAt c.ref (groupFault 0x20 f.val.toNat) c.w
      c.after.1 c.after.2) ∧
    exec (.brk f) s = .next (s.trap c (groupFault 0x21 f.val.toNat)) ∧
    ((∀ fl ∈ c.g.flights, fl.cls = .ds → fl.arrived = true) →
      exec (.icsync f) s = .next (issued s c (c.maskQ f.gp f.gi) [] f.s)) ∧
    ((∃ fl ∈ c.g.flights, fl.cls = .ds ∧ fl.arrived = false) →
      exec (.icsync f) s = .next (s.updPath c.ref fun p => { p with cond := .stalled (.drained [.ds]) }))) ∧
  (∀ (s : State) (c : Cur) (f : V3), Issues s c none [gfld f.d] [] f.maskQ → Room s c (f.maskQ c) [] 0 (needG true f.d) →
    exec (.ctc f) s = .next (inFlight s c (f.maskQ c) [] (fixedFlight s 4 0 (groupWr f.d.toNat (BitVec.ofNat 64 s.ct))) f.s)) ∧
  (∀ (s : State) (c : Cur) (f : VI),
    let e := c.maskQ f.gp f.gi
    Issues s c none [gfld f.d] [] (·.maskQ f.gp f.gi) → Room s c e [] 0 (needG true f.d) → c.g.index = c.ref.grp →
    exec (.csrr f) s = .next
      (inFlight s c e [] (fixedFlight s 4 0 (groupWr f.d.toNat (BitVec.ofNat 64 (csrOf s c f.val.toNat)))) f.s)) ∧
  ∀ (s : State) (c : Cur) (f : VI),
    let a := gsrc f.a 1 1
    let e := c.maskQ f.gp f.gi
    let n := f.val.toNat
    let x := BitVec.ofNat 64 (c.g.gval (opReg f.a))
    Issues s c none [a] [a] (·.maskQ f.gp f.gi) →
    (x &&& ~~~(writable n) ≠ 0 → exec (.csrw f) s = .next (s.trap c (groupFault 0x01 7))) ∧
    (x &&& ~~~(writable n) = 0 →
      exec (.csrw f) s = .next (inFlight s c e [a] { fixedFlight s 4 0 [] with csr := some (n, x) } f.s))

/-- `rfe` outside a handler is ILLEGAL_OP NOT_HANDLER. In a handler it waits for the group's operations; then a frame that R308
refuses is ILLEGAL_OP FRAME, and otherwise the handler's paths, its stack entries and its tokens go, the registers 56 to 63 are
the bank's, the slots take the frame's paths, the group leaves the level, tokens that are complete merge, and the lanes taken out of
AMASK exit; registers that the bank's need are found first (R117, R308).
Where it goes past the words of the spec it rests on the model's choices of log entry 28. -/
def Obligations.ReturnFromHandler : Prop :=
  (∀ (s : State) (c : Cur) (f : V3), s.cursor = some c → c.p.mask ≠ 0 → c.g.traps = [] →
    exec (.rfe f) s = .next (s.trap c (groupFault 0x01 0x09))) ∧
  (∀ (s : State) (c : Cur) (f : V3) (lvl : TrapSt) (ls : List TrapSt), s.cursor = some c → c.p.mask ≠ 0 →
    c.g.traps = lvl :: ls →
    ((∃ fl ∈ c.g.flights, fl.cls ∈ [Drn.dl, .ds, .da, .dq, .de] ∧ fl.arrived = false) →
      exec (.rfe f) s = .next (s.updPath c.ref fun p => { p with cond := .stalled (.drained [.dl, .ds, .da, .dq, .de]) })) ∧
    ((∀ fl ∈ c.g.flights, fl.cls ∈ [Drn.dl, .ds, .da, .dq, .de] → fl.arrived = true) → ∀ (t : State) (bs : List Byte),
      s.vread c.c c.b.die c.b.core lvl.frame 0x180 = (some bs, t) →
      let fr := Frame.ofBytes bs
      (fr.bad lvl c.g = true → exec (.rfe f) s = .next (t.trap c (groupFault 0x01 0x0A))) ∧
      (fr.bad lvl c.g = false → ∀ (u : State) (bank : List Byte), t.vread c.c c.b.die c.b.core fr.bank 0x480 = (some bank, u) →
        let kept := { c.g with g := c.g.g.take 56, v := c.g.v.take 56 }
        let nv := ((List.range 8).filter fr.mapV.testBit).length
        let ng := ((List.range 8).filter fr.mapG.testBit).length
        let left := ((u.dropRefs c.ref.blk c.ref.grp (some 0)).dropRefs c.ref.blk c.ref.grp (some 1)).unlevel c.ref.blk c.ref.grp
          (1 - lvl.slot) c.g.traps.length
        (u.allocFor c.b c.k c.ref.grp kept.heldV kept.heldG nv ng = .ok →
          exec (.rfe f) s = .next ((((left.setGroup c.ref.blk c.ref.grp (cameBack c.g fr lvl bank c.ref.slot s.cc)).updGroup c.ref.blk
            c.ref.grp Group.settle)).exitLanes c.ref.blk c.ref.grp (lvl.amask &&& ~~~fr.amask))) ∧
        (u.allocFor c.b c.k c.ref.grp kept.heldV kept.heldG nv ng = .stall →
          exec (.rfe f) s = .next (u.updPath c.ref fun p => { p with
            cond := .stalled (.regs nv ng (c.g.heldV - kept.heldV) (c.g.heldG - kept.heldG)) })) ∧
        (u.allocFor c.b c.k c.ref.grp kept.heldV kept.heldG nv ng = .maxLive →
          exec (.rfe f) s = .next (u.trap c (groupFault 0x03 3))))))

/-- `pgmap` and `pginv` outside supervisor mode are ILLEGAL_OP PRIV (R333). In it, `pgmap` of a record that is reached serves a
template with V set and writes STATUS, and one without V waits for the host, but not in a group whose cancellation the handler holds
back, where STATUS is 6; a poisoned record is POISON. `pginv` of a 4 KiB-aligned range that is not empty drops the translations of the
range once the group's stores and atomics have completed, and holds its path until the accesses, copy requests and tasks that may have
used them have completed too; then a page of the range that is mapped no more gives its frame to the dirty list (R160, R331, R335 to
R337). HOST_FAULT_REPLY writes STATUS 4, and the waiting path goes on; where the host refuses it is STATUS 5, and the group ends with
PAGE_FAULT REFUSED (R332, R334). -/
def Sys2Proof.Claims.PageInstructions : Prop :=
  (∀ (s : State) (c : Cur) (f : V3), c.supervisor = false →
    (Issues s c none [f.ga] [f.ga] f.maskQ → exec (.pgmap f) s = .next (s.trap c (groupFault 0x01 0x0B))) ∧
    (Issues s c none [f.ga, f.gb] [f.ga, f.gb] f.maskQ → exec (.pginv f) s = .next (s.trap c (groupFault 0x01 0x0B)))) ∧
  (∀ (s : State) (c : Cur) (f : V3) (x : List (Nat × List Piece) × State),
    let r := c.g.gval (opReg f.a)
    let e := f.maskQ c
    let at' := (List.range 32).map fun l => if e.getLsbD l then r else 0
    Issues s c none [f.ga] [f.ga] f.maskQ → c.supervisor = true →
    (r < 2 ^ 57 → r % 32 ≠ 0 → exec (.pgmap f) s = .next (s.trap c
      { cause := 0x0A, lane := true, fmask := e, exta := true, faddr := r, ext := at' })) ∧
    (r % 32 = 0 → Reaches s c true e (fun _ => r) 32 .both 7 x → ∀ bs bad t,
      x.2.readPieces (x.1.headD (0, [])).2 = ((bs, bad), t) →
      let va := leVal (bs.take 8)
      let tmpl := leVal ((bs.drop 8).take 8)
      (bad = true → exec (.pgmap f) s = .next (t.trap c
        { cause := 0x0B, lane := true, fmask := e, exta := true, faddr := r, ext := at' })) ∧
      (bad = false → tmpl % 2 = 1 → ∀ st u, t.mapPage c.c c.b.die va tmpl = (st, u) →
        exec (.pgmap f) s = .next (issued (u.vset c.c c.b.die c.b.core (r + 16) 8 st) c e [f.ga] f.s)) ∧
      (bad = false → tmpl % 2 = 0 → c.ref.slot < 2 → t.curClass c.b ≤ 2 →
        let on := WaitOn.host va (r + 16)
        let w := waiting t c e [f.ga] on
        let heldBack := c.g.cancel ≠ none ∧ ∃ lvl, c.g.traps.getLast? = some lvl ∧ lvl.trapped.cancelled = false
        (¬heldBack → exec (.pgmap f) s = .next w) ∧
        (heldBack → exec (.pgmap f) s = .next
          ((w.vset c.c c.b.die c.b.core (r + 16) 8 6).waitMet c.ref (waitPath c on) on c.w))))) ∧
  (∀ (s : State) (c : Cur) (f : V3),
    let va := c.g.gval (opReg f.a)
    let n := c.g.gval (opReg f.b)
    let good := va % 4096 = 0 ∧ n % 4096 = 0 ∧ n ≠ 0 ∧ va + n ≤ 2 ^ 57
    let e := f.maskQ c
    Issues s c none [f.ga, f.gb] [f.ga, f.gb] f.maskQ → c.supervisor = true →
    (¬good → exec (.pginv f) s = .next (s.trap c (groupFault 0x09 1))) ∧
    (good → (∀ fl ∈ c.g.flights, fl.cls ∈ [Drn.ds, .da] → fl.arrived = true) →
      let within := fun (x : TlbEnt) =>
        let base := x.va / 2 ^ x.logSize * 2 ^ x.logSize
        x.ctx = c.b.ctx ∧ base < va + n ∧ va < base + 2 ^ x.logSize
      let t := { s with tlb := s.tlb.filter fun x => !decide (within x), pages := (s.notePages c.b.ctx va n).pages }
      let free := (∀ x ∈ s.tlb, within x → s.forwarded x = true) ∨ s.usersOf c.b.ctx = []
      (free → exec (.pginv f) s = .next (issued (t.settlePages c.b.ctx va n) c e [f.ga, f.gb] f.s)) ∧
      (¬free → exec (.pginv f) s = .next (inFlight t c e [f.ga, f.gb]
        { id := 0, slot := 0, due := none, board := true, fence := some (s.usersOf c.b.ctx), inval := some (va, n) } true)))) ∧
  (∀ (s : State) (c : Ctx) (p : PageRec) (va n : Nat), s.ctx? p.ctx = some c → s.pages = [p] → p.size < 12 →
    p.frame % 2 ^ pageLog p.size = 0 →
    let within := va ≤ p.va ∧ p.va + 2 ^ pageLog p.size ≤ va + n
    (¬within → s.settlePages p.ctx va n = s) ∧
    (within → s.isMapped c p = true → s.settlePages p.ctx va n = s) ∧
    (within → (∀ off < 2 ^ pageLog p.size, ∀ e, s.walk (p.va + off) 5 c.ptroot ≠ .leaf e) →
      s.settlePages p.ctx va n = { s with pages := [], dirtyFrames := s.dirtyFrames ++ [(p.frame, p.size)] })) ∧
  ∀ (s : State) (r : PRef) (refused : Bool) (w : Waiter) (va at' : Nat), s.waiter? r = some w → w.on = .host va at' →
    exec (.hostFaultReply r refused) s = .next
      (let t := (s.vset w.c w.b.die w.b.core at' 8 (if refused then 5 else 4)).waitMet r w.p w.on w.w
       if refused then (t.updBlock r.blk fun b =>
        { b with failed := if b.failed = none then some (0x08, 4) else b.failed }).exitLanes r.blk r.grp allLanes else t)

/-- `accsv` and `accld` in a block without a matrix context are TASK with subcode 7. `accsv` of a region that is reached waits
while a task runs, and then writes the image of R314, of the accumulators as they stand or as the image in the block's record, into
which an unbound bank was saved, holds them (R280); `accld` while a bead is QUEUED or RUNNING is subcode 8, of an image with
a reserved byte or format subcode 9, and otherwise loads the accumulators (R314). -/
def Sys2Proof.Claims.AccumulatorImages : Prop :=
  (∀ (s : State) (c : Cur) (f : V3), Issues s c none [f.ga] [f.ga] f.maskQ → c.b.mtx.present = false →
    ∀ i ∈ [Instr.accsv f, .accld f], exec i s = .next (s.trap c (groupFault 0x19 7))) ∧
  (∀ (s t : State) (c : Cur) (f : V3),
    let a := c.g.gval (opReg f.a)
    let e := f.maskQ c
    Issues s c none [f.ga] [f.ga] f.maskQ → c.b.mtx.present = true → RegionOk s c a 0x20040 .write t →
    ((∃ x ∈ c.b.mtx.beads, x.st = .running) →
      exec (.accsv f) s = .next (t.updPath c.ref fun p => { p with cond := .stalled .noTask })) ∧
    ((∀ x ∈ c.b.mtx.beads, x.st ≠ .running) → ∀ accs u v, (t.bankAccs c.c c.b).1 = some accs →
      t.vwrite c.c c.b.die c.b.core a { c.b.mtx with accs := accs }.image = (some u, v) →
      exec (.accsv f) s = .next (inFlightLater u c e [f.ga] (storeFlight u) f.s))) ∧
  (∀ (s t : State) (c : Cur) (f : V3),
    let a := c.g.gval (opReg f.a)
    let e := f.maskQ c
    Issues s c none [f.ga] [f.ga] f.maskQ → c.b.mtx.present = true → RegionOk s c a 0x20040 .read t →
    ((∃ x ∈ c.b.mtx.beads, x.st = .queued ∨ x.st = .running) → exec (.accld f) s = .next (t.trap c (groupFault 0x19 8))) ∧
    ((∀ x ∈ c.b.mtx.beads, x.st ≠ .queued ∧ x.st ≠ .running) → ∀ ps u bs v,
      t.reach c.c c.b.die c.b.core a 0x20040 .read = (.inr ps, u) → u.readPieces ps = ((bs, false), v) →
      (accsOf c.b.mtx.accs bs = none → exec (.accld f) s = .next (v.trap c (groupFault 0x19 9))) ∧
      ∀ accs, accsOf c.b.mtx.accs bs = some accs →
        exec (.accld f) s = .next (inFlightLater v { c with b := { c.b with mtx := { c.b.mtx with accs := accs, stored := false } } } e [f.ga]
          (laterFlight v .dl []) f.s))) ∧
  (∀ (s : State) (c : Ctx) (b : Block), (b.mtx.stored = false → s.bankAccs c b = (some b.mtx.accs, s)) ∧
    (b.mtx.stored = true → ∀ ps u bs v, s.reach c b.die b.core (c.savebase + 0x90000 * b.recNo + 0x2000) 0x20040 .read = (.inr ps, u) →
      u.readPieces ps = ((bs, false), v) → (s.bankAccs c b).1 = accsOf b.mtx.accs bs)) ∧
  ∀ (m : Mtx) (n i j : Nat), n < 4 → i < 64 → j < 64 →
    leVal ((m.image.drop (0x8000 * n + 8 * (64 * i + j))).take 8) = (m.accs.getD n {}).elems.getD (64 * i + j) 0 % 2 ^ 64
/-- `pgmap`, `pginv`, `accsv` and `accld`.
Where it goes past the words of the spec it rests on the model's choices of log entries 5, 33, 34, 68, 69 and 74. -/
def Obligations.PagesAndImages : Prop :=
  Sys2Proof.Claims.PageInstructions ∧ Sys2Proof.Claims.AccumulatorImages

/-- Three events of a path: a fault that a wait was held with is a trap at the path's next issue (R398); handlers that have run
20,000 ct are guarded no more (R309); a header whose DRAIN classes have reached 0 is done where it names no clasp (R34). -/
def Sys2Proof.Claims.PathEventsPieces : Prop :=
  (∀ (s : State) (r : PRef) (g : Group) (p : Path) (f : Fault2) (w : Words), s.group? r.blk r.grp = some g →
    (if r.slot = 0 then g.slot0 else g.slot1) = some p → p.held = some (f, w) →
    exec (.heldFaultDelivery r) s = .next ((s.updPath r fun p => { p with held := none }).trapAt r f w p.clause p.index)) ∧
  (∀ (s : State) (blk grp : Nat) (g : Group), s.group? blk grp = some g →
    (∃ lvl ∈ g.traps, lvl.guarded = true ∧ lvl.start + 20000 ≤ s.ct) →
    exec (.handlerGuardExpiry blk grp) s = .next (s.updGroup blk grp fun g =>
      { g with traps := g.traps.map fun lvl => { lvl with guarded := lvl.guarded && decide (s.ct < lvl.start + 20000) } })) ∧
  ∀ (s t : State) (r : PRef) (b : Block) (g : Group) (c : Ctx) (p : Path) (hw : W32), s.block? r.blk = some b →
    b.groups[r.grp]? = some g → s.ctx? b.ctx = some c → (if r.slot = 0 then g.slot0 else g.slot1) = some p →
    s.fetch c b g p.clause = (.inr hw, t) → p.cond = .drain →
    (∀ d ∈ drainClasses (Header.ofWord hw).drain, ∀ fl ∈ g.flights, fl.cls = d → fl.arrived = true) →
    (Header.ofWord hw).claspw = 31 →
    exec (.headerDrainEnd r) s = .next (t.updPath r fun p => { p with cond := .ready, hdrDone := true })

/-! ## Lockets -/

namespace Sys2Proof.Claims

/-- Some bead of a block is not DONE. -/
def busy (b : Block) : Prop := ∃ x ∈ b.mtx.beads, x.st ≠ .done
/-- Every other group of the block has left it. -/
def lastOf (b : Block) (gi : Nat) : Prop := ∀ g ∈ b.groups, g.index = gi ∨ g.st = .exited ∨ g.st = .suspended
/-- The HANDLE subcode of a handle that a block means to carry (Table MEM-7). -/
def handleWrong (s : State) (b : Block) (h : Nat) : Option Nat := match s.handle b.die h with
  | .bad => some 6
  | .stale => some 1
  | .buf u => if u.heldBy b then none else some 2
/-- The scopes of the copy requests of a group that have not completed. -/
def openScopes (b : Block) (gi : Nat) : List Nat :=
  ((b.reqs.filter fun r => r.grp = gi ∧ r.st ≠ .done).map (·.scope)).eraseDups
/-- What a suspend waits for: the counts at 0, and every result returned (R289, R290). -/
def drained (g : Group) : Prop := ∀ fl ∈ g.flights, fl.arrived = true
/-- The header of Table LKT-2 in the bytes of a locket that a suspend writes: MAGIC, LVER, LFLAGS, STATE SEALED, GEN, CTXID,
HDIE, KOBJID, PC, LCLS, CCLS, PROM with ROLE, SDREG, AMASK, BODYSZ and SEAL. -/
def HeaderOk (c : Ctx) (b : Block) (g : Group) (p : Path) (w : Words) (cls d : Nat) (hs bs : List Nat) (x : List Byte) : Prop :=
  let f := fieldAt x
  f 0 4 = 0x544B4C56 ∧ f 4 2 = 0x0100 ∧ f 6 2 = (if hs = [] then 0 else 1) + (if bs = [] then 0 else 2) ∧ f 8 4 = 1 ∧
    f 0x0C 4 = (g.lkgen.toNat + 1) % 2 ^ 32 ∧ f 0x10 4 = c.num % 2 ^ 32 ∧ f 0x14 1 = (if hs = [] then 0xFF else b.die % 256) ∧
    f 0x18 8 = b.kobj % 2 ^ 64 ∧ f 0x20 8 = ((p.next w).1 % 2 ^ 57 + (p.next w).2 * 2 ^ 57) % 2 ^ 64 ∧ f 0x28 1 = b.clsL % 256 ∧
    f 0x29 1 = cls % 256 ∧ f 0x2A 1 = ((if b.prom then 1 else 0) + 2 * g.role) % 256 ∧ f 0x2B 1 = d % 256 ∧ f 0x2C 4 = p.mask.toNat ∧
    f 0x30 4 = (x.length - 64) % 2 ^ 32 ∧ (x.drop 0x38).take 8 = sealOf c.sealKey x

/-- A group without registers that it gives up. -/
def givenUp (g : Group) (kills : List Nat) : Group := { g with g := kills.foldl (fun rs n => rs.set n none) g.g }
/-- The place of bit n among the bits of a map that are set. -/
def rankOf (map n : Nat) : Nat := ((List.range n).filter map.testBit).length
/-- A buffer that a locket of a context carries, by its handle on a die (Table LKT-7). -/
def Carried (s : State) (die ctx la h : Nat) (u : Buf) : Prop :=
  s.handle die h = .buf u ∧ u.st = .carried ∧ u.holder = la ∧ u.holderKind = ctx

/-- The effective priority of a resume queue that holds an entry at time ct (R301). -/
def rqLevel (q : ResumeQ) (ct : Nat) : Nat := min 15 (q.prio + if q.age = 0 then 0 else (ct - q.headSince) / q.age)
/-- A queue that is enabled and holds an entry, which the distributor can place or which faults. -/
def rqLive (s : State) (c : Ctx) (i : Nat) : Prop := i < c.rqs.length ∧ s.rqReady c (c.rqs.getD i {}) = true
/-- The queue that the front end serves: of the highest effective priority, the lowest number (R301). -/
def rqServed (s : State) (c : Ctx) (i : Nat) : Prop :=
  rqLive s c i ∧ ∀ j, rqLive s c j → rqLevel (c.rqs.getD j {}) s.ct < rqLevel (c.rqs.getD i {}) s.ct ∨
    (rqLevel (c.rqs.getD j {}) s.ct = rqLevel (c.rqs.getD i {}) s.ct ∧ i ≤ j)

end Sys2Proof.Claims

/-- `suspend` makes its checks in the order of R289, each with its trap, and otherwise stops the group's
other slot and waits. SUSPEND_SEAL, once the group's counts are 0 and at most four scopes of copies are open, writes the whole
locket with the header of Table LKT-2, without the operands that the `suspend` gives up, carries the buffers and ends the group; where
the region cannot be written, or its STATE is CLAIMED (DEST_BUSY), the path takes the fault with every register as it was (R289 to
R291; log 80). -/
def Sys2Proof.Claims.SuspendAndSeal : Prop :=
  (∀ (s : State) (c : Cur) (f : V3),
    let h : Src := { f.gb with n := 4 }
    let srcs := if opReg f.b = 0 then [f.ga] else [f.ga, h]
    let la := c.g.gval (opReg f.a)
    let hs := if opReg f.b = 0 then [] else
      (([0, 1, 2, 3].map fun i => c.g.gval (opReg f.b + i)).filter (· ≠ 0)).eraseDups
    let bound := fun (k : Nat) => .next (s.trap c { cause := 0x15, sub := k, faddr := la })
    let views := ∃ v ∈ c.g.t, viewGen v ≠ 0
    Issues s c none (srcs ++ [gfld f.d]) srcs f.maskQ →
    (la % 128 ≠ 0 → exec (.suspend f) s = .next (s.trap c (groupFault 0x0A 0))) ∧
    (la % 128 = 0 → 2 ^ 57 ≤ la → exec (.suspend f) s = .next (s.trap c (groupFault 0x09 1))) ∧
    (la % 128 = 0 → la < 2 ^ 57 →
      (c.g.traps ≠ [] → exec (.suspend f) s = bound 4) ∧
      (c.g.traps = [] → c.b.clasps ≠ [] → exec (.suspend f) s = bound 1) ∧
      (c.g.traps = [] → c.b.clasps = [] →
        (views → (busy c.b ∨ ∃ a ∈ c.b.mtx.accs, a.dirty = true) → exec (.suspend f) s = bound 2) ∧
        (¬(views ∧ (busy c.b ∨ ∃ a ∈ c.b.mtx.accs, a.dirty = true)) →
          (lastOf c.b c.ref.grp → busy c.b → exec (.suspend f) s = bound 3) ∧
          (¬(lastOf c.b c.ref.grp ∧ busy c.b) →
            (∀ x k, hs.find? (fun h => (handleWrong s c.b h).isSome) = some x → handleWrong s c.b x = some k →
              exec (.suspend f) s = .next (s.trap c { cause := 0x18, sub := k, faddr := x })) ∧
            ((∀ x ∈ hs, handleWrong s c.b x = none) →
              exec (.suspend f) s = .next (withGroup s (sidedCur c) (withPath c c.g
                (some { c.p with
                  cond := .suspending f.d.toNat la hs
                    ((srcs.filter (·.l)).flatMap fun x => (List.range x.n).map (x.num + ·)) c.w }))))))))) ∧
  ∀ (s t u : State) (r : PRef) (b : Block) (c : Ctx) (g : Group) (p : Path) (d la : Nat) (hs kills : List Nat) (w : Words),
    let x := s.locketOf c b (givenUp g kills) r p d hs w
    s.block? r.blk = some b → s.ctx? b.ctx = some c → b.groups[r.grp]? = some g →
    (if r.slot = 0 then g.slot0 else g.slot1) = some p → p.cond = .suspending d la hs kills w → drained g →
    (openScopes b g.index).length ≤ 4 →
    HeaderOk c b g p w (s.curClass b) d hs (openScopes b g.index) x ∧
    (∀ at' m, s.spanMiss c b.die b.core la x.length .write = (some (at', m), t) → exec (.suspendSeal r) s = .next (t.trapAt r
      { cause := m.cause, sub := m.sub, lane := true, fmask := p.mask, exta := true, faddr := at',
        ext := (List.range 32).map fun l => if p.mask.getLsbD l then at' else 0 } w p.clause p.index)) ∧
    (s.spanMiss c b.die b.core la x.length .write = (none, t) → t.spanMiss c b.die b.core (la + 8) 4 .both = (none, u) →
      (u.vword c b.die b.core (la + 8) 4 = 2 →
        exec (.suspendSeal r) s = .next (u.trapAt r { cause := 0x15, sub := 5, faddr := la } w p.clause p.index)) ∧
      ∀ v v', u.vword c b.die b.core (la + 8) 4 ≠ 2 → u.vwrite c b.die b.core la x = (some v, v') →
        exec (.suspendSeal r) s = .next (((v.carry b.die c.num la hs
          ((b.reqs.filter fun q => q.grp = g.index ∧ q.st ≠ .done).map (·.id))).groupEnded r.blk r.grp).updGroup r.blk r.grp fun g =>
          { g with st := .suspended, v := List.replicate 64 none, g := List.replicate 64 none, slot0 := none, slot1 := none,
                   stack := [], toks := List.replicate 16 {}, flights := [], fences := [], slotNo := none, cancel := none }))

/-- What the locket instructions do with the outcome of their checks. `resume` of a locket that it claims raises the launch
record's COUNT and gives the distributors an item of one block with the locket's class, die and bytes; its faults leave the
locket as it was (R292, R294), and in a cancelled level nothing is placed (R15). `lkcopy` writes the source's bytes with GEN + 1, STATE SEALED and a fresh seal, and returns the
GEN (R296). `lkdrop` sets STATE DISCARDED and frees the carried buffers (R297). `rqpush` stores the address at the queue's tail
and advances it; a queue that is off or full is refused (R300). -/
def Sys2Proof.Claims.LocketInstructionsPieces : Prop :=
  (∀ (s t : State) (c : Cur) (f : V3) (la : Nat),
    let e := f.maskQ c
    Issues s c none [f.ga] [f.ga] f.maskQ → c.g.gval (opReg f.a) = la →
    (∀ ft, s.claimLocket c.c c.b.die c.b.core e la = (.inl ft, t) →
      exec (.resume f) s = .next (t.killTrap c e [f.ga] ft)) ∧
    ∀ bs k, s.claimLocket c.c c.b.die c.b.core e la = (.inr (bs, k), t) →
      let u := if c.b.lrec = 0 then t else t.recAdd c.c c.b.lrec 1
      let i : Item :=
        { id := u.uid, dist := u.uid, ctx := c.c.num, kobj := k.kobj, arg := 0, lrec := c.b.lrec, lvl := c.b.lvl, jrec := 0,
          origin := .locket, nblk := 1, next := 0, stop := 1, clsL := fieldAt bs 0x28 1, prom := fieldAt bs 0x2A 1 % 2 == 1,
          prio := c.b.prio, hqEn := (u.hqConfig c.b).1, hqCls := (u.hqConfig c.b).2, launchNo := c.b.hqLaunch, ready := u.ct,
          level := 0, lanes := allLanes, locket := some (la, bs),
          hdie := if fieldAt bs 0x14 1 = 0xFF then none else some (fieldAt bs 0x14 1), spawnCore := none }
      let v := { u with uid := u.uid + 1, items := u.items ++ [i] }
      (t.anyCancelled c.c c.b.lvl = false →
        exec (.resume f) s = .next (inFlightLater v (sidedCur c) e [f.ga] (laterFlight v .de []) f.s)) ∧
      (t.anyCancelled c.c c.b.lvl = true →
        exec (.resume f) s = .next (inFlightLater t (sidedCur c) e [f.ga] (laterFlight t .de []) f.s))) ∧
  (∀ (s t : State) (c : Cur) (f : V3),
    let e := f.maskQ c
    let la := c.g.gval (opReg f.a)
    let lb := c.g.gval (opReg f.b)
    Issues s c none [f.ga, f.gb, gfld f.d] [f.ga, f.gb] f.maskQ →
    (∀ ft, s.lkSource c.c c.b.die c.b.core e la = (.inl ft, t) → exec (.lkcopy f) s = .next (t.trap c ft)) ∧
    ∀ bs, s.lkSource c.c c.b.die c.b.core e la = (.inr bs, t) →
      (∀ ft u, t.lkDest c.c c.b.die c.b.core e la lb bs = (some ft, u) → exec (.lkcopy f) s = .next (u.trap c ft)) ∧
      ∀ u v v', t.lkDest c.c c.b.die c.b.core e la lb bs = (none, u) → Room u c e [f.ga, f.gb] 0 (needG true f.d) →
        let gen := (fieldAt bs 0x0C 4 + 1) % 2 ^ 32
        let x := bs.take 0x0C ++ leBytes 4 gen ++ bs.drop 0x10
        let y := x.take 0x38 ++ sealOf c.c.sealKey x ++ x.drop 0x40
        u.vwrite c.c c.b.die c.b.core lb y = (some v, v') →
        exec (.lkcopy f) s = .next (inFlightLater v c e [f.ga, f.gb]
          (laterFlight v .dl (groupWr f.d.toNat (BitVec.ofNat 64 gen))) f.s)) ∧
  (∀ (s t : State) (c : Cur) (f : V3),
    let e := f.maskQ c
    let la := c.g.gval (opReg f.a)
    Issues s c none [f.ga] [f.ga] f.maskQ →
    (∀ ft, s.lkSource c.c c.b.die c.b.core e la = (.inl ft, t) → exec (.lkdrop f) s = .next (t.trap c ft)) ∧
    ∀ bs u, s.lkSource c.c c.b.die c.b.core e la = (.inr bs, t) → t.spanMiss c.c c.b.die c.b.core (la + 8) 4 .both = (none, u) →
      let v := (lkHandles bs).foldl (fun s h => match s.handle (fieldAt bs 0x14 1) h with
        | .buf x => if x.st = .carried ∧ x.holder = la ∧ x.holderKind = c.b.ctx then s.freeBuf x else s
        | _ => s) (u.vset c.c c.b.die c.b.core (la + 8) 4 4)
      ∃ b : Block, v.block? c.ref.blk = some b ∧
        exec (.lkdrop f) s = .next (inFlightLater v (sidedCur { c with b := b }) e [f.ga] (laterFlight v .da []) f.s)) ∧
  (∀ (s : State) (x : Buf), (s.freeBuf x).bufs = s.bufs.map fun y => if y.die = x.die ∧ y.slice = x.slice ∧ y.index = x.index then
      { x with st := .free, gen := if x.gen = 65535 then 1 else x.gen + 1, bytes := [], valid := [], size := 0, writers := [] }
    else y) ∧
  ∀ (s t : State) (c : Cur) (f : V3),
    let e := f.maskQ c
    let la := c.g.gval (opReg f.a)
    let k := f.b.toNat / 8
    let q := c.c.rqs.getD k {}
    let bad := fun (n : Nat) => .next (s.trap c { cause := 0x14, sub := n, faddr := la })
    Issues s c none [f.ga] [f.ga] f.maskQ →
    (la % 128 ≠ 0 → exec (.rqpush f) s = .next (s.trap c (groupFault 0x0A 0))) ∧
    (la % 128 = 0 → q.en = false → exec (.rqpush f) s = bad 0x0B) ∧
    (la % 128 = 0 → q.en = true → 2 ^ q.logCap ≤ q.tail - q.head → exec (.rqpush f) s = bad 0x0C) ∧
    (la % 128 = 0 → q.en = true → q.tail - q.head < 2 ^ q.logCap →
      let a := q.base + 8 * (q.tail % 2 ^ q.logCap)
      s.spanMiss c.c c.b.die c.b.core a 8 .write = (none, t) →
      let u := (t.vset c.c c.b.die c.b.core a 8 la).updCtx c.c.num fun x =>
        { x with rqs := x.rqs.set k { q with
            tail := q.tail + 1, headSince := if q.tail = q.head then s.ct else q.headSince, pushed := q.pushed ++ [s.ct] } }
      exec (.rqpush f) s = .next (inFlightLater u (sidedCur c) e [f.ga] (laterFlight u .dq []) f.s))

/-- How a locket is claimed (R292): the checks of the header in the order MISALIGNED, MAGIC, LVER, CTXID; a STATE of 2, 3 or 4
is DOUBLE_RESUME with it, another than 1 LOCKET_INVALID STATE; then STATE is CLAIMED, the whole locket is read and checked, and a
locket that a check of SEAL, KERNEL, CLASS, BODY or HANDLES refuses is SEALED again. -/
def Sys2Proof.Claims.LocketClaim : Prop :=
  ∀ (s t : State) (c : Ctx) (die core la : Nat) (e : Mask),
    let bad := fun (k : Nat) => ({ cause := 0x14, sub := k, faddr := la } : Fault2)
    (la % 128 ≠ 0 → s.claimLocket c die core e la = (.inl (groupFault 0x0A 0), s)) ∧
    ∀ h, la % 128 = 0 → s.lkRead c die core e la 64 = (.inr h, t) →
      let st := fieldAt h 8 4
      (fieldAt h 0 4 ≠ 0x544B4C56 → s.claimLocket c die core e la = (.inl (bad 1), t)) ∧
      (fieldAt h 0 4 = 0x544B4C56 → fieldAt h 4 2 ≠ 0x0100 → s.claimLocket c die core e la = (.inl (bad 2), t)) ∧
      (fieldAt h 0 4 = 0x544B4C56 → fieldAt h 4 2 = 0x0100 → fieldAt h 0x10 4 ≠ c.num →
        s.claimLocket c die core e la = (.inl (bad 3), t)) ∧
      (fieldAt h 0 4 = 0x544B4C56 → fieldAt h 4 2 = 0x0100 → fieldAt h 0x10 4 = c.num →
        (2 ≤ st → st ≤ 4 → s.claimLocket c die core e la = (.inl { cause := 0x13, sub := st, faddr := la }, t)) ∧
        (st = 0 ∨ 4 < st → s.claimLocket c die core e la = (.inl (bad 6), t)) ∧
        ∀ u v bs, st = 1 → t.spanMiss c die core (la + 8) 4 .both = (none, u) →
          (u.vset c die core (la + 8) 4 2).lkRead c die core e la (64 + fieldAt h 0x30 4) = (.inr bs, v) →
          (∀ k, v.lkCheck c la bs = .inl k → s.claimLocket c die core e la = (.inl (bad k), v.vset c die core (la + 8) 4 1)) ∧
          (∀ k, v.lkCheck c la bs = .inr k → s.claimLocket c die core e la = (.inr (bs, k), v) ∧
            (bs.drop 0x38).take 8 = sealOf c.sealKey bs ∧ k ∈ s.kernels ∧ k.kobj = fieldAt bs 0x18 8 ∧ k.ctx = c.num ∧
            k.st ≠ .retired ∧ fieldAt bs 0x28 1 ≤ min 2 c.ceil ∧ fieldAt bs 0x29 1 ≤ min 2 c.ceil ∧
            fieldAt bs 0x30 4 = (lkAt bs).size ∧ fieldAt bs 0x2C 4 ≠ 0))
/-- `resume`, `lkcopy`, `lkdrop`, `rqpush`, and the claim of a locket.
Where it goes past the words of the spec it rests on the model's choices of log entries 35, 66, 76 and 83. -/
def Obligations.LocketInstructions : Prop :=
  Sys2Proof.Claims.LocketInstructionsPieces ∧ Sys2Proof.Claims.LocketClaim

/-- LOCKET_PLACEMENT puts a block of one group on a core that admits it (R293): the class and the die of the locket, no clasps,
timelines at 0; the group has the locket's role, generation, registers, predicates, edge masks, exited lanes, views and SEQ, its
path at PC with AMASK in slot 0, and its fences; the register that SDREG names is the GEN; its stack entries go to its save slot (R90),
the block holds the buffers that the locket carried, and STATE is CONSUMED. -/
def Sys2Proof.Claims.LocketPlacement : Prop :=
  ∀ (s : State) (item : Nat) (core : CoreId) (i : Item) (la : Nat) (bs : List Byte) (c : Ctx) (k : Kernel) (bslot recNo slot : Nat),
    s.items.find? (·.id = item) = some i → i.locket = some (la, bs) → (core.die, core.core) ∈ s.coresFor i →
    s.ctx? i.ctx = some c → s.kernel? i.kobj = some k → s.freeBslot core.die core.core = some bslot → s.freeRecord c = some recNo →
    nextSlot (s.slotsUsed core.die core.core) = some slot →
    ∃ (u : State) (b : Block) (g : Group), exec (.locketPlacement item core) s = .next (u.vset c core.die core.core (la + 8) 4 3) ∧
      (∀ t : State, s.vwriteAll c core.die core.core
          ((if 1 ∈ k.roles then [(c.savebase + 0x90000 * recNo + 0x1000, List.replicate 4096 0)] else []) ++
            if g.stack = [] then [] else [(c.savebase + 0x90000 * recNo + 0x23500,
              (g.stack.map fun x => pathBytes x.clause x.index x.mask).flatten)]) = some t →
        u.mem = t.mem ∧ u.ctxs = s.ctxs) ∧
      (∀ h ∈ lkHandles bs, ∀ x, Carried s core.die c.num la h x →
        { x with st := .held, holder := b.id, holderKind := 0 } ∈ u.bufs) ∧
      u.blocks = s.blocks ++ [b] ∧ (lkHandles bs = [] → u.bufs = s.bufs) ∧
      b.id = s.uid ∧ b.ctx = i.ctx ∧ b.kobj = i.kobj ∧ b.die = core.die ∧ b.core = core.core ∧ b.bslot = bslot ∧ b.recNo = recNo ∧
      b.clsL = i.clsL ∧ b.clasps = [] ∧ b.userTl = 0 ∧ b.copyTl = 0 ∧ b.mtxTl = 0 ∧ b.scratchLeft = k.scratch ∧
      b.implied = (if lkFences bs = [] then 0 else max i.clsL (fieldAt bs 0x29 1)) ∧ b.groups = [g] ∧
      g.st = .resident ∧ g.slotNo = some slot ∧ g.role = fieldAt bs 0x2A 1 / 2 % 4 ∧ g.lkgen = BitVec.ofNat 32 (fieldAt bs 0x0C 4) ∧
      g.slot0 = some { clause := fieldAt bs 0x20 8 % 2 ^ 57, index := fieldAt bs 0x20 8 / 2 ^ 57 % 16,
                       mask := BitVec.ofNat 32 (fieldAt bs 0x2C 4) } ∧
      g.exited = BitVec.ofNat 32 (fieldAt bs 0x84 4) ∧ g.fences = lkFences bs ∧ g.fflags = 0 ∧ g.b8fmt = 0x0404 ∧
      (∀ n, n < 7 → g.p[n]? = some (BitVec.ofNat 32 (fieldAt bs (0x60 + 4 * n) 4)) ∧
        g.q[n]? = some ((fieldAt bs 0x7C 1).testBit n)) ∧
      (∀ n, n < 8 → g.e[n]? = some (BitVec.ofNat 64 (fieldAt bs (0x90 + 8 * n) 8))) ∧
      (∀ l, l < 32 → g.seq[l]? = some (BitVec.ofNat 32 (fieldAt bs (0xD0 + 4 * l) 4))) ∧
      (∀ n, n < 64 → n ≠ fieldAt bs 0x2B 1 → (fieldAt bs 0x58 8).testBit n = false → g.gval? n = none ∨ n = 0) ∧
      (0 < fieldAt bs 0x2B 1 → fieldAt bs 0x2B 1 < 64 → g.gval? (fieldAt bs 0x2B 1) = some (fieldAt bs 0x0C 4)) ∧
      (∀ n, 0 < n → n < 64 → n ≠ fieldAt bs 0x2B 1 → (fieldAt bs 0x58 8).testBit n = true →
        g.gval? n = some (fieldAt bs ((lkAt bs).gregs + 8 * rankOf (fieldAt bs 0x58 8) n) 8)) ∧
      (∀ n l, n < 64 → (fieldAt bs 0x50 8).testBit n = false → g.lane? n l = none) ∧
      (∀ n l, n < 64 → l < 32 → (fieldAt bs 0x50 8).testBit n = true →
        let i := rankOf (fieldAt bs 0x50 8) n
        let dead := (fieldAt bs ((lkAt bs).vdead + 4 * i) 4).testBit l || (fieldAt bs 0x84 4).testBit l
        g.lane? n l = if dead then none else some (fieldAt bs ((lkAt bs).vregs + 128 * i + 4 * l) 4)) ∧
      (∀ n, n < 16 → g.t[n]? = some (if (fieldAt bs 0x82 2).testBit n then
        BitVec.ofNat 128 (fieldAt bs ((lkAt bs).views + 16 * rankOf (fieldAt bs 0x82 2) n) 16) else 0))

/-- RESUME_QUEUE_SERVICE takes the head entry of the queue that R301 names, of those that can be served. A queue whose LREC is DONE or not 64-aligned, and an
entry that the claim refuses, drops the entry, advances ERRCNT and is logged; another becomes an item of the queue's LREC and
priority (R301). FENCE_WAIT_END takes a fence that is met off its group; the last one ends the implied class, and each
covered request that failed is then COPY_FAILED (R295). -/
def Sys2Proof.Claims.LocketServices : Prop :=
  (∀ (s : State) (n i : Nat) (c : Ctx), s.ctx? n = some c → c.num = n → rqServed s c i →
    let q := c.rqs.getD i {}
    let la := s.vword c 0 0 (q.base + 8 * (q.head % 2 ^ q.logCap)) 8
    let q' : ResumeQ := { q with head := q.head + 1, headSince := s.ct, pushed := q.pushed.drop 1 }
    let put := fun (q : ResumeQ) (s : State) => s.updCtx n fun c => { c with rqs := c.rqs.set i q }
    let fails := fun (s : State) (f : Fault2) =>
      ((put { q' with errCnt := min 65535 (q'.errCnt + 1) } s).stageCtx n).logEvent 1 n f.cause f.sub la 0
    (q.lrec % 64 ≠ 0 ∨ s.recHas c q.lrec 2 = true →
      exec (.resumeQueueService n) s = .next (fails s { cause := 0x14, sub := 0x0E, faddr := la })) ∧
    (q.lrec % 64 = 0 → s.recHas c q.lrec 2 = false →
      (∀ f u, s.claimLocket c 0 0 allLanes la = (.inl f, u) → exec (.resumeQueueService n) s = .next (fails u f)) ∧
      ∀ bs k u, s.claimLocket c 0 0 allLanes la = (.inr (bs, k), u) →
        let lvl := u.levels c 8 q.lrec
        let v := put q' u
        let i := lkItem c la bs k q.lrec lvl q.prio u.uid (0, 0) (if q.bound = 0 then none else some (q.pushed.headD q.headSince + q.bound))
        (v.anyCancelled c lvl = true → exec (.resumeQueueService n) s = .next v) ∧
        (v.anyCancelled c lvl = false →
          exec (.resumeQueueService n) s = .next ((if q.lrec = 0 then v else v.recAdd c q.lrec 1).addItem i)))) ∧
  (∀ (s : State) (n : Nat) (f : Nat × Nat × Nat) (x : Block), s.named n f.1 = some x →
    (x.copyTl < f.2.1 → s.fenceMet n f = none) ∧
    (f.2.1 ≤ x.copyTl → x.failv = [] → s.fenceMet n f = some (none, s)) ∧
    ∀ y ys, f.2.1 ≤ x.copyTl → x.failv = y :: ys →
      s.fenceMet n f = if y.1 ≤ f.2.1 then some (some y, s.updBlock x.id fun b => { b with failv := ys }) else some (none, s)) ∧
  ∀ (s t : State) (blk i : Nat) (b : Block) (g : Group) (bad : Option (Nat × Nat × Nat)), s.block? blk = some b →
    s.fenceDue b = some (g, i) → s.fenceMet b.ctx (g.fences.getD i (0, 0, 0)) = some (bad, t) →
    let g' := { g with fences := g.fences.eraseIdx i, fenceFail := g.fenceFail ++ bad.toList }
    let u := t.setGroup blk g.index g'
    (g'.fences ≠ [] → exec (.fenceWaitEnd blk) s = .next u) ∧
    (g'.fences = [] → exec (.fenceWaitEnd blk) s =
      .next (u.updBlock blk fun b => { b with implied := 0, resRes := b.resRes || u.keepsRes b })) ∧
    ∀ y ys p, g'.fences = [] → g.traps = [] → g'.fenceFail = y :: ys → g'.slot0 = some p → u.fenceReport b g' =
      some ((u.updGroup b.id g.index fun g => { g with fenceFail := ys }).trapAt { blk := b.id, grp := g.index, slot := 0 }
        (copyFailed y) {} p.clause p.index)
/-- `suspend` and its seal, and the placement and services of lockets.
Where it goes past the words of the spec it rests on the model's choices of log entries 35, 52, 64, 66 and 80. -/
def Obligations.SuspendAndServe : Prop :=
  Sys2Proof.Claims.SuspendAndSeal ∧ Sys2Proof.Claims.LocketPlacement ∧ Sys2Proof.Claims.LocketServices

/-! ## Commands -/

namespace Sys2Proof.Claims

/-- Table PLT-10: the OPC, the command, whether it is marked "owner", and how many arguments it uses. -/
def commandTable : List (Nat × (Cmd → Instr) × Bool × Nat) :=
  [(0x00, .nopCommand, false, 0), (0x01, .load, true, 3), (0x02, .unload, true, 2), (0x10, .ctxCreate, true, 2),
   (0x11, .ctxUpdate, true, 2), (0x12, .ctxDestroy, true, 1), (0x20, .keyLoad, true, 3), (0x21, .keyClear, true, 1),
   (0x30, .tenantSet, true, 4), (0x31, .tenantClear, true, 1), (0x40, .qCreate, true, 3), (0x41, .qReset, true, 2),
   (0x42, .qDestroy, true, 1), (0x50, .winReg, true, 3), (0x60, .fuseRaise, true, 2), (0x61, .handover, true, 2),
   (0x62, .attest, false, 2), (0x63, .powerCap, true, 1), (0x64, .reset, true, 0)]
/-- A command of the owner that the refusals of R389 let through, but for its arguments' ranges: the package is READY, reserved
fields and unused arguments are 0. -/
abbrev Served (s : State) (c : Cmd) (used : Nat) : Prop :=
  s.bootstat = 1 ∧ s.owner = some c.master ∧ c.resv = 0 ∧ ∀ a ∈ c.args.drop used, a = 0
/-- No command for the context that a command names waits behind a CTX_DESTROY which a switch holds. -/
abbrev InTurn (s : State) (c : Cmd) : Prop := ∀ x ∈ s.heldCmds, ctxNamed x ≠ ctxNamed c
/-- A context that commands reach: not FREE, FAULTED or DESTROYING. -/
abbrev Usable (s : State) (n : Nat) (x : Ctx) : Prop := s.ctx? n = some x ∧ x.st ≠ .faulted ∧ x.st ≠ .free ∧ x.st ≠ .destroying
/-- The digest of an object, with its DIGEST bytes taken as zero (R124). -/
def digestOf (o : List Byte) : List Byte := sha256 (o.take 32 ++ List.replicate 32 0 ++ o.drop 64)
/-- A command is answered with a status and a result, after a change of the state. -/
def answers (s : State) (c : Cmd) (status result : Nat) : Out := .next (s.answer c status result)

end Sys2Proof.Claims

/-- The response of a command is one entry of Table PLT-9 in the master's ring, with PHASE by the lap. Of a READY package, a
command marked "owner" of another master is NOT_OWNER, and one with a nonzero reserved field or unused argument is ARG; NOP
answers 0 (R388, R389). The commands are those of Table PLT-10. -/
def Sys2Proof.Claims.CommandsAndResponsesPieces : Prop :=
  (∀ (s : State) (c : Cmd) (status result : Nat),
    let m := s.master c.master
    let n := 2 ^ m.logN
    let entry := leBytes 4 c.tag.toNat ++ leBytes 2 status ++ leBytes 1 (1 - m.written / n % 2) ++ leBytes 1 0 ++ leBytes 8 result
    s.answer c status result =
      ((s.busWrite (m.rqbase + 16 * (m.written % n)) entry).getD s).setMaster { m with written := m.written + 1, owed := m.owed - 1 }) ∧
  (∀ x ∈ commandTable, ∀ (s : State) (c : Cmd), s.bootstat = 1 →
    (c.opc = x.1 → c.instr = some (x.2.1 c)) ∧
    (x.2.2.1 = true → s.owner ≠ some c.master → exec (x.2.1 c) s = answers s c 0x20 0) ∧
    ((x.2.2.1 = true → s.owner = some c.master) → (c.resv ≠ 0 ∨ ∃ a ∈ c.args.drop x.2.2.2, a ≠ 0) →
      exec (x.2.1 c) s = answers s c 0x31 0)) ∧
  (∀ c : Cmd, (∀ x ∈ commandTable, c.opc ≠ x.1) → c.instr = none) ∧
  ∀ (s : State) (c : Cmd), s.bootstat = 1 → c.resv = 0 → (∀ a ∈ c.args, a = 0) → exec (.nopCommand c) s = answers s c 0 0

/-- LOAD reads the object in the context and refuses it with the first failing check: FORMAT, DIGEST, then those of its kernels;
otherwise its kernels are LOADED under the next numbers, with the fields of their headers. UNLOAD makes a kernel RETIRING, and
RETIRED where no block of it is live (R123, R128, R129). -/
def Sys2Proof.Claims.KernelCommands : Prop :=
  (∀ (s t : State) (c : Cmd) (x : Ctx) (o : List Byte), Served s c 3 → InTurn s c → c.arg 0 < 4096 → Usable s (c.arg 0) x →
    (s.vread x 0 0 (c.arg 1) (c.arg 2) = (none, t) → exec (.load c) s = answers t c 1 0) ∧
    (s.vread x 0 0 (c.arg 1) (c.arg 2) = (some o, t) →
      (o.length < 64 ∨ fieldAt o 0 4 ≠ 0x4D555753 ∨ fieldAt o 4 4 ≠ 0x00010000 → exec (.load c) s = answers t c 1 0) ∧
      (formatBad o = false → digestOf o ≠ (o.drop 32).take 32 →
        exec (.load c) s = answers t c 2 0) ∧
      (formatBad o = false → digestOf o = (o.drop 32).take 32 →
        (fieldAt o 8 2 ≠ t.pkg.code → exec (.load c) s = answers t c 3 0) ∧
        (∀ code, t.loadAll c x o (sections o) 0 (fieldAt o 0x0C 2) = .inr code → exec (.load c) s = answers t c code 0) ∧
        ∀ u, t.loadAll c x o (sections o) 0 (fieldAt o 0x0C 2) = .inl u → exec (.load c) s = answers u c 0 t.nextKobj))) ∧
  (∀ (s t : State) (x : Ctx) (o : List Byte) (ss : List Section) (i : Nat), s.loadKernel x o ss i = some t →
    let h := hdrOf o ss i
    t.nextKobj = s.nextKobj + 1 ∧ ∃ k : Kernel, t.kernels = s.kernels ++ [k] ∧ k.kobj = s.nextKobj ∧ k.ctx = x.num ∧ k.st = .loaded ∧
      k.live = 0 ∧ k.cls = fieldAt h 0x0A 1 ∧ k.ngroups = fieldAt h 0x0C 1 ∧ k.vregs = fieldAt h 0x0D 1 ∧
      k.gregs = fieldAt h 0x0E 1 ∧ k.vmax = fieldAt h 0x10 2 ∧ k.gmax = fieldAt h 0x12 2 ∧ k.vfloor = fieldAt h 0x14 2 ∧
      k.gfloor = fieldAt h 0x16 2 ∧ k.scratch = fieldAt h 0x18 4 ∧ k.clasps = fieldAt h 0x1C 2 ∧ k.entry = fieldAt h 0x28 4 ∧
      k.textSize = fieldAt h 0x2C 4 ∧ ∀ n, n < 64 → k.handlers[n]? = some (fieldAt h (0x50 + 4 * n) 4)) ∧
  ∀ (s : State) (c : Cmd) (x : Ctx), Served s c 2 → InTurn s c → c.arg 0 < 4096 → Usable s (c.arg 0) x →
    ((∀ k ∈ s.kernels, k.kobj = c.arg 1 → k.ctx ≠ x.num) → exec (.unload c) s = answers s c 0x18 0) ∧
    ∀ k, (s.kernels.find? fun k => k.kobj = c.arg 1 ∧ k.ctx = x.num) = some k →
      (k.st = .retired → exec (.unload c) s = answers s c 0x18 0) ∧
      (k.st = .retiring → exec (.unload c) s = answers s c 0x10 0) ∧
      (k.st = .loaded ∨ k.st = .active →
        exec (.unload c) s = answers (s.setKernel { k with st := .retiring }).retireIdle c 0 0)

/-- CTX_CREATE of a record that R343 accepts makes a READY context of its fields with a fresh seal key; CTX_UPDATE replaces the
driver's fields but CTXID and SAVEBASE, and closes the records of resume queues that it turns off; a record that fails a check is refused with its status, and one that host memory does not
give with HOST_FAULT. CTX_DESTROY of a switching context waits, and what comes for the context after it; otherwise the context, its blocks, its windows, translations and
keys are gone, its kernels RETIRED and its queues DESTROYED (R341 to R346, R349). -/
def Sys2Proof.Claims.ContextCommands : Prop :=
  (∀ (s : State) (c : Cmd), Served s c 2 → InTurn s c → c.arg 0 < 4096 →
    (s.ctx? (c.arg 0) ≠ none → exec (.ctxCreate c) s = answers s c 0x10 0) ∧
    (s.ctx? (c.arg 0) = none →
      (s.busRead (c.arg 1) 1024 = none → exec (.ctxCreate c) s = answers s c 0x32 0) ∧
      ∀ bs, s.busRead (c.arg 1) 1024 = some bs →
        (∀ st, s.recordBad (c.arg 0) bs = some st → exec (.ctxCreate c) s = answers s c st 0) ∧
        (s.recordBad (c.arg 0) bs = none →
          let x := ctxOf bs (c.arg 1) (Config.sealKey s.free)
          exec (.ctxCreate c) s =
            answers (({ s with ctxs := s.ctxs ++ [x], free := s.free + 1 } : State).stageCtx (c.arg 0)) c 0 0 ∧
          x.st = .ready ∧ x.num = c.arg 0 ∧ x.ptroot % 4096 = 0 ∧ x.savebase % 65536 = 0 ∧ x.ceil ≤ 2 ∧
          (∃ y ∈ s.tenants, y.num = x.tenant) ∧ ∀ k ∈ x.keys, k = 0 ∨ ∃ y ∈ s.keySlots, y.1 = k ∧ y.2.1 = c.arg 0))) ∧
  (∀ (s : State) (c : Cmd) (x : Ctx), Served s c 2 → InTurn s c → c.arg 0 < 4096 → Usable s (c.arg 0) x →
    (x.st ∉ [.running, .ready, .suspended] → exec (.ctxUpdate c) s = answers s c 0x10 0) ∧
    (x.st ∈ [.running, .ready, .suspended] → ∀ bs, s.busRead (c.arg 1) 1024 = some bs →
      (∀ st, s.recordBad (c.arg 0) bs = some st → exec (.ctxUpdate c) s = answers s c st 0) ∧
      (s.recordBad (c.arg 0) bs = none →
        let n := ctxOf bs (c.arg 1) x.sealKey
        let y := { x with ptroot := n.ptroot, tidbase := n.tidbase, saveblks := n.saveblks, tenant := n.tenant, ceil := n.ceil,
                          keys := n.keys, rqs := x.rqs.zipWith ResumeQ.updated n.rqs, ftws := n.ftws, staging := n.staging }
        let off := (x.rqs.zip n.rqs).filterMap fun p =>
          if p.1.en = true ∧ p.2.en = false ∧ p.1.lrec ≠ 0 then some p.1.lrec else none
        exec (.ctxUpdate c) s = answers (((s.setCtx y).stageCtx x.num).closeRecs y off) c 0 0 ∧
        ∀ old new : ResumeQ, (old.en = false → new.en = true → (old.updated new).head = new.head ∧ (old.updated new).tail = new.tail) ∧
          (old.en = true ∨ new.en = false → (old.updated new).head = old.head ∧ (old.updated new).tail = old.tail)))) ∧
  (∀ (s : State) (c d : Cmd), Served s c 1 → c.arg 0 < 4096 → d ∈ s.heldCmds → ctxNamed d = ctxNamed c →
    exec (.ctxDestroy c) s = .next { s with heldCmds := s.heldCmds ++ [c] }) ∧
  ∀ (s : State) (c : Cmd), Served s c 1 → InTurn s c → c.arg 0 < 4096 →
    (s.ctx? (c.arg 0) = none → exec (.ctxDestroy c) s = answers s c 0x10 0) ∧
    ∀ x, s.ctx? (c.arg 0) = some x →
      (x.st = .switching → exec (.ctxDestroy c) s = .next { s with heldCmds := s.heldCmds ++ [c] }) ∧
      (x.st ≠ .switching → ∃ t : State, exec (.ctxDestroy c) s = answers t c 0 0 ∧ t.ctx? x.num = none ∧ (∀ b ∈ t.blocks, b.ctx ≠ x.num) ∧
        (∀ k ∈ t.kernels, k.ctx = x.num → k.st = .retired) ∧ (∀ q ∈ t.uqs, q.ctx = x.num → q.st = .destroyed) ∧
        (∀ k ∈ t.keySlots, k.2.1 ≠ x.num) ∧ (∀ w ∈ t.wins, w.ctx ≠ x.num) ∧ ∀ e ∈ t.tlb, e.ctx ≠ x.num)
/-- LOAD, UNLOAD and the commands on contexts.
Where it goes past the words of the spec it rests on the model's choices of log entries 46, 47, 65, 72, 73 and 89. -/
def Obligations.KernelAndContextCommands : Prop :=
  Sys2Proof.Claims.KernelCommands ∧ Sys2Proof.Claims.ContextCommands

/-- KEY_LOAD puts the blob's key in the slot for its context, KEY_CLEAR empties a slot; a slot of another context, or a FAULTED
context, is refused with its status, a blob that does not unwrap with another (R347, R384). TENANT_SET sets a tenant's budgets, TENANT_CLEAR removes a
tenant that no context names (R348). -/
def Sys2Proof.Claims.KeyAndTenantCommands : Prop :=
  (∀ (s : State) (c : Cmd), Served s c 3 → InTurn s c → 1 ≤ c.arg 0 → c.arg 0 ≤ 1023 → c.arg 1 < 4096 →
    (∀ x, s.ctx? (c.arg 1) = some x → x.st = .faulted → exec (.keyLoad c) s = answers s c 0x10 0) ∧
    ((∀ x, s.ctx? (c.arg 1) = some x → x.st ≠ .faulted) →
    ((∃ k ∈ s.keySlots, k.1 = c.arg 0 ∧ k.2.1 ≠ c.arg 1) → exec (.keyLoad c) s = answers s c 0x16 0) ∧
    ((∀ k ∈ s.keySlots, k.1 = c.arg 0 → k.2.1 = c.arg 1) →
      (s.busRead (c.arg 2) 256 = none → exec (.keyLoad c) s = answers s c 0x32 0) ∧
      ∀ bs, s.busRead (c.arg 2) 256 = some bs →
        (blobBad bs = true ∨ unwrapKey bs (c.arg 0) (c.arg 1) = none → exec (.keyLoad c) s = answers s c 0x17 0) ∧
        ∀ key, blobBad bs = false → unwrapKey bs (c.arg 0) (c.arg 1) = some key →
          exec (.keyLoad c) s =
            answers { s with keySlots := (c.arg 0, c.arg 1, key) :: s.keySlots.filter (·.1 ≠ c.arg 0) } c 0 0))) ∧
  (∀ (s : State) (c : Cmd), Served s c 1 → 1 ≤ c.arg 0 → c.arg 0 ≤ 1023 →
    exec (.keyClear c) s = answers { s with keySlots := s.keySlots.filter (·.1 ≠ c.arg 0) } c 0 0) ∧
  (∀ (s : State) (c : Cmd), Served s c 4 → c.arg 0 < 256 → c.arg 1 ≤ s.pkg.dies * 3584 →
    ∃ t : Tenant, exec (.tenantSet c) s = answers { s with tenants := t :: s.tenants.filter (·.num ≠ c.arg 0) } c 0 0 ∧ t.num = c.arg 0 ∧
      t.cores = c.arg 1 ∧ t.bw = c.arg 2 ∧ t.power = c.arg 3) ∧
  ∀ (s : State) (c : Cmd), Served s c 1 → c.arg 0 < 256 →
    ((∃ x ∈ s.ctxs, x.tenant = c.arg 0) → exec (.tenantClear c) s = answers s c 0x10 0) ∧
    ((∀ x ∈ s.ctxs, x.tenant ≠ c.arg 0) →
      exec (.tenantClear c) s = answers { s with tenants := s.tenants.filter (·.num ≠ c.arg 0) } c 0 0)

/-- Q_CREATE registers the control block of a queue number that is free, with the ring and class of Table QUE-1; Q_RESET takes a
queue out of ERROR with a new HEAD, and the SIGNAL packets that wait go on; Q_DESTROY drops what the queue holds (R350, Table QUE-2). WIN_REG registers a window of Table
LNK-4 under an index that is free, an export under a number that is free (R376). -/
def Sys2Proof.Claims.QueueAndWindowCommands : Prop :=
  (∀ (s : State) (c : Cmd) (x : Ctx), Served s c 3 → InTurn s c → c.arg 0 < 4096 → c.arg 1 < 65536 → c.arg 2 % 64 = 0 → Usable s (c.arg 0) x →
    (s.uq? (c.arg 1) ≠ none → exec (.qCreate c) s = answers s c 0x10 0) ∧
    ∀ bs, s.uq? (c.arg 1) = none → (s.vread x 0 0 (c.arg 2) 64).1 = some bs →
      (qcbBad bs x.num = true → exec (.qCreate c) s = answers s c 0x31 0) ∧
      (qcbBad bs x.num = false → fieldAt bs 0x14 4 = 0 →
        let q : UQueue := { num := c.arg 1, ctx := x.num, qcb := c.arg 2, st := .idle, rbase := fieldAt bs 0 8,
                            logsz := fieldAt bs 8 1, prio := fieldAt bs 9 1, cls := fieldAt bs 0x0A 1, bound := fieldAt bs 0x28 8 }
        ∃ t : State, exec (.qCreate c) s = answers t c 0 0 ∧ t.uq? q.num = some q ∧
          q.rbase % 4096 = 0 ∧ 12 ≤ q.logsz ∧ q.logsz ≤ 18 ∧ q.prio < 16 ∧ q.cls ≤ 2)) ∧
  (∀ (s : State) (c : Cmd) (q : UQueue), Served s c 2 → c.arg 0 < 65536 → c.arg 1 < 2 ^ 32 → s.uq? (c.arg 0) = some q →
    (q.st ≠ .error → exec (.qReset c) s = answers s c 0x10 0) ∧
    (q.st = .error →
      let q' : UQueue := { q with
        st := .idle, head := c.arg 1, tail := c.arg 1, pseq := 0, errc := 0, errpc := 0, ibs := [],
        fault := none, hold := none, pkt := none }
      exec (.qReset c) s = answers ((s.setUq q').writeQcb q' 0) c 0 0)) ∧
  (∀ (s : State) (c : Cmd), Served s c 1 → c.arg 0 < 65536 →
    (s.uq? (c.arg 0) = none → exec (.qDestroy c) s = answers s c 0x10 0) ∧
    ∀ q, s.uq? (c.arg 0) = some q → ∃ t : State, exec (.qDestroy c) s = answers t c 0 0 ∧ t.items = s.items ∧ t.mem = s.mem ∧
      (∀ r ∈ t.refs, r.queue ≠ some q.num) ∧
      t.uqs = s.uqs.map fun u => if u.num = q.num ∧ u.st ≠ .destroyed
        then { u with st := .destroyed, slot := none, pkt := none, hold := none, ibs := [], sigs := [] } else u) ∧
  ∀ (s : State) (c : Cmd) (x : Ctx), Served s c 3 → InTurn s c → c.arg 0 < 4096 → c.arg 1 < 4096 → Usable s (c.arg 0) x →
    ((s.master c.master).active.getLsbD 2 = false → exec (.winReg c) s = answers s c 0x21 0) ∧
    ((s.master c.master).active.getLsbD 2 = true → ∀ bs, (s.vread x 0 0 (c.arg 2) 32).1 = some bs →
      (winBad bs = true ∨ s.win? x.num (c.arg 1) ≠ none → exec (.winReg c) s = answers s c 0x15 0) ∧
      (winBad bs = false → s.win? x.num (c.arg 1) = none →
        let w := winOf bs x.num (c.arg 1) 0
        (w.kind = 2 → w.peer = s.pkgNo → s.export? w.pexp ≠ none →
          exec (.winReg c) s = answers { s with wins := s.wins ++ [w] } c 0 0) ∧
        (w.kind = 1 → (∃ e, e < 4096 ∧ s.export? e = none) → ∃ (e : Nat) (t : State), e < 4096 ∧ s.export? e = none ∧
          exec (.winReg c) s = answers t c 0 e ∧ t.wins = s.wins ++ [{ w with exp := e }])))
/-- The commands on keys, tenants, queues and windows.
Where it goes past the words of the spec it rests on the model's choices of log entries 6, 47, 67 and 74. -/
def Obligations.KeyTenantQueueCommands : Prop :=
  Sys2Proof.Claims.KeyAndTenantCommands ∧ Sys2Proof.Claims.QueueAndWindowCommands

/-- FUSE_RAISE of a value that is not above the counter is ORDER; otherwise it burns one word of a bank and raises it, and of
CODESV retires the kernels below it; a bank that is used up is SPENT (R383). HANDOVER gives up ownership for a token (R385).
ATTEST writes the 416-byte report of the nonce, the measurements and the versions (R384). POWER_CAP sets the cap, from 1 W to the
limit of P0 (R395). RESET answers, and then resets the package; it is served after a fatal error too (R389, R393). -/
def Sys2Proof.Claims.TrustAndPowerCommands : Prop :=
  (∀ (s : State) (c : Cmd), Served s c 2 → c.arg 0 < 2 → c.arg 1 < 65536 →
    let now := if c.arg 0 = 0 then s.fwsv else s.codesv
    let used := if c.arg 0 = 0 then s.fuseFw else s.fuseCode
    (c.arg 1 ≤ now → exec (.fuseRaise c) s = answers s c 0x22 0) ∧
    (now < c.arg 1 → fuseRaises ≤ used → exec (.fuseRaise c) s = answers s c 0x23 0) ∧
    (now < c.arg 1 → used < fuseRaises →
      (c.arg 0 = 0 → exec (.fuseRaise c) s = answers { s with fwsv := c.arg 1, fuseFw := s.fuseFw + 1 } c 0 0) ∧
      (c.arg 0 = 1 →
        let low := fun (k : Kernel) => if k.sv < c.arg 1 ∧ k.st ∈ [.loaded, .active] then { k with st := .retiring } else k
        exec (.fuseRaise c) s = answers
          (State.retireIdle { s with codesv := c.arg 1, fuseCode := s.fuseCode + 1, kernels := s.kernels.map low }) c 0 0))) ∧
  (∀ (s : State) (c : Cmd), Served s c 2 →
    let t : BitVec 128 := BitVec.ofNat 128 (c.arg 0 + 2 ^ 64 * c.arg 1)
    (t = 0 → exec (.handover c) s = answers s c 0x31 0) ∧
    (t ≠ 0 → exec (.handover c) s = answers { s with owner := none, handover := some (t, s.ct) } c 0 0)) ∧
  (∀ (s : State) (c : Cmd) (nonce : List Byte), s.bootstat = 1 → c.resv = 0 → (∀ a ∈ c.args.drop 2, a = 0) →
    (s.busRead (c.arg 0) 32 = none → exec (.attest c) s = answers s c 0x32 0) ∧
    (s.busRead (c.arg 0) 32 = some nonce →
      let body := nonce ++ s.mr.flatMap bytes256 ++ leBytes 2 s.fwsv ++ leBytes 2 s.codesv ++ leBytes 1 s.pkg.code ++
        List.replicate 11 0
      let sig := (List.range 96).map (Config.attestSig body s.free)
      ∀ t, (({ s with free := s.free + 1 } : State).busWrite (c.arg 1) (body ++ sig ++ List.replicate 16 0)) = some t →
        exec (.attest c) s = answers t c 0 0)) ∧
  (∀ (s : State) (c : Cmd), Served s c 1 →
    (1 ≤ c.arg 0 → c.arg 0 ≤ s.pkg.limit 0 → exec (.powerCap c) s = answers { s with pwrcap := c.arg 0 } c 0 0) ∧
    (c.arg 0 = 0 ∨ s.pkg.limit 0 < c.arg 0 → exec (.powerCap c) s = answers s c 0x31 0)) ∧
  ∀ (s : State) (c : Cmd), (s.bootstat = 1 ∨ s.bootstat = 3) → s.owner = some c.master → c.resv = 0 → (∀ a ∈ c.args, a = 0) →
    exec (.reset c) s = .next (s.answer c 0 0).warm

/-! ## The front end and placement -/

namespace Sys2Proof.Claims

/-- Words from a queue's HEAD to a tail, modulo 2^32. -/
def aheadOf (q : UQueue) (t : Nat) : Nat := (t + 2 ^ 32 - q.head % 2 ^ 32) % 2 ^ 32
/-- A queue after a TAIL that lies within its ring (R352, Table QUE-2): the TAIL that lies farther ahead stays; a queue with
words left becomes pending, or active where it is mapped. -/
def tailTaken (q : UQueue) (t ct : Nat) : UQueue :=
  let q := { q with tail := if aheadOf q q.tail < aheadOf q t then t else q.tail }
  if q.tail = q.head then q
  else if q.st = .idle then { q with st := .pending, pendSince := ct }
  else if q.st = .mappedIdle then { q with st := .active, nextRead := 0, retry := 1000 }
  else q
/-- A queue whose context runs waits for a slot. -/
def waitsSlot (s : State) (q : UQueue) : Prop := q ∈ s.uqs ∧ q.st = .pending ∧ ∃ c : Ctx, s.ctx? q.ctx = some c ∧ c.st = .running
/-- A queue has taken up a packet of a type, whose words can be read. -/
abbrev TakenUp (s : State) (n typ : Nat) (q : UQueue) (c : Ctx) (addr : Nat) (bs : List Byte) : Prop :=
  s.uq? n = some q ∧ s.ctx? q.ctx = some c ∧ q.pkt = some (typ, addr) ∧ q.fault = none ∧
    ∃ h, (s.vread c 0 0 addr 8).1 = some h ∧ s.pktBytes c q addr 0 (max 1 (fieldAt h 4 2)) = .inr bs
/-- The PREV of a phase; 0 where there is none (R361). -/
def prevOf (s : State) (c : Ctx) (phase : Nat) : Nat := if phase = 0 then 0 else s.recGet c phase 0x18 8
/-- The hold of a queue on a record, with its own class, passes the check of R238. -/
def mayHold (s : State) (c : Ctx) (q : UQueue) (r : Nat) : Prop := (s.recordTarget c r q.cls).fault q.cls = none
/-- The packets of a phase may go on: the phase that it names as PREV is DONE, and the hold on it has passed its check (R361). -/
def phaseOpen (s : State) (c : Ctx) (q : UQueue) (phase : Nat) : Prop :=
  prevOf s c phase = 0 ∨ (s.recHas c (prevOf s c phase) 2 = true ∧ (q.hold ≠ none ∨ mayHold s c q (prevOf s c phase)))
/-- The hold that a packet of a phase brings fails its check, whether or not PREV is DONE. -/
def phaseBarred (s : State) (c : Ctx) (q : UQueue) (phase : Nat) : Prop :=
  prevOf s c phase ≠ 0 ∧ q.hold = none ∧ ¬ mayHold s c q (prevOf s c phase)
/-- Where a queue stands: in a buffer, or in its ring. -/
def standsAt (q : UQueue) : Nat := match q.ibs with
  | (a, _) :: _ => a
  | [] => q.rbase + 8 * q.head % 2 ^ q.logsz
/-- The values of LEN that a packet type allows (Table QUE-6). -/
def lenAllowed (typ len : Nat) : Bool :=
  [decide (1 ≤ len), len == 7, decide (4 ≤ len), decide (3 ≤ len), len == 3, len == 3, len == 2, len == 3].getD typ false
/-- A header that a queue may not take up (R355): a number in a buffer, an unknown type, flags that the type does not have, LEN
out of range, or beyond what is left. -/
def headerWrong (q : UQueue) (bs : List Byte) : Prop :=
  let typ := fieldAt bs 2 1
  let flags := fieldAt bs 3 1
  let len := fieldAt bs 4 2
  let tooLong := match q.ibs with
    | (a, e) :: _ => e < a + 8 * len
    | [] => 2 ^ (q.logsz - 3) < len
  (q.ibs ≠ [] ∧ fieldAt bs 0 2 ≠ 0) ∨ 7 < typ ∨ fieldAt bs 6 2 ≠ 0 ∨ 3 < flags ∨ (flags ≠ 0 ∧ typ ≠ 1 ∧ typ ≠ 2) ∨
    lenAllowed typ len = false ∨ tooLong

end Sys2Proof.Claims

/-- A kick to a queue of the page's context, with a fresh sequence number and a TAIL within the ring, is taken and wakes the
scheduler; any other changes nothing (R352). TAIL_RECONCILE, every 100,000 ct, applies TAIL of each queue that is mapped or idle,
as a kick does, and writes the fields of its control block that are the device's (R350, R353). A pass on a wake gives the lowest free slots to pending queues, first the one of highest effective priority,
then the longest pending, then the lowest number (R354). -/
def Sys2Proof.Claims.KicksAndMapping : Prop :=
  (∀ (s : State) (page : Nat) (v : W64),
    let n := v.toNat % 2 ^ 16
    let sq := v.toNat / 2 ^ 16 % 2 ^ 16
    let t := v.toNat / 2 ^ 32
    (s.uq? n = none → exec (.kick page v) s = .next s) ∧
    ∀ q, s.uq? n = some q →
      let d := (sq + 2 ^ 16 - q.lseq) % 2 ^ 16
      let good := q.ctx = page ∧ q.st ≠ .error ∧ 1 ≤ d ∧ d ≤ 32767 ∧ aheadOf q t ≤ 2 ^ (q.logsz - 3)
      (¬good → exec (.kick page v) s = .next s) ∧
      (good → exec (.kick page v) s = .next { s with
        uqs := s.uqs.map fun x => if x.num = n ∧ ¬x.st = .destroyed then tailTaken { x with lseq := sq } t s.ct else x
        inbox := .schedulerPass :: s.inbox })) ∧
  (∀ s : State, s.lastReconcile + 100000 ≤ s.ct →
    let one := fun (s : State) (q : UQueue) =>
      if q.st ∈ [.active, .mappedIdle, .idle] then match s.ctx? q.ctx with
        | some c =>
          let t := s.vword c 0 0 (q.qcb + 0x14) 4
          let q := if aheadOf q t ≤ 2 ^ (q.logsz - 3) then tailTaken q t s.ct else q
          (s.setUq q).writeQcb q q.st.code
        | none => s
      else s
    exec .tailReconcile s =
      .next { s.uqs.foldl one s with lastReconcile := s.ct, inbox := .schedulerPass :: s.inbox }) ∧
  (∀ s : State, (s.ct < s.lastPass + 1000000 → exec .schedulerPass s = .next (s.fillSlots 256)) ∧
    (s.lastPass + 1000000 ≤ s.ct → ∃ t : State, exec .schedulerPass s = .next t ∧ t.lastPass = s.ct ∧ t.items = s.items)) ∧
  (∀ (s : State) (n k : Nat) (q : UQueue), s.freeQslot = some k → s.nextPending [] = some q →
    s.fillSlots (n + 1) = (s.mapQueue q k).fillSlots n ∧ (∀ x ∈ s.uqs, x.slot ≠ some k) ∧
    (∀ j, j < k → ∃ x ∈ s.uqs, x.slot = some j) ∧ waitsSlot s q ∧
    ∀ x, waitsSlot s x → x.level s.ct < q.level s.ct ∨
      (x.level s.ct = q.level s.ct ∧ (q.pendSince < x.pendSince ∨ (q.pendSince = x.pendSince ∧ q.num ≤ x.num)))) ∧
  ∀ (q : UQueue) (ct : Nat), q.level ct = min 15 (q.prio + (ct - q.pendSince) / 1000000)

/-- A queue reads the header where it stands. In the ring, one that does not bear the next number is not there yet: it is read
again after a delay that doubles from 1 µs to 64 µs. A header that cannot be read waits for the page service, or stops
the queue with FAULT; one that R355 refuses stops it with PACKET; another is taken up,
and the queue stands behind its LEN words (R355). -/
def Sys2Proof.Claims.PacketTakeup : Prop :=
  ∀ (s : State) (n : Nat) (q : UQueue) (c : Ctx) (i : Instr), s.uq? n = some q → s.ctx? q.ctx = some c →
    q.st = .active → q.pkt = none → q.fault = none → (q.head ≠ q.tail ∨ q.ibs ≠ []) →
    (i = .packetTakeup n ∧ q.nextRead = 0 ∨ i = .packetHeaderRetry n ∧ q.nextRead ≠ 0 ∧ q.nextRead ≤ s.ct) →
    (∀ m t, s.reach c 0 0 (standsAt q) 8 .read = (.inl m, t) → exec i s = .next (if m.cause = 8
      then s.updUq n fun x => { x with fault := some m.va } else s.queueError q 4 (standsAt q))) ∧
    ∀ bs, (s.vread c 0 0 (standsAt q) 8).1 = some bs →
    (q.ibs = [] → fieldAt bs 0 2 ≠ q.pseq → exec i s = .next (s.updUq n fun x =>
      { x with nextRead := s.ct + x.retry, retry := min 64000 (2 * x.retry) })) ∧
    ((q.ibs ≠ [] ∨ fieldAt bs 0 2 = q.pseq) → headerWrong q bs → exec i s = .next (s.queueError q 1 (standsAt q))) ∧
    ((q.ibs ≠ [] ∨ fieldAt bs 0 2 = q.pseq) → ¬headerWrong q bs →
      let len := fieldAt bs 4 2
      ∃ t : State, exec i s = .next t ∧ t.mem = s.mem ∧ ∃ q' : UQueue, t.uq? n = some q' ∧ q'.pkt = some (fieldAt bs 2 1, standsAt q) ∧ q'.retry = 1000 ∧
        (q.ibs = [] → q'.head = (q.head + len) % 2 ^ 32 ∧ q'.pseq = (q.pseq + 1) % 65536 ∧ q'.ibs = []) ∧
        ∀ a e r, q.ibs = (a, e) :: r → q'.head = q.head ∧ q'.pseq = q.pseq ∧ q'.ibs = (a + 8 * len, e) :: r)

/-- What the packets without a launch do (R300, R356, R357, R364): NOP nothing; CALL_IB of an aligned buffer enters it, at most
four deep; SIGNAL stands behind the work of the packets before it, and QTL_ADVANCE raises the queue's timeline to it once that work
is DONE; WAIT holds the queue until its record is DONE; LOCKET_PUSH pushes as `rqpush`; RECORD appends its records to a node. One
with a field out of range stops the queue with PACKET, a fifth buffer with DEPTH. -/
def Sys2Proof.Claims.PlainPackets : Prop :=
  (∀ (s : State) (n : Nat) (q : UQueue) (c : Ctx) (addr : Nat) (bs : List Byte),
    let a := fieldAt bs 8 8
    let x := fieldAt bs 16 8
    (TakenUp s n 0 q c addr bs → exec (.nopPacket n) s = .next (s.packetDone n)) ∧
    (TakenUp s n 4 q c addr bs →
      (a % 8 ≠ 0 → exec (.callIb n) s = .next (s.queueError q 1 addr)) ∧
      (a % 8 = 0 → 4 ≤ q.ibs.length → exec (.callIb n) s = .next (s.queueError q 2 addr)) ∧
      (a % 8 = 0 → q.ibs.length < 4 → exec (.callIb n) s = .next
        ((s.updUq n fun q => { q with ibs := (a, a + 8 * x) :: q.ibs }).packetDone n))) ∧
    (TakenUp s n 5 q c addr bs →
      (1 < x → exec (.signal n) s = .next (s.queueError q 1 addr)) ∧
      (x ≤ 1 →
        let ws := q.works.filter fun w => !s.workDone c w
        exec (.signal n) s = .next
          ((s.updUq n fun q => { q with works := ws, sigs := q.sigs ++ [(a, x == 1, ws)] }).packetDone n))) ∧
    (TakenUp s n 6 q c addr bs →
      (a % 64 ≠ 0 → exec (.waitPacket n) s = .next (s.queueError q 1 addr)) ∧
      (a % 64 = 0 → q.hold = none →
        let t := s.recordTarget c a q.cls
        (t.fault q.cls ≠ none → exec (.waitPacket n) s = .next (s.queueError q 3 addr)) ∧
        (t.fault q.cls = none → s.recHas c a 2 = true → exec (.waitPacket n) s = .next (s.packetDone n)) ∧
        (t.fault q.cls = none → s.recHas c a 2 = false → exec (.waitPacket n) s = .next
          ((s.hold none (some q.num) q.cls t).updUq q.num fun q => { q with hold := some a }))) ∧
      ∀ r, a % 64 = 0 → q.hold = some r → s.recHas c r 2 = true → exec (.waitPacket n) s = .next (s.packetDone n)) ∧
    (TakenUp s n 7 q c addr bs →
      (a % 128 ≠ 0 ∨ 15 < x → exec (.locketPush n) s = .next (s.queueError q 1 addr)) ∧
      (a % 128 = 0 → x ≤ 15 →
        (∀ t, s.pushResume c 0 0 allLanes a x = .inr t → exec (.locketPush n) s = .next (t.packetDone n)) ∧
        ∀ f, s.pushResume c 0 0 allLanes a x = .inl f → exec (.locketPush n) s = .next (s.packetDone n)))) ∧
  (∀ (s : State) (c : Ctx) (r desc upto : Nat), s.workDone c (.record r) = s.recHas c r 2 ∧
    ∀ x, s.node? c.num desc = some x →
      (s.workDone c (.node desc upto) = true ↔ upto ≤ x.taken ∧ ∀ b ∈ x.busy, upto ≤ b.2)) ∧
  (∀ (s : State) (n i : Nat) (q : UQueue) (c : Ctx) (x : Nat × Bool × List Work), s.uq? n = some q → s.ctx? q.ctx = some c →
    q.sigs[i]? = some x → (∀ w ∈ x.2.2, s.workDone c w = true) →
    (∀ j y, j < i → q.sigs[j]? = some y → ∃ w ∈ y.2.2, s.workDone c w = false) →
    ∃ t : State, exec (.qtlAdvance n) s = .next t ∧ t.mem = s.mem ∧
      t.uq? n = some { q with qtl := max q.qtl x.1, sigs := q.sigs.eraseIdx i }) ∧
  ∀ (s : State) (n : Nat) (q : UQueue) (c : Ctx) (addr : Nat) (bs d : List Byte), TakenUp s n 3 q c addr bs →
    let desc := fieldAt bs 8 8
    let cnt := fieldAt bs 16 8
    let good := 1 ≤ cnt ∧ cnt ≤ 1024 ∧ 3 + (cnt + 1) / 2 ≤ fieldAt bs 4 2 ∧ desc % 64 = 0
    (¬good → exec (.record n) s = .next (s.queueError q 1 addr)) ∧
    (good → (s.vread c 0 0 desc 64).1 = some d →
      ((NodeDesc.ofBytes d).bad = true → exec (.record n) s = .next (s.queueError q 1 addr)) ∧
      ((NodeDesc.ofBytes d).bad = false → s.nodeHeld q.ctx desc + cnt ≤ 1024 →
        let t := s.nodeAppend q.ctx desc ((List.range cnt).map fun i => BitVec.ofNat 32 (fieldAt bs (24 + 4 * i) 4))
        exec (.record n) s = .next ((t.updUq n fun q =>
          { q with works := q.works ++ [.node desc (t.nodeNext q.ctx desc)] }).packetDone n)))
/-- Kicks, the take-up of packets, and the packets that launch nothing.
Where it goes past the words of the spec it rests on the model's choices of log entries 37 and 67. -/
def Obligations.QueuePackets : Prop :=
  Sys2Proof.Claims.KicksAndMapping ∧ Sys2Proof.Claims.PacketTakeup ∧ Sys2Proof.Claims.PlainPackets

/-- LAUNCH of a phase that is open joins its phase; where the hold on PREV fails its check the queue stops with WAIT_CLASS, of a LAUNCH
and a GRAPH alike (R238). A launch that R359 refuses is REFUSED and DONE with its code; one in a
cancelled level is CANCELLED and DONE; another enters the distributors with its index range. GRAPH of fields in range whose
dependences pass their checks is taken up, and a dependence that fails stops the queue with WAIT_CLASS (R359 to R362). A node's
group starts on its oldest 32 records when they are there, or on what there is when TIMER has passed since the first
of them (R364). -/
def Sys2Proof.Claims.LaunchesAndGraphs : Prop :=
  (∀ (s : State) (n : Nat) (q : UQueue) (c : Ctx) (addr : Nat) (bs : List Byte), TakenUp s n 1 q c addr bs →
    let l := LBody.ofBytes (bs.drop 8)
    let fl := fieldAt bs 3 1
    (l.lrec % 64 ≠ 0 ∨ l.phrec % 64 ≠ 0 → exec (.launch n) s = .next (s.queueError q 1 addr)) ∧
    (l.lrec % 64 = 0 → l.phrec % 64 = 0 → phaseBarred s c q l.phrec → exec (.launch n) s = .next (s.queueError q 3 addr)) ∧
    (l.lrec % 64 = 0 → l.phrec % 64 = 0 → phaseOpen s c q l.phrec →
      let t := (s.joinPhase c l.phrec (fl % 2 = 1) (fl / 2 % 2 = 1)).updUq n fun q => { q with works := q.works ++ [.record l.lrec] }
      (∀ code, t.launchCheck c l = .inr code →
        exec (.launch n) s = .next (((t.recSet c l.lrec 0x25 1 code).recFinish c l.lrec 16).packetDone n)) ∧
      ∀ k, t.launchCheck c l = .inl k →
        let lvl := (t.levels c 8 l.lrec ++ t.levels c 8 l.phrec).eraseDups
        let u := t.countClass c (l.clsFor k) (l.promFor k) lvl
        u.items = s.items ∧
        (u.anyCancelled c lvl = true → exec (.launch n) s = .next ((u.recFinish c l.lrec 4).packetDone n)) ∧
        (u.anyCancelled c lvl = false →
          exec (.launch n) s = .next ((u.enqueueLaunch c l k .launch l.phrec q.bound).packetDone n)))) ∧
  (∀ (s : State) (c : Ctx) (l : LBody) (k : Kernel) (o : Origin) (ph bd : Nat), ∃ i : Item,
    (s.enqueueLaunch c l k o ph bd).items = s.items ++ [i] ∧
    i.ctx = c.num ∧ i.kobj = l.kobj ∧ i.lrec = l.lrec ∧ i.nblk = l.nblk ∧ i.next = 0 ∧ i.stop = l.nblk ∧ i.clsL = l.clsFor k ∧
    i.prom = l.promFor k ∧ i.prio = l.prio ∧ i.lanes = allLanes ∧ i.arg = BitVec.ofNat 64 l.arg) ∧
  (∀ (s : State) (c : Ctx) (l : LBody),
    ((∀ k ∈ s.kernels, k.kobj = l.kobj → k.ctx ≠ c.num) → s.launchCheck c l = .inr 1) ∧
    ∀ k, s.kernels.find? (fun k => k.kobj = l.kobj ∧ k.ctx = c.num) = some k →
      (k.st = .retiring ∨ k.st = .retired → s.launchCheck c l = .inr 2) ∧
      (k.st = .loaded ∨ k.st = .active → l.cls = 0xFF ∨ (l.cls ≤ 2 ∧ l.promov ≤ 2) →
        let cls := if l.cls = 0xFF then k.cls else l.cls
        (k.cls < cls ∨ c.ceil < cls → s.launchCheck c l = .inr 3) ∧
        (cls ≤ k.cls → cls ≤ c.ceil → 1 ≤ l.nblk → l.promov ≤ 2 → l.prio < 16 → (∀ i, i < 8 → l.hqcls / 4 ^ i % 4 ≠ 3) → l.rest = 0 → l.lrec % 64 = 0 →
          l.phrec % 64 = 0 → s.launchCheck c l = .inl k))) ∧
  (∀ (s : State) (n : Nat) (q : UQueue) (c : Ctx) (addr : Nat) (bs : List Byte), TakenUp s n 2 q c addr bs →
    let gr := fieldAt bs 8 8
    let cnt := fieldAt bs 16 8
    let tcbs := (List.range cnt).map fun i => fieldAt bs (24 + 8 * i) 8
    let good := 1 ≤ cnt ∧ cnt ≤ 65532 ∧ fieldAt bs 4 2 = 3 + cnt ∧ gr % 64 = 0 ∧ ∀ t ∈ tcbs, t % 64 = 0
    (¬good → exec (.graph n) s = .next (s.queueError q 1 addr)) ∧
    (good → (∃ t ∈ tcbs, ∃ x ∈ s.tcbEdges c t, x.1.fault x.2 ≠ none) → exec (.graph n) s = .next (s.queueError q 3 addr)) ∧
    (good → (∀ t ∈ tcbs, ∀ x ∈ s.tcbEdges c t, x.1.fault x.2 = none) → phaseBarred s c q (s.recGet c gr 0x10 8) →
      exec (.graph n) s = .next (s.queueError q 3 addr)) ∧
    (good → (∀ t ∈ tcbs, ∀ x ∈ s.tcbEdges c t, x.1.fault x.2 = none) → phaseOpen s c q (s.recGet c gr 0x10 8) →
      ∃ (t : State) (q' : UQueue), exec (.graph n) s = .next t ∧ t.uq? n = some q' ∧ q'.pkt = none ∧ q'.hold = none ∧ Work.record gr ∈ q'.works)) ∧
  ∀ (s t : State) (n : Nat) (x : Node) (c : Ctx) (d : List Byte) (buf : Nat) (k : Kernel), s.nodes[n]? = some x →
    s.ctx? x.ctx = some c → (s.vread c 0 0 x.desc 64).1 = some d →
    let r := NodeDesc.ofBytes d
    let m := min 32 x.recs.length
    (List.range r.nbuf).find? (fun i => !x.busy.any (·.1 == i)) = some buf →
    (s.vwrite c 0 0 (r.batch + 128 * buf) (((x.recs.take m).map fun v => leBytes 4 v.1.toNat).flatten)).1 = some t →
    t.kernelFor x.ctx r.kobj = .inl k → t.anyCancelled c (t.levels c 8 r.lrec) = false →
    ∀ i ∈ [Instr.nodeBatchFull n, .nodeBatchTimer n],
      (i = .nodeBatchFull n → 32 ≤ x.recs.length) →
      (i = .nodeBatchTimer n → x.recs ≠ [] ∧ x.recs.length < 32 ∧ (x.recs.headD (0, 0)).2 + r.timer ≤ s.ct) →
      ∃ (u : State) (j : Item), exec i s = .next u ∧ u.items = s.items ++ [j] ∧ j.kobj = k.kobj ∧ j.arg = BitVec.ofNat 64 (r.batch + 128 * buf) ∧
        j.lrec = r.lrec ∧ j.nblk = 1 ∧ j.stop = 1 ∧ j.origin = .node x.desc buf ∧ j.prio = r.prio ∧
        j.clsL = min r.cls c.ceil ∧ j.lanes = maskOf (· < m)

/-- RECORD_RETIRE of a live context takes a unit off a record; a record that is CLOSED and has COUNT 0 is DONE (R361). -/
def Sys2Proof.Claims.RecordRetire : Prop :=
  (∀ (s : State) (r n : Nat) (c : Ctx), s.ctx? n = some c →
    exec (.recordRetire r (.block n)) s = .next ((s.recRetire c r).cancelSettle) ∧
    ∀ child, s.recHas c child 2 = true → s.recGet c child 0x10 8 = r →
      exec (.recordRetire r (.member n child)) s = .next ((s.recRetire c r).cancelSettle)) ∧
  ∀ (s : State) (c : Ctx) (r : Nat), r ≠ 0 →
    let t := s.vset c 0 0 r 8 (((s.vword c 0 0 r 8 : Int) - 1) % 2 ^ 64).toNat
    let st := t.vword c 0 0 (r + 8) 4
    (t.vword c 0 0 r 8 ≠ 0 ∨ st % 2 = 0 ∨ st / 2 % 2 = 1 → s.recRetire c r = t) ∧
    (t.vword c 0 0 r 8 = 0 → st % 2 = 1 → st / 2 % 2 = 0 →
      let u := t.vset c 0 0 (r + 8) 4 (st ||| 2)
      u.vword c 0 0 (r + 0x10) 8 = 0 → (∀ x ∈ u.tcbs, x.ctx = c.num → x.lrec ≠ r) →
      let v := State.settleRefs { u with refs := u.refs.filter fun x =>
        !(x.launch == some (c.num, r) && x.waiter.isNone && x.queue.isNone) }
      s.recRetire c r = { v with phases := v.phases.map fun p =>
        if p.ctx = c.num ∧ p.record = r then { p with isDone := true } else p })
/-- Launches, graphs and the retirement of records.
Where it goes past the words of the spec it rests on the model's choices of log entries 38 and 74. -/
def Obligations.LaunchesAndRecords : Prop :=
  Sys2Proof.Claims.LaunchesAndGraphs ∧ Sys2Proof.Claims.RecordRetire

/-! ## Placement, residency and context switches -/

namespace Sys2Proof.Claims

/-- The launch state of group n of a block (R65, R73, R84): the registers g1 to g4, the entry, the lanes, and nothing else. -/
def AtStart (i : Item) (k : Kernel) (index n slot : Nat) (g : Group) : Prop :=
  g.index = n ∧ g.st = .resident ∧ g.slotNo = some slot ∧ g.role = k.roles.getD n 0 ∧
    g.gval? 1 = some i.arg.toNat ∧ g.gval? 2 = some (index % 2 ^ 64) ∧ g.gval? 3 = some (n % 2 ^ 64) ∧
    g.gval? 4 = some (i.nblk % 2 ^ 64) ∧ (∀ r, 5 ≤ r → g.gval? r = none) ∧ (∀ r l, g.lane? r l = none) ∧
    g.slot0 = some { clause := k.textBase + k.entry, index := 15, mask := i.lanes } ∧ g.slot1 = none ∧ g.exited = ~~~i.lanes ∧
    g.p = List.replicate 7 0 ∧ g.q = List.replicate 7 false ∧ g.stack = [] ∧ g.flights = [] ∧ g.fflags = 0 ∧ g.b8fmt = 0x0404 ∧
    g.trapnest = 0 ∧ g.lkgen = 0 ∧ g.traps = []
/-- Every path of a group goes on from the next cc, in a slot (R119). -/
def backIn (slot : Option Nat) (cc : Nat) (g : Group) : Group :=
  { g with st := .resident, slotNo := slot, slot0 := g.slot0.map fun p => { p with start := cc + 1 },
           slot1 := g.slot1.map fun p => { p with start := cc + 1 } }
/-- The time of a block away from its core starts, where none of it was away (R235). -/
def leavesCore (ct : Nat) (b : Block) : Block :=
  if b.st = .saved ∨ ∃ g ∈ b.groups, g.st = .spilled then b else { b with since := ct }
/-- A block of which nothing is away any more: the time counts towards its ageing, and it returns first no more (R235, R241). -/
def isBack (ct : Nat) (b : Block) : Block :=
  if b.st = .saved ∨ ∃ g ∈ b.groups, g.st = .spilled then b else { b with waited := b.waited + (ct - b.since), first := false }
/-- A victim goes to its save slot and gives up its slot (R118); in a cancelled level it ends as by `exit`, and the record of its
launch shows CANCELLED (R318). -/
def spilledTo (b : Block) (s : State) (g : Group) : State :=
  let t := ((s.updBlock b.id (leavesCore s.ct)).writeSlot b g).updGroup b.id g.index fun g =>
    { g with st := .spilled, slotNo := none, victim := false }
  match t.ctx? b.ctx with
  | some c =>
    if t.anyCancelled c b.lvl then (if b.lrec = 0 then t else t.recMark c b.lrec 4).exitLanes b.id g.index allLanes else t
  | none => t
/-- A spill of a block has begun, and some victim of it is not spilled yet. -/
def spillGoes (b : Block) : Prop := ∃ g ∈ b.groups, g.victim = true ∧ g.st = .resident
/-- The cores on which room is made for a saved target, its own before others (R240). -/
def roomOn (s : State) (b : Block) : List Nat :=
  b.core :: (List.range 56).filter fun k => k ≠ b.core ∧ s.hqFree b.die k (s.hqConfig b).1 b.hqLaunch
/-- The context of a block is not FAULTED. -/
def notFaulted (s : State) (b : Block) : Prop := ∀ c, s.ctx? b.ctx = some c → c.st ≠ .faulted
/-- A block is chosen to be spilled whole (R240). -/
def evicted (x : Block) : Block :=
  { x with evict := true, groups := x.groups.map fun g => if g.st = .resident then { g with victim := true } else g }

end Sys2Proof.Claims

/-- BLOCK_PLACEMENT puts the next block of an item's part on a core that admits it: in the lowest free block slot, with a record of
the save area, the class of the launch, timelines at 0, its clasps IDLE, and its groups in their launch state (R84, R363). The part
is handed down to the core from a node above it, or is the upper half of a sibling's range. A waiting evt item gains a level for each
full 1 ms (R235). -/
def Sys2Proof.Claims.BlockPlacement : Prop :=
  (∀ (s : State) (item : Nat) (core : CoreId) (i j : Item) (u : State) (c : Ctx) (k : Kernel) (bslot recNo : Nat) (slots : List Nat),
    s.items.find? (·.id = item) = some i → i.locket = none → (core.die, core.core) ∈ s.coresFor i →
    s.takePart i (core.die, core.core) = (j, u) → s.ctx? j.ctx = some c →
    s.kernel? j.kobj = some k → s.freeBslot core.die core.core = some bslot → s.freeRecord c = some recNo →
    takeSlots (j.shape k).1 (s.slotsUsed core.die core.core) = some slots →
    ∃ (t : State) (b : Block), exec (.blockPlacement item core) s = .next t ∧ t.blocks = s.blocks ++ [b] ∧ b.ctx = j.ctx ∧
      b.kobj = j.kobj ∧ b.index = j.next ∧ b.nblk = j.nblk ∧ b.lrec = j.lrec ∧ b.lvl = j.lvl ∧ b.jrec = j.jrec ∧ b.die = core.die ∧
      b.core = core.core ∧ b.bslot = bslot ∧ b.bgen = s.bgenOf core.die core.core bslot ∧ b.recNo = recNo ∧ b.clsL = j.clsL ∧
      b.prom = j.prom ∧ b.st = .running ∧ b.clasps = List.replicate k.clasps {} ∧ b.userTl = 0 ∧ b.copyTl = 0 ∧ b.mtxTl = 0 ∧
      b.scratchLeft = k.scratch ∧ b.groups.length = slots.length ∧
      ∀ (n slot : Nat) (g : Group), slots[n]? = some slot → b.groups[n]? = some g → AtStart j k j.next n slot g) ∧
  (∀ (s : State) (i j : Item) (x : Nat × Nat) (u : State), s.takePart i x = (j, u) →
    (i.node <+: corePath x → i.next < i.stop →
      j = { i with node := corePath x, stop := j.stop } ∧ j.next < j.stop ∧ j.stop ≤ i.stop) ∧
    (¬ i.node <+: corePath x → s.partsIn i.dist (stealNodes i x).1 = [] → s.partsIn i.dist (stealNodes i x).2 = [i] →
      i.next + 2 ≤ i.stop → j.next = i.stop - (i.stop - i.next) / 2 ∧ j.ctx = i.ctx ∧ j.kobj = i.kobj ∧ j.arg = i.arg)) ∧
  ∀ (s : State) (item : Nat) (i : Item), s.items.find? (·.id = item) = some i → s.itemClass i = 1 →
    i.ready + 1000000 * (i.level + 1) ≤ s.ct →
    exec (.placementAgeing item) s = .next { s with items := s.items.map fun x =>
      if x.id = item then { x with level := x.level + 1 } else x }

/-- A block whose groups have all exited or suspended, and whose operations have completed, leaves its core, and its record is told
(R104, R361); a HALTED bead of an ended block is discarded first, and counts as a failed task (R277). A victim of the steward whose
results have returned is spilled to its save slot and gives up its slot, and the count starts again; at a count of 64 the steward
chooses a victim where none waits (R118). A spilled group that fits returns to a slot (R119). -/
def Sys2Proof.Claims.CompletionAndSpills : Prop :=
  (∀ (s : State) (blk : Nat) (b : Block) (c : Ctx), s.block? blk = some b → s.ctx? b.ctx = some c →
    (∀ g ∈ b.groups, (g.st = .exited ∨ g.st = .suspended) ∧ ∀ f ∈ g.flights, f.arrived = true) →
    (b.reqs = [] → (∀ x ∈ b.mtx.beads, x.st = .done) →
      ∃ t : State, exec (.blockCompletion blk) s = .next t ∧ (∀ x ∈ t.blocks, x.id ≠ blk) ∧
        t.inbox = (if b.lrec = 0 then s.inbox else .recordRetire b.lrec (.block b.ctx) :: s.inbox)) ∧
    ∀ x, b.st ≠ .saved → b.mtx.beads.find? (·.st = .halted) = some x →
      exec (.blockCompletion blk) s = .next (beadWakes (fieldsOf s c b x.num) b ((putStatus
        (s.updBlock blk fun b => { b with mtFail := b.mtFail + 1 }) c b x.num 2 0).updBlock blk
          (beadCompleted x.num (fieldsOf s c b x.num) x.flags)))) ∧
  (∀ (s : State) (core : CoreId) (b : Block) (gs : List Group), s.spillable core.die core.core = some (b, gs) →
    let t := gs.foldl (spilledTo b) s
    exec (.stewardSpill core) s = .next ((if b.evict = true then t else t.setSteward core.die core.core 0).updBlock b.id fun b =>
      { b with evict := false })) ∧
  (∀ (s : State) (core : CoreId) (b : Block) (g : Group), s.spillable core.die core.core = none →
    64 ≤ s.stewardCount core.die core.core → s.victimWaits core.die core.core = false →
    s.chooseVictim core.die core.core = some (b, g) →
      exec (.stewardSpill core) s = .next (s.updGroup b.id g.index fun g => { g with victim := true }) ∧
      g ∈ b.groups ∧ g.st = .resident ∧ g.traps = [] ∧ s.curClass b < 2 ∧ s.refClass b < 2) ∧
  ∀ (s : State) (blk grp : Nat) (b : Block) (g : Group), s.block? blk = some b → b.groups[grp]? = some g → g.st = .spilled →
    s.canReturn b g = true →
    exec (.spillReturn blk grp) s = .next ((s.updGroup blk grp (backIn (nextSlot (s.slotsUsed b.die b.core)) s.cc)).updBlock blk
      (isBack s.ct))
/-- The placement, completion, spill and return of blocks and groups.
Where it goes past the words of the spec it rests on the model's choices of log entries 50, 61, 62 and 79. -/
def Obligations.PlacementAndSpills : Prop :=
  Sys2Proof.Claims.BlockPlacement ∧ Sys2Proof.Claims.CompletionAndSpills

/-- A cancellation reaches a waiting path: its wait ends, its flight goes, and it takes CANCELLED; where the other path waits too,
that one's wait ends without an acquire. A path at a clause boundary takes CANCELLED there, one that `rfe` re-entered takes a held
one at once, and a fence wait ends (R15, R308). A group that suspends takes none (R289). -/
def Sys2Proof.Claims.CancelDelivery : Prop :=
  ∀ (s : State) (r : PRef) (g : Group) (p : Path) (f : Fault2), s.group? r.blk r.grp = some g → g.suspends = false →
    (if r.slot = 0 then g.slot0 else g.slot1) = some p → g.cancelDue p = some f →
    let waits := fun (p : Path) on w => p.cond = .wait on w ∨ ∃ f, p.cond = .ended on w f ∧ p.start = s.cc + 1
    let taken := fun (s : State) => s.updPath r fun p => { p with cancelled := true, owesCancel := false }
    let other := if 1 - r.slot = 0 then g.slot0 else g.slot1
    let quiet := ∀ q, other = some q → ∀ on w, ¬ waits q on w
    (∀ on w, waits p on w → quiet →
      exec (.cancelDelivery r) s = .next ((taken (s.dropFlight r on)).trapAt r f w p.clause p.index)) ∧
    (∀ on w q on' w', waits p on w → other = some q → waits q on' w' →
      let o : PRef := { r with slot := 1 - r.slot }
      let t := ((s.dropFlight o on').dropRefs r.blk r.grp (some o.slot)).updPath o fun q => { q with cond := .ready }
      exec (.cancelDelivery r) s = .next ((taken (t.dropFlight r on)).trapAt r f w p.clause p.index)) ∧
    (p.cond = .ready → g.fences ≠ [] → exec (.cancelDelivery r) s = .next
      ((taken (s.updGroup r.blk r.grp fun g => { g with fences := [], fenceFail := [] })).trapAt r f {} p.clause p.index)) ∧
    (p.cond = .ready → g.fences = [] → (p.index = 15 ∧ p.hdrDone = false) ∨ p.owesCancel = true →
      exec (.cancelDelivery r) s = .next ((taken s).trapAt r f {} p.clause p.index)) ∧
    ∀ level record, g.cancel = some (level, record) → f = { cause := 0x22, sub := level, faddr := record }
/-- Events of paths: held faults, handler guards, header drains and the delivery of cancellations.
Where it goes past the words of the spec it rests on the model's choices of log entry 40. -/
def Obligations.PathEvents : Prop :=
  Sys2Proof.Claims.PathEventsPieces ∧ Sys2Proof.Claims.CancelDelivery

/-- A block that a promotion to res targets becomes resident under the res rules, its spilled groups with it, once its groups fit with
their reservations; while they do not, a block is chosen to make room; so for a target that is saved, or not placed yet, and that no core
can take (R240). A spill of a target that has begun goes on to its end first (R241). A budget of 200,000 ct that ends without residency
while its context runs is WAIT_CLASS NO_ROOM at the waiter, and at a MAPPED_ACTIVE queue ERROR with WAIT_CLASS (R241, R243, R351). -/
def Sys2Proof.Claims.Promotions : Prop :=
  (∀ (s : State) (blk : Nat) (b : Block), s.block? blk = some b → s.refClass b = 2 → max b.clsL b.implied < 2 → b.resRes = false →
    (b.st ≠ .saved → ¬ spillGoes b → s.resFits b = true → ∃ t : State, exec (.promotionResident blk) s = .next t ∧
      ∀ b', t.block? blk = some b' → b'.resRes = true ∧ ∀ g ∈ b'.groups, g.st ≠ .spilled) ∧
    (∀ x, b.st ≠ .saved → ¬ spillGoes b → s.resFits b = false → s.evicting b.die b.core = false →
      s.chooseEvict b.die b.core b.id = some x → exec (.promotionResident blk) s = .next (s.updBlock x.id evicted)) ∧
    (∀ x, b.st = .saved → s.restoreCores b = [] → (∀ y ∈ s.blocks, y.evict = false) →
      ((roomOn s b).findSome? fun k => s.chooseEvict b.die k b.id) = some x →
      exec (.promotionResident blk) s = .next (s.updBlock x.id evicted)) ∧
    (b.st ≠ .saved → spillGoes b → (∀ i ∈ s.items, i.id ≠ blk) → exec (.promotionResident blk) s = .fault .noSuchEvent)) ∧
  (∀ (s : State) (n : Nat) (i : Item) (c : Ctx) (k : Kernel) (x : Block), s.block? n = none → s.items.find? (·.id = n) = some i →
    s.ctx? i.ctx = some c → s.kernel? i.kobj = some k → s.itemRefs i = 2 → i.own < 2 → s.mayPlace i c (i.shape k).1 = true →
    s.coresFor i = [] → (∀ b ∈ s.blocks, b.evict = false) →
    ((s.pkg.cores.filter fun y => s.mayTake i y && i.hdie.all (· == y.1)).findSome? fun y => s.chooseEvict y.1 y.2 s.uid) = some x →
    exec (.promotionResident n) s = .next (s.updBlock x.id evicted)) ∧
  ∀ (s : State) (n ends : Nat) (r : Ref), s.refs.find? (·.id = n) = some r → r.budget = some ends → ends ≤ s.ct →
    s.refRuns r = true →
    (s.refResident r = true → exec (.promotionBudgetExpiry n) s = .next { s with refs := s.refs.map fun x =>
      if x.id = n then { x with budget := none } else x }) ∧
    (s.refResident r = false →
      (∀ w x, r.waiter = some w → s.waiter? w = some x → exec (.promotionBudgetExpiry n) s = .next
        (s.waitFault w x.p x.on x.w { cause := 0x10, sub := 2, faddr := r.name, detail := r.detail })) ∧
      ∀ q u, r.waiter = none → r.queue = some q → s.uqs.find? (·.num = q) = some u →
        (u.st = .active → ∃ t : State, exec (.promotionBudgetExpiry n) s = .next t ∧
          ∀ v ∈ t.uqs, v.num = q → v.st = .error ∧ v.errc = 3 ∧ v.pkt = none) ∧
        (u.st ∈ [.idle, .pending, .mappedIdle, .saving] → exec (.promotionBudgetExpiry n) s = .fault .noSuchEvent))

/-- Pre-emption of a running block below res (R315): one that is estimated to end within 10 µs drains, and is stopped when that
time is over; an idempotent block without side effects is flushed; another is saved, but for a handler in its first 20,000 ct or a
suspend. A flushed block is placed again with its index and the class of its launch (R232). One that has become res while it waited
for that goes on (R234). The blocks of a FAULTED context stay as they are (R342). A saved block whose core fits it again is restored
(R243). -/
def Sys2Proof.Claims.PreemptionAndRestore : Prop :=
  (∀ (s : State) (blk : Nat) (b : Block), s.block? blk = some b →
    let spared := s.curClass b = 2 ∧ ∃ c, s.ctx? b.ctx = some c ∧ c.st = .running
    (b.st = .running → s.curClass b ≠ 2 → notFaulted s b →
      (∀ t, s.estimate b = some t → t < 10000 →
        exec (.preemptRequest blk) s = .next (s.updBlock blk fun b => { b with st := .draining s.ct })) ∧
      ((∀ t, s.estimate b = some t → 10000 ≤ t) →
        (s.flushable b = true → exec (.preemptRequest blk) s = .next (s.flush b)) ∧
        (s.flushable b = false → b.unsavable = false → exec (.preemptRequest blk) s = .next (s.saveBlock b)) ∧
        (s.flushable b = false → b.unsavable = true → exec (.preemptRequest blk) s = .next
          (s.updBlock b.id fun b => { b with st := .stopping })))) ∧
    (b.st = .stopping → ¬ spared → notFaulted s b → b.unsavable = false → exec (.preemptRequest blk) s = .next (s.saveBlock b)) ∧
    (spared → let goesOn := s.updBlock b.id fun b => { b with st := .running }
      (b.st = .stopping → exec (.preemptRequest blk) s = .next goesOn) ∧
      ∀ t0, b.st = .draining t0 → exec (.preemptDrainTimeout blk) s = .next goesOn) ∧
    (¬ notFaulted s b → exec (.preemptRequest blk) s = .fault .noSuchEvent ∧ exec (.preemptDrainTimeout blk) s = .fault .noSuchEvent) ∧
    ∀ t0, b.st = .draining t0 → ¬ spared → notFaulted s b → t0 + 10000 ≤ s.ct →
      exec (.preemptDrainTimeout blk) s = .next (if s.flushable b then s.flush b
        else if b.unsavable then s.updBlock b.id fun b => { b with st := .stopping } else s.saveBlock b)) ∧
  (∀ (s : State) (b : Block), s.blockCancelled b = false → ∃ i ∈ (s.flush b).items, i.ctx = b.ctx ∧ i.kobj = b.kobj ∧ i.arg = b.arg ∧
    i.lrec = b.lrec ∧ i.nblk = b.nblk ∧ i.next = b.index ∧ i.stop = b.index + 1 ∧ i.clsL = b.clsLaunch ∧ i.lanes = b.lanes) ∧
  (∀ (s : State) (b b' : Block) (c : Ctx), s.ctx? b.ctx = some c → s.bstateKept c b = true →
    (s.saveBlock b).block? b.id = some b' → b'.st = .saved ∧ b'.mtx.bank = none) ∧
  ∀ (s : State) (blk : Nat) (core : CoreId) (b : Block), s.block? blk = some b → s.restorable b core.die core.core = true →
    s.freeBslot core.die core.core ≠ none →
    ∃ t : State, exec (.blockRestore blk core) s = .next t ∧ ∀ b', t.block? blk = some b' →
      b'.st = .running ∧ b'.core = core.core ∧ b'.die = b.die ∧ b'.started = s.ct ∧
      ∀ g ∈ b'.groups, g.st ≠ .preempted true ∧ g.st ≠ .preempted false

/-- A switch out stops the context's queues and saves its blocks; once every block and every queue is saved it is SUSPENDED, and
SWITCHING until then (R317). A switch in of a READY or SUSPENDED context with a free context slot makes it SWITCHING, with the res
blocks to restore first; once no block is left that a core can take, but for opt blocks that a promotion to res holds back (log 81), it is
RUNNING, and its queues are mapped again (R243, R317,
R342). A context whose save area fails is FAULTED (R342). -/
def Sys2Proof.Claims.ContextSwitches : Prop :=
  (∀ (s : State) (n : Nat) (c : Ctx), s.ctx? n = some c → c.st = .running →
    ∃ t : State, exec (.contextSwitchOut n) s = .next t ∧ (∀ q ∈ t.uqs, q.ctx = n → q.st ≠ .active ∧ q.st ≠ .mappedIdle) ∧
      ∀ c', t.ctx? n = some c' → c'.st = (if (∀ b ∈ t.blocks, b.ctx = n → b.st = .saved) ∧
        (∀ q ∈ t.uqs, q.ctx = n → q.st ≠ .saving) then .suspended else .switching) ∨ c'.st = .faulted) ∧
  (∀ (s : State) (n : Nat) (c : Ctx), s.ctx? n = some c → c.st = .ready ∨ c.st = .suspended →
    (s.ctxs.filter fun c => c.st = .running ∨ c.st = .switching).length < 64 →
    ∃ t : State, exec (.contextSwitchIn n) s = .next t ∧ t.inbox = s.inbox ∧ t.blocks = s.blocks ∧
      ∀ c', t.ctx? n = some c' → c'.st = .switching ∧ c'.incoming = true ∧
        c'.restore = (s.blocks.filter fun b => b.ctx == n && b.st == .saved && s.curClass b == 2).map (·.id)) ∧
  (∀ (s : State) (n : Nat) (c : Ctx), s.ctx? n = some c → c.st = .switching → c.incoming = true → c.restore = [] →
    (∀ b ∈ s.blocks, b.ctx = n → ∀ k ∈ s.restoreCores b, s.curClass b = 0 ∧ s.effortOn b.die k = true) →
    ∃ t : State, exec (.contextSwitchIn n) s = .next t ∧ t.inbox = .schedulerPass :: s.inbox ∧ t.blocks = s.blocks ∧
      ∀ c', t.ctx? n = some c' → c'.st = .running ∧ c'.incoming = false) ∧
  ∀ (s : State) (n : Nat) (c : Ctx), s.ctx? n = some c → c.st = .running ∨ c.st = .suspended →
    ∃ t : State, exec (.contextFault n) s = .next t ∧ t.blocks = s.blocks ∧ ∀ c', t.ctx? n = some c' → c'.st = .faulted
/-- Promotion, pre-emption, restore and whole-context switches.
Where it goes past the words of the spec it rests on the model's choices of log entries 39, 49, 62 and 81. -/
def Obligations.PromotionAndPreemption : Prop :=
  Sys2Proof.Claims.Promotions ∧ Sys2Proof.Claims.PreemptionAndRestore ∧ Sys2Proof.Claims.ContextSwitches

/-! ## Memory services, the link, and the platform -/

namespace Sys2Proof.Claims

/-- The regions that firmware's memory services reach: HBM and CXL memory. -/
def inMemory (s : State) (a : Nat) : Bool := match s.pkg.region a with
  | some (.hbm _) => true
  | some (.cxl _) => true
  | _ => false
/-- A die's counter, one up (R160). -/
def counted (d : Nat) (xs : List Nat) : List Nat := xs.set d (min (xs.getD d 0 + 1) (2 ^ 64 - 1))
/-- The die counts an error of an address: the die of its HBM, or some die for the second tier (R160; log 88). -/
def mayCount (s : State) (a d : Nat) : Prop := match s.pkg.region a with
  | some (.hbm x) => d = x
  | some (.cxl _) => d < s.pkg.dies
  | _ => False
/-- The leaves that still name a page of a range of frames, each changed by one compare-and-swap (R339). -/
def leavesChanged (s : State) (base size : Nat) (f : Nat → Nat) (leaves : List Nat) : State :=
  leaves.foldl (fun s pa =>
    let e := s.phys pa 8
    if e % 4 = 3 ∧ base ≤ leafFrame e ∧ leafFrame e + 2 ^ pageLog (leafSize e) ≤ base + size then s.writeEntry pa (f e) else s) s
/-- A leaf with MIG, bit 9, set or clear (Table PAG-2). -/
def migSet (e : Nat) : Nat := if e.testBit 9 then e else e + 2 ^ 9
def migClear (e : Nat) : Nat := if e.testBit 9 then e - 2 ^ 9 else e
/-- What an atomic of another package makes of a value of n bytes (Table MEM-2, R162); `amfadd` as it is here. -/
def apNew (n old x y : Nat) (op : AmOp) : Nat :=
  let num := fun (sg : Bool) (v : Nat) => if sg then (BitVec.ofNat (8 * n) v).toInt else (v : Int)
  match op with
  | .add => (old + x) % 2 ^ (8 * n)
  | .min sg => if num sg old ≤ num sg x then old else x
  | .max sg => if num sg old ≤ num sg x then x else old
  | .and => old &&& x
  | .or => old ||| x
  | .xor => old ^^^ x
  | .xch => x
  | .cas => if old = y then x else old
  | .inc => if x ≤ old then 0 else old + 1
  | .fadd fmt => (amNew (.fadd fmt) (8 * n) old x y).1
/-- A port of the package in some state. -/
abbrev PortIn (s : State) (n : Nat) (p : Port) (sts : List PState) : Prop :=
  n < s.pkg.ports ∧ s.ports[n]? = some p ∧ p.st ∈ sts
/-- A host agent may reach a byte (R371): HBM, its own memory, and, where the second tier is in use, CXL memory other than by CXL.mem. -/
def hostReaches (s : State) (coherent : Bool) (a : Nat) : Prop := match s.pkg.region a with
  | some (.hbm _) => True
  | some (.cxl _) => coherent = false ∧ s.uses 1 = true
  | some .host => True
  | _ => False
/-- The state of a package whose power core has chosen its point: the highest whose limit the cap allows, lower by the steps that
heat has taken; a change is logged (R395). -/
def atPoint (s : State) : State :=
  let allowed := ((List.range 4).find? fun p => s.pkg.limit p ≤ s.pwrcap).getD 3
  let p := min 3 (allowed + s.thermal)
  if p = s.dvfs then s else { s.logEvent 4 0xFFFF 0 0 0 (s.dvfs + 256 * p + 65536 * (s.temp % 65536)) with dvfs := p }

end Sys2Proof.Claims

/-- The page service maps a fault's page from a first-touch window, and the request goes on; otherwise the host maps it, or refuses
it: the copy request fails with PAGE, the task halts, and an active queue stops with FAULT (R334, R358). A migration record opens over
whole pages of frames of one controller that no record overlaps, none of which is being split or freed, and their leaves get MIG; a
commit without a write since forwards it to the new frame, which the leaves name from then on, and another closes it; a close drops it
with what the TLBs hold of the old frame, which is dirty (R331, R338, R339). An access follows the records in FORWARD, through several
where a range has moved again. -/
def Sys2Proof.Claims.MemoryServicesPieces : Prop :=
  (∀ (s t : State) (what : EngReq) (die : Nat) (c : Ctx) (addr : Nat), s.engFault what = some (die, c, addr) →
    let resume := fun (s : State) => match what with
      | .copy blk id => exec (.copyPageResume blk id) s
      | .task blk bead => exec (.taskPageRestart blk bead) s
      | .queue n => .next (s.updUq n fun q => { q with fault := none })
    let logged := t.logEvent 7 c.num 0x08 4 addr 0
    (∀ r, s.touchPage c die addr = (true, t) → exec (.pageService what r) s = resume t) ∧
    (s.touchPage c die addr = (false, t) → exec (.pageService what false) s = resume t ∧
      (∀ blk id x y, what = .copy blk id → t.req? blk id = some (x, y) →
        exec (.pageService what true) s = .next (logged.finishCopy blk y.2 (some (6, addr)))) ∧
      (∀ blk bead, what = .task blk bead → exec (.pageService what true) s = exec (.taskHalt blk bead 7) logged) ∧
      ∀ n q, what = .queue n → t.uq? n = some q →
        let u := logged.updUq n fun q => { q with fault := none }
        exec (.pageService what true) s = .next (if q.st = .active then u.queueError q 4 q.here else u))) ∧
  (∀ (s : State) (base size : Nat), inMemory s base = true → 0 < size → base % 4096 = 0 → size % 4096 = 0 →
    s.controller (base + size - 1) = s.controller base → (s.migs.filter fun m => s.controller m.base == s.controller base).length < 64 →
    (∀ m ∈ s.migs, base + size ≤ m.base ∨ m.base + m.size ≤ base) →
    (∀ p ∈ s.pages, p.frame < base + size → base < p.frame + 2 ^ pageLog p.size → ∃ c, s.ctx? p.ctx = some c ∧ s.isMapped c p = true) →
    let leaves := s.leavesOf base size
    (∀ pa ∈ leaves, s.leafIn base size pa = true) →
    exec (.migrationOpen base size) s = .next (leavesChanged
      { s with migs := s.migs ++ [{ base := base, size := size, leaves := leaves }] } base size migSet leaves)) ∧
  (∀ (s : State) (base new : Nat) (m : Mig), s.migs.find? (fun m => m.base = base ∧ m.newBase = none) = some m →
    inMemory s new = true → new % 4096 = 0 → s.controller (new + m.size - 1) = s.controller new →
    (∀ x ∈ s.migs, x.newBase ≠ none ∨ x.base = base → new + m.size ≤ x.base ∨ x.base + x.size ≤ new) →
    (m.wver = 0 →
      let u := s.copyRange base m.size new
      exec (.migrationCommit base new) s = .next (leavesChanged { u with
        migs := u.migs.map fun x => if x.base = base then { x with newBase := some new } else x
        pages := u.pages.map fun p => if base ≤ p.frame ∧ p.frame < base + m.size then { p with frame := new + (p.frame - base) } else p }
        base m.size (fun e => migClear e - base + new) m.leaves)) ∧
    (m.wver ≠ 0 → exec (.migrationCommit base new) s = .next ((leavesChanged { s with migs := s.migs.filter (·.base ≠ base) }
      base m.size migClear m.leaves).soil new m.size))) ∧
  (∀ (s : State) (base : Nat) (m : Mig), s.migs.find? (fun m => m.base = base ∧ m.newBase ≠ none) = some m →
    exec (.migrationClose base) s = .next (State.soil { s with
      migs := s.migs.filter (·.base ≠ base)
      tlb := s.tlb.filter fun x => !(decide (leafFrame x.leaf.toNat < base + m.size) &&
        decide (base < leafFrame x.leaf.toNat + 2 ^ x.logSize)) } base m.size)) ∧
  (∀ (s : State) (f k : Nat), k < 12 → f % 2 ^ pageLog k = 0 →
    s.soil f (2 ^ pageLog k) = { s with dirtyFrames := s.dirtyFrames ++ [(f, k)] }) ∧
  (∀ (s : State) (pa : Nat), (∀ m ∈ s.migs, ∀ b, m.newBase = some b → pa < m.base ∨ m.base + m.size ≤ pa) → s.home pa = pa) ∧
  ∀ (s : State) (a b : Mig) (na nb pa : Nat), s.migs = [a, b] → a.newBase = some na → b.newBase = some nb →
    a.base ≤ pa → pa < a.base + a.size → b.base ≤ na + (pa - a.base) → na + (pa - a.base) < b.base + b.size →
    (na + (pa - a.base) < a.base ∨ a.base + a.size ≤ na + (pa - a.base)) → s.home pa = nb + (na + (pa - a.base) - b.base)

/-- A corrected error is counted, by the die of its HBM, or, for the second tier, by one that the device chooses; an uncorrectable one
poisons its granule, of memory, of a scratchpad buffer or of a hardware queue, and is counted once; one in a context table or in
firmware state, and a junction at 120 °C, are fatal: nothing runs until a reset, and what comes from outside is discarded but what R393
serves (R160, R391, R393). A host agent's write lands as plaintext, and its read changes nothing (R371). A CXL port that is down stays
so (R372). -/
def Sys2Proof.Claims.ErrorsAndHostAccesses : Prop :=
  (∀ (s : State) (a : Nat),
    (inMemory s a = true → 0 < s.pkg.dies →
      (∃ (d : Nat) (t : State), mayCount s a d ∧ exec (.memoryError a .corrected) s = .next t ∧
        t = { s with ceCnt := counted d s.ceCnt, free := t.free }) ∧
      (a / 64 ∉ s.poison → ∃ (d : Nat) (t : State), mayCount s a d ∧ exec (.memoryError a .uncorrectable) s = .next t ∧
        t = { s with poisCnt := counted d s.poisCnt, poison := a / 64 :: s.poison, free := t.free }) ∧
      (a / 64 ∈ s.poison → exec (.memoryError a .uncorrectable) s = .next s)) ∧
    (∀ die < s.pkg.dies, exec (.memoryError a (.correctedOn die)) s = .next { s with ceCnt := counted die s.ceCnt }) ∧
    (∀ (die slice i g : Nat) (b : Buf), (s.bufs.find? fun b => b.die = die ∧ b.slice = slice ∧ b.index = i ∧ b.st ≠ .free) = some b →
      64 * g < b.size → g ∉ b.poison → exec (.memoryError a (.scratchpad die slice i g)) s =
        .next { s.setBuf { b with poison := g :: b.poison } with poisCnt := counted die s.poisCnt }) ∧
    (∀ (die core n g : Nat) (q : HQueue), (s.hqs.find? fun q => q.die = die ∧ q.core = core ∧ q.num = n) = some q → g < 64 →
      g ∉ q.poison → ∃ t : State, exec (.memoryError a (.hwQueue die core n g)) s = .next t ∧
        (t.hqs.find? fun q => q.die = die ∧ q.core = core ∧ q.num = n) = some { q with poison := g :: q.poison } ∧
        t.poisCnt = counted die s.poisCnt) ∧
    ∀ k ∈ [MemErr.contextTable, .firmware], exec (.memoryError a k) s = .next (s.fatal 1)) ∧
  (∀ (s : State) (x : Nat), 120 * 16 ≤ x → exec (.overTemperature x) s = .next (({ s with temp := x } : State).fatal 3)) ∧
  (∀ (s : State) (cause : Nat), (s.fatal cause).bootstat = 3 ∧ (s.fatal cause).blocks = s.blocks ∧
    ((s.fatal cause).inbox = [] → ∃ t : State, step (s.fatal cause) = .next t ∧ t.mem = (s.fatal cause).mem ∧ t.bootstat = 3)) ∧
  (∀ (s : State) (i : Instr) (rest : List Instr), s.bootstat = 3 → s.inbox = i :: rest →
    ((∃ co a n bs, i = .hostMemoryAccess co a n (some bs)) ∨ (∃ src e o d, i = .putDelivery src e o d) ∨ (∃ w, i = .powerPointSelect w) ∨
      (∃ m r v, i = .ringConfigWrite m r v) → step s = .next { s with inbox := rest }) ∧
    ((∃ flash, i = .packageReset flash) ∨ (∃ c, i = .reset c) → step s = exec i { s with inbox := rest })) ∧
  (∀ (s : State) (co : Bool) (a n : Nat) (bs : List Byte),
    (0 < n → hostReaches s co a → hostReaches s co (a + n - 1) → exec (.hostMemoryAccess co a n none) s = .next s) ∧
    (bs ≠ [] → hostReaches s co a → hostReaches s co (a + bs.length - 1) →
      exec (.hostMemoryAccess co a n (some bs)) s = .next (s.writePhys none a bs))) ∧
  ∀ (s : State) (p : Nat), p < s.pkg.cxlPorts → ∃ t : State, exec (.cxlPortDown p) s = .next t ∧ t.cxlDown.contains p = true ∧
    t.mem = s.mem ∧ t.blocks = s.blocks
/-- The page service, migrations, memory errors and host accesses.
Where it goes past the words of the spec it rests on the model's choices of log entries 5, 34, 41, 42, 60, 87, 88 and 90. -/
def Obligations.MemoryServices : Prop :=
  Sys2Proof.Claims.MemoryServicesPieces ∧ Sys2Proof.Claims.ErrorsAndHostAccesses

/-- A port moves by Table LNK-3. One that leaves UP keeps its replay buffer, but for its NAKs, where no other port is
active, and one that becomes active numbers its flits from 0 and sends what it held, what other ports hold that are not active, and
what waited (R373 to R375). -/
def Sys2Proof.Claims.PortStates : Prop :=
  (∀ (s : State) (n : Nat) (p : Port),
    (PortIn s n p [.down] → exec (.portEnable n) s = .next (s.portTo n p .training)) ∧
    (PortIn s n p [.training] → s.ct ≥ p.since + 100000000 →
      exec (.trainingTimeout n) s = .next (s.portTo n { p with failures := p.failures + 1 }
        (if p.failures < 2 then .down else .failed))) ∧
    (∀ lost, PortIn s n p [.up, .degraded] → lost = true ∨ 64 < (p.replays.filter fun t => decide (s.ct < t + 1000000)).length →
      ∃ (t : State) (q : Port), (s.portTo n { p with replays := [] } .retrain).ports[n]? = some q ∧
        exec (.portRetrain { port := n, laneLost := lost }) s = .next t ∧
        t = (s.portTo n { p with replays := [] } .retrain).portTo n q .training) ∧
    (PortIn s n p [.down, .training, .up, .degraded, .retrain, .failed] →
      exec (.portDisable n) s = .next (s.portTo n p .failed)) ∧
    (PortIn s n p [.failed] → exec (.portReset n) s = .next (s.portTo n { p with failures := 0 } .down)) ∧
    ∀ lanes pkg, PortIn s n p [.training] → 1 ≤ lanes → lanes ≤ 4 → pkg < 1024 →
      let first := (s.ports[0]?).bind (·.peer)
      let t := s.portTo n
        { p with peer := some pkg, lanes := if lanes = 4 then 4 else if lanes = 1 then 1 else 2, failures := 0 }
        (if lanes = 4 then .up else .degraded)
      (n ≠ 0 → (∃ m, first = some m ∧ m ≠ pkg) →
        exec (.trainingEnd n lanes pkg) s = .next (s.portTo n { p with peer := some pkg } .failed)) ∧
      (n ≠ 0 → (∀ m, first = some m → m = pkg) → exec (.trainingEnd n lanes pkg) s = .next t) ∧
      (n = 0 → exec (.trainingEnd n lanes pkg) s = .next ((List.range t.ports.length).foldl (fun (u : State) k =>
        match (if k < u.pkg.ports then u.ports[k]? else none) with
        | some q => if k ≠ 0 ∧ q.st ∈ [.up, .degraded] ∧ q.peer ≠ some pkg then u.portTo k q .failed else u
        | none => u) { t with pkgNo := pkg }))) ∧
  ∀ (s : State) (n : Nat) (p q : Port) (st : PState), s.ports[n]? = some q →
    (st ∈ [.down, .training, .retrain] → p.st ∉ [.up, .degraded] →
      (s.portTo n p st).ports = s.ports.set n { p with st := st, since := s.ct } ∧ (s.portTo n p st).mem = s.mem ∧
      ∃ e, (s.portTo n p st).log = s.log ++ [e] ∧ e.kind = 3) ∧
    (st ∈ [.down, .training, .retrain] → p.st ∈ [.up, .degraded] → (∀ x ∈ s.ports.set n { p with st := st }, x.st ∉ [.up, .degraded]) →
      (s.portTo n p st).ports = s.ports.set n { p with st := st, since := s.ct, out := [], replay := p.replay.filter (!·.nak) }) ∧
    (st ∈ [.up, .degraded] →
      let others := s.ports.mapIdx fun k x => if k = n ∨ x.st ∈ [.up, .degraded] then [] else x.replay
      let kept := (p.replay ++ others.flatten).filter (!·.nak) ++ s.unsent
      ∃ t : State, t.unsent = [] ∧ t.mem = s.mem ∧ (s.portTo n p st).ports = (kept.foldl State.send t).ports ∧
        t.ports = s.ports.mapIdx fun k x =>
          if k = n then { p with st := st, since := s.ct, replay := [], out := [], txSeq := 0, rxSeq := 0 }
          else if x.st ∈ [.up, .degraded] then x else { x with replay := [], out := [] })

/-- A flit that fails its check or is out of order is discarded, and a NAK for the number expected is sent; another is taken in
order, and its ACK releases the replay buffer up to it, its NAK sends the rest again, acknowledging what has been received since (R374).
A response ends its request with the bytes that it carries (R379). -/
def Sys2Proof.Claims.Flits : Prop :=
  ∀ (s : State) (n : Nat) (p : Port) (f : Flit), PortIn s n p [.up, .degraded] →
    let put := fun (q : Port) => { s with ports := s.ports.set n q }
    let ends := fun (t : State) => if f.kind = 4 then t.answered f.tag f.payload.tail ((f.payload.headD 0).getLsbD 0) else t
    (f.ok = false ∨ f.seq ≠ p.rxSeq → ∃ (q : Port) (x : Flit), exec (.flitReceive n f) s = .next (put q) ∧ q.rxSeq = p.rxSeq ∧
      q.out = p.out ++ [x] ∧ x.nak = true ∧ x.ack = p.rxSeq ∧ x.seq = p.txSeq ∧ x.cred = min 255 p.freed ∧
      q.txSeq = (p.txSeq + 1) % 4096 ∧ q.freed = p.freed - x.cred ∧ q.replay.length ≤ max 512 p.replay.length ∧ x ∈ q.replay) ∧
    (f.ok = true → f.seq = p.rxSeq →
      let next := (p.rxSeq + 1) % 4096
      let left := (acked ((f.ack + 4095) % 4096) p.replay).map fun x => { x with nak := false, ack := (next + 4095) % 4096 }
      let q := { p with rxSeq := next, freed := if f.kind = 0 then p.freed else p.freed + 1 }
      (f.nak = false → exec (.flitReceive n f) s = .next (ends (put { q with replay := acked f.ack p.replay }))) ∧
      (f.nak = true → exec (.flitReceive n f) s = .next (ends (put { q with
        replay := left, out := p.out ++ left, replays := s.ct :: p.replays.filter fun t => decide (s.ct < t + 1000000) })))) ∧
    ∀ x ys, acked x ys = (if (ys.map (·.seq)).contains x then ys.drop ((ys.map (·.seq)).idxOf x + 1) else ys)

/-- A put that an export admits writes its bytes, with their poison, where its span lies once its pages are there, and raises WTGT by
one, and is acknowledged; one that it refuses raises nothing, writes none of its bytes, and is acknowledged as refused (R227, R378).
The acknowledgement of put n of an import raises WTGT over the puts delivered in a row, and of a
refused put it records REMOTE, at its block too (R228). Where no port has carried traffic for 10 ms, a put that is not acknowledged
fails with LINK, and accesses that are not answered end (R375). An access through the aperture reads, writes or updates within an
export's first 512 MiB and is answered; one that is not admitted changes nothing, and an atomic modifies no poisoned bytes (R160,
R376, R379). -/
def Sys2Proof.Claims.WindowTraffic : Prop :=
  (∀ (s t : State) (src exp toff : Nat) (d : Delivery),
    (s.deliver src exp toff d.bytes d.hostRefuses = .ok t →
      exec (.putDelivery src exp toff d) s = .next (t.sendAck src d.tag false) ∧
      ∃ (w : Win) (c : Ctx) (ps : List Piece) (u : State), s.export? exp = some w ∧ s.ctx? w.ctx = some c ∧
        (w.peer = 0xFFFF ∨ w.peer = src) ∧ toff + d.bytes.length ≤ w.size ∧
        (∃ v : State, s.openSpan c d.hostRefuses (pagesOf (d.bytes.length / 4096 + 2) (w.base + toff) d.bytes.length) = .ok v ∧
          v.reach c 0 0 (w.base + toff) d.bytes.length .write 9 = (.inr ps, u)) ∧
        t = (u.writeMarked ps d.bytes).setWin { w with wtgt := w.wtgt + 1 } ∧ t.mem = (u.writePieces ps (d.bytes.map (·.1))).mem) ∧
    (s.deliver src exp toff d.bytes d.hostRefuses = .refused t →
      exec (.putDelivery src exp toff d) s = .next (t.sendAck src d.tag true) ∧ t.wins = s.wins ∧
      ((∀ c ∈ s.ctxs, ∀ a, c.touch a = none) → t.mem = s.mem ∧ t.poison = s.poison)) ∧
    ((∀ w, s.export? exp = some w → ¬ ((w.peer = 0xFFFF ∨ w.peer = src) ∧ toff + d.bytes.length ≤ w.size)) →
      exec (.putDelivery src exp toff d) s = .next (s.sendAck src d.tag true) ∧ (s.sendAck src d.tag true).mem = s.mem)) ∧
  (∀ (s : State) (n win no : Nat) (w : Win), s.win? n win = some w → 
    let own := w.owners.find? (·.1 = no)
    let toff := (own.map fun x => x.2.2.2).getD 0
    let noted := fun (s : State) (reason : Nat) => match own with
      | some x => s.updBlock x.2.1 fun b =>
          { b with failv := insertFail (x.2.2.1, reason, x.2.2.2) b.failv, cpFail := b.cpFail + 1 }
      | none => s
    let other := fun (f : Flit) => !decide ((f.kind = 1 ∨ f.kind = 2) ∧ f.dest = w.peer ∧ f.tag = no % 65536)
    let failedWith := fun (w' : Win) (reason : Nat) => w'.fails = insertFail (no, reason, toff) w.fails ∧
      w'.wtgt = (w.tgtDone' no).wtgt ∧ (no ≤ w'.wsrc ∨ no ∈ w'.srcDone)
    (w.kind = 2 → 1 ≤ no → no ≤ w.puts → w.wtgt < no → no ∉ w.tgtDone →
      exec (.putAcknowledgement n win no false) s = .next (s.setWin (w.tgtDone' no)) ∧
      ∃ w' : Win, exec (.putAcknowledgement n win no true) s = .next ((noted s 7).setWin w') ∧ failedWith w' 7) ∧
    (s.linkFailed = true → own ≠ none → no ≤ w.wsrc ∨ no ∈ w.srcDone →
      ∃ w' : Win, failedWith w' 8 ∧ exec (.putLinkTimeout (.window n win) no) s = .next ((noted { s with
        unsent := s.unsent.filter other
        ports := s.ports.map fun p => { p with replay := p.replay.filter other, out := p.out.filter other } } 8).setWin w'))) ∧
  (∀ (s : State) (n : Nat), s.linkFailed = true →
    (∃ b ∈ s.blocks, (∃ r ∈ b.reqs, r.tags ≠ []) ∨ (∃ x ∈ b.mtx.beads, x.tags ≠ []) ∨ ∃ g ∈ b.groups, ∃ f ∈ g.flights, f.tags ≠ []) →
    exec (.putLinkTimeout .accesses n) s = .next s.failAsked ∧
    (∀ b ∈ s.failAsked.blocks, (∀ g ∈ b.groups, ∀ f ∈ g.flights, f.tags = []) ∧
      (∀ r ∈ b.reqs, r.tags = []) ∧ ∀ x ∈ b.mtx.beads, x.tags = []) ∧
    (∀ f ∈ s.failAsked.unsent, f.kind ≠ 3) ∧ ∀ p ∈ s.failAsked.ports, ∀ f ∈ p.replay ++ p.out, f.kind ≠ 3) ∧
  ∀ (s : State) (src exp off : Nat) (q : ApRequest), 
    let n := match q.acc with | .read n => n | .write bs => bs.length | .atomic _ n _ _ => n
    ((∀ w, s.export? exp = some w → (w.peer ≠ 0xFFFF ∧ w.peer ≠ src) ∨ min w.size (2 ^ 29) < off + n) →
      exec (.apertureAccess src exp off q) s = .next (s.respond src q.tag false [])) ∧
    ∀ (w : Win) (c : Ctx) (ps : List Piece) (t : State), s.export? exp = some w → s.ctx? w.ctx = some c →
      (w.peer = 0xFFFF ∨ w.peer = src) → off + n ≤ min w.size (2 ^ 29) →
      (q.acc = .read n → s.reach c 0 0 (w.base + off) n .read 9 = (.inr ps, t) → ∀ bs bad u, t.readPieces ps = ((bs, bad), u) →
        exec (.apertureAccess src exp off q) s = .next (u.respond src q.tag bad bs)) ∧
      (∀ bs, q.acc = .write bs → s.reach c 0 0 (w.base + off) n .write 9 = (.inr ps, t) →
        exec (.apertureAccess src exp off q) s = .next ((t.writeMarked ps bs).respond src q.tag false [])) ∧
      ∀ op x y, q.acc = .atomic op n x y → s.reach c 0 0 (w.base + off) n .both 9 = (.inr ps, t) → ∀ bs u,
        (t.readPieces ps = ((bs, true), u) → exec (.apertureAccess src exp off q) s = .next (u.respond src q.tag true bs)) ∧
        (t.readPieces ps = ((bs, false), u) → exec (.apertureAccess src exp off q) s =
          .next ((u.writePieces ps (leBytes n (apNew n (leVal bs) x y op))).respond src q.tag false bs))

/-- An access of the domain aperture asks the package that holds it: a store or an atomic with a request for each part, a read with one
for each granule, which name the export, the offset and what is asked for; the access completes in the cc after the last answer, with
the bytes that it gives, and with POISON on the lanes whose answer says so (R158, R160, R369, R374, R375, R379). Nothing is asked
where no part lies there or the link has failed. An engine's request is answered alike. -/
def Sys2Proof.Claims.RemoteAccesses : Prop :=
  (∀ (s : State) (r : PRef) (aw : Option Await) (xs : List ApPart), xs = [] ∨ s.linkFailed = true → s.asks r aw xs = s) ∧
  (∀ (s : State) (r : PRef) (xs : List ApPart), s.linkFailed = false → xs ≠ [] →
    let tag := s.uid % 65536
    let asked := fun (t : State) (port : Option Nat) (pa len : Nat) (q : Asking) =>
      let f : Flit :=
        { seq := 0, ack := 0, nak := false, kind := 3, cred := 0, dest := pa / 2 ^ 41 % 2 ^ 10, src := s.pkgNo, tag := tag, ok := true,
          payload := leBytes 8 (pa / 2 ^ 29 % 2 ^ 12 + 2 ^ 16 * (pa % 2 ^ 29)) ++ leBytes 1 q.code ++ leBytes 1 len ++
            leBytes 8 (boolMask q.bad) ++ q.data }
      ({ t with uid := s.uid + 1 } : State).sendVia port f
    let waits := fun (u : State) (ask : Option Await) => u.updGroup r.blk r.grp fun g => { g with
      flights := g.flights.map fun (x : Flight) => if x.id = s.uid - 1 then { x with due := none, tags := [tag], ask := ask } else x }
    (∀ l off p q, xs = [(l, off, p, q)] → s.asks r none xs = waits (asked s.pickPort.2 s.pickPort.1 p.pa p.len q) none) ∧
    ∀ (a : Await) (gr : Nat), a.op = none → (∀ x ∈ xs, x.2.2.1.pa / 64 = gr ∧ 0 < x.2.2.1.len ∧ x.2.2.1.pa + x.2.2.1.len ≤ 64 * gr + 64) →
      ∃ lo hi : Nat, (∀ x ∈ xs, lo ≤ x.2.2.1.pa ∧ x.2.2.1.pa + x.2.2.1.len ≤ hi) ∧ lo / 64 = gr ∧ hi ≤ 64 * gr + 64 ∧
        s.asks r (some a) xs = waits (asked s.pickPort.2 s.pickPort.1 lo (hi - lo) {}) (some { a with
          parts := xs.map fun x => (x.1, x.2.1, x.2.2.1.len, tag, x.2.2.1.pa - lo) })) ∧
  (∀ (s : State) (f : Flit), (∀ p ∈ s.ports, p.st ∉ [.up, .degraded]) → s.send f = { s with unsent := s.unsent ++ [f] }) ∧
  (∀ (cc tag : Nat) (bs : List Byte) (bad : Bool) (f : Flight),
    (tag ∉ f.tags → f.answer cc tag bs bad = f) ∧
    (f.tags = [tag] →
      (f.ask = none → f.answer cc tag bs bad = { f with tags := [], due := some (cc + 1) }) ∧
      ∀ a, f.ask = some a →
        let b := a.take tag bs bad
        let val := valOf (b.lanes.map fun x => (x.1, x.2.1))
        let g := f.answer cc tag bs bad
        g.tags = [] ∧ g.due = some (cc + 1) ∧ g.ask = none ∧
        g.writes = (match a.d with
          | none => []
          | some d => accWr a.u d a.regs a.e fun l => if a.op = none then loaded a.u a.w (val l) else val l) ∧
        ((∀ x ∈ b.lanes, x.2.2 = false) → g.poison = none) ∧
        (a.u = false → (∃ x ∈ b.lanes, x.2.2 = true) →
          g.poison = some (lanesWhere fun l => b.lanes.any fun x => x.1 == l && x.2.2, a.addrs)))) ∧
  (∀ (a : Await) (tag l x n o : Nat) (b bad : Bool) (bs : List Byte), a.lanes = [(l, x, b)] → a.parts = [(l, 0, n, tag, o)] →
    x < 2 ^ (8 * n) → o + n ≤ bs.length → (a.take tag bs bad).lanes = [(l, leVal ((bs.drop o).take n), b || bad)]) ∧
  ∀ (cc tag pa n : Nat) (bs : List Byte) (bad : Bool), 0 < n →
    (∀ r : CopyReq, r.tags = [(tag, pa, n)] →
      r.answer cc tag bs bad = { r with tags := [], got := r.got ++ [(pa, bs.take n, bad)], due := some (cc + 1) }) ∧
    ∀ x : Bead, x.tags = [(tag, pa, n)] →
      x.answer cc tag bs bad = { x with tags := [], got := x.got ++ [(pa, bs.take n, bad)], due := some (cc + 1) }
/-- Ports, flits and the traffic of windows.
Where it goes past the words of the spec it rests on the model's choices of log entries 21, 45 and 71. -/
def Obligations.Link : Prop :=
  Sys2Proof.Claims.PortStates ∧ Sys2Proof.Claims.Flits ∧ Sys2Proof.Claims.WindowTraffic ∧ Sys2Proof.Claims.RemoteAccesses

/-- A package reset measures the ROM and the fuses, then each image, and is READY when seven images pass; the first that fails
leaves BOOT_FAILED with its step and number, and so does one that the flash lacks; memory and the fuses outlive it (R381). A firmware core whose heartbeats are missing is
verified again; a second miss within 1 s is fatal (R382). -/
def Sys2Proof.Claims.BootAndWatchdog : Prop :=
  (∀ (s : State) (flash : List FwImage),
    let t := (s.warm.extend 0 Config.romDigest).extend 0 (Config.fuseDigest s.warm.fuseWord)
    (7 ≤ flash.length → (∀ i ∈ flash.take 7, imageSigned i = true ∧ s.fwsv ≤ i.sv) →
      ∃ u : State, exec (.packageReset flash) s = .next u ∧ u.bootstat = 1 ∧ u.ct = 0 ∧ u.owner = none ∧ u.blocks = [] ∧
        u.mem = s.mem ∧ u.fwsv = s.fwsv ∧ u.codesv = s.codesv ∧ u.mr.getD 0 0 = t.mr.getD 0 0) ∧
    ∀ pre rest, flash = pre ++ rest → pre.length < 7 → (∀ i ∈ pre, imageSigned i = true ∧ s.fwsv ≤ i.sv) →
      let ends := fun (step : Nat) => ∃ u : State, exec (.packageReset flash) s = .next u ∧ u.mem = s.mem ∧
        u.bootstat = BitVec.ofNat 64 (2 + 256 * step + 65536 * (pre.length + 1))
      (rest = [] → ends 1) ∧
      ∀ i more, rest = i :: more →
        (imageSigned i = false → ends 2) ∧ (imageSigned i = true → i.sv < s.fwsv → ends 3)) ∧
  ∀ (s : State) (k : Nat) (image : FwImage), 1 ≤ k → k ≤ 7 → s.bootstat = 1 →
    let t := { s.logEvent 2 0xFFFF 0 0 0 k with misses := (k, s.ct) :: s.misses.filter (·.1 ≠ k) }
    ((∃ m ∈ s.misses, m.1 = k ∧ s.ct < m.2 + 1000000000) → exec (.heartbeatMiss k image) s = .next (t.fatal 2)) ∧
    ((∀ m ∈ s.misses, m.1 = k → m.2 + 1000000000 ≤ s.ct) → ∃ u : State, exec (.heartbeatMiss k image) s = .next u ∧ u.log = t.log ∧
      (imageSigned image = true → s.fwsv ≤ image.sv → u = t))

/-- A write of the low half of CLAIM keeps it, and one of the high half claims: a token other than 0 makes its master the owner of a
READY package without one, unless a handover waits for another token; of two claims in one ct the host port's goes first; a handover
lapses after 1 s (R385, R387). FEATDRV is the master's word, half by half, and its active set the AND with the device's; FEATACT is the
owner's active set (R386; log 60). The ring registers take a write only while the rings are idle; a write outside the registers, or not
of 8 bytes, is discarded, and any master reads them, the doorbells as 0 (R370); a CQTAIL too far ahead and an RQCONS beyond the
responses are discarded, and others let commands be taken up (R387, R388). -/
def Sys2Proof.Claims.MastersAndRings : Prop :=
  (∀ (s : State) (v x : W64), s.bootstat = 1 → s.owner = none → s.handover = none →
    (v ++ (s.master .bmc).low : BitVec 128) ≠ 0 → (x ++ (s.master .host).low : BitVec 128) ≠ 0 → s.inbox.filterMap hostClaim = [⟨true, x⟩] →
    ∃ t : State, exec (.claim .bmc ⟨true, v⟩) s = .next t ∧ t.owner = some .host) ∧
  (∀ (s : State) (m : Master) (v : W64), s.bootstat = 1 → (m = .bmc → s.inbox.filterMap hostClaim = []) →
    let token : BitVec 128 := v ++ (s.master m).low
    let t := s.setMaster { s.master m with token := token }
    exec (.claim m ⟨false, v⟩) s = .next (s.setMaster { s.master m with low := v }) ∧
    (token = 0 → exec (.claim m ⟨true, v⟩) s = .next s) ∧
    (token ≠ 0 → s.owner ≠ none → exec (.claim m ⟨true, v⟩) s = .next t) ∧
    (token ≠ 0 → s.owner = none → s.handover = none → exec (.claim m ⟨true, v⟩) s = .next { t with owner := some m }) ∧
    (∀ x at', token ≠ 0 → s.owner = none → s.handover = some (x, at') →
      exec (.claim m ⟨true, v⟩) s = .next (if x = token then { t with owner := some m, handover := none } else t)) ∧
    exec (.featureWord m ⟨false, v⟩) s =
      .next (s.setMaster { s.master m with feat := (s.master m).feat.extractLsb' 64 64 ++ v }) ∧
    exec (.featureWord m ⟨true, v⟩) s =
      .next (s.setMaster { s.master m with feat := v ++ (s.master m).feat.extractLsb' 0 64 }) ∧
    ∀ w : BitVec 128, ({ s.master m with feat := w } : MasterSt).active = w &&& 0x1F) ∧
  (∀ (s : State) (m o : Master), (s.owner = some o → s.bar2Read m 0x30 = ((s.master o).feat &&& 0x1F).extractLsb' 0 64) ∧
    (s.owner = none → s.bar2Read m 0x30 = 0) ∧ s.bar2Read m 0x38 = 0) ∧
  (∀ (s : State) (x : BitVec 128) (at' : Nat), s.handover = some (x, at') → at' + 1000000000 ≤ s.ct →
    exec .handoverTimeout s = .next { s with handover := none }) ∧
  (∀ (s : State) (m : Master) (r : RingReg) (v : W64),
    let x := s.master m
    let idle := x.cqhead = x.cqtail ∧ x.owed = 0 ∧ x.written % 2 ^ 32 = x.rqcons
    (¬idle → exec (.ringConfigWrite m r v) s = .next s) ∧
    (idle → exec (.ringConfigWrite m r v) s = .next (s.setMaster (match r with
      | .cqbase => { x with cqbase := v.toNat / 4096 * 4096 }
      | .cqlog => { x with cqlog := v.toNat }
      | .rqbase => { x with rqbase := v.toNat / 4096 * 4096 })))) ∧
  (∀ (s : State) (bar off : Nat) (w : RegWrite),
    (bar = 2 ∧ (off ∉ [0x10, 0x18, 0x40, 0x48, 0x100, 0x108, 0x110, 0x120, 0x128] ∨ w.width ≠ 8) ∨
      bar = 0 ∧ (off % 4096 ≠ 0 ∨ w.width ≠ 8)) →
    exec (.registerWriteIgnored bar off w) s = .next s) ∧
  (∀ (s : State) (m : Master) (off : Nat), s.bar0Read off = 0 ∧ s.bar2Read m 0 = s.bootstat ∧
    s.bar2Read m 0x50 = BitVec.ofNat 64 (s.ownStat m) ∧ s.bar2Read m 0x118 = BitVec.ofNat 64 (s.master m).cqhead ∧
    s.bar2Read m 0x800 = BitVec.ofNat 64 s.logHead ∧ (off ∈ [0x10, 0x18, 0x40, 0x48, 0x110, 0x128] → s.bar2Read m off = 0)) ∧
  ∀ (s : State) (m : Master) (n : BitVec 32),
    let x := s.master m
    let ahead := fun (a b : Nat) => (a + 2 ^ 32 - b) % 2 ^ 32
    (2 ^ x.logN < ahead n.toNat x.cqhead → exec (.commandDoorbell m n) s = .next s) ∧
    (ahead n.toNat x.cqhead ≤ 2 ^ x.logN →
      exec (.commandDoorbell m n) s = .next ((s.setMaster { x with cqtail := n.toNat }).takeUp m [] 4096)) ∧
    (ahead (x.written % 2 ^ 32) x.rqcons < ahead n.toNat x.rqcons → exec (.responseConsume m n) s = .next s) ∧
    (ahead n.toNat x.rqcons ≤ ahead (x.written % 2 ^ 32) x.rqcons →
      exec (.responseConsume m n) s = .next ((s.setMaster { x with rqcons := n.toNat }).takeUp m [] 4096))
/-- Boot, the watchdog, claims, handover and the rings of the masters.
Where it goes past the words of the spec it rests on the model's choices of log entries 6, 42, 43, 60 and 70. -/
def Obligations.BootAndOwnership : Prop :=
  Sys2Proof.Claims.BootAndWatchdog ∧ Sys2Proof.Claims.MastersAndRings

/-- Taking up commands (R388, R389): the device reads the entry at CQHEAD and advances it; a listed command goes to its core, one
that is not listed is OPCODE; nothing is taken up without an entry or without room for its response. -/
def Sys2Proof.Claims.CommandTakeUp : Prop :=
  ∀ (s : State) (m : Master) (acc : List Instr) (n : Nat), s.bootstat = 1 →
    let x := s.master m
    (x.cqhead = x.cqtail ∨ x.room = false → s.takeUp m acc (n + 1) = { s with inbox := acc ++ s.inbox }) ∧
    ∀ bs, x.cqhead ≠ x.cqtail → x.room = true → s.busRead (x.cqbase + 64 * (x.cqhead % 2 ^ x.logN)) 64 = some bs →
      let c := Cmd.ofBytes m bs
      let t := s.setMaster { x with cqhead := (x.cqhead + 1) % 2 ^ 32, owed := x.owed + 1 }
      (∀ i, c.instr = some i → s.takeUp m acc (n + 1) = t.takeUp m (acc ++ [i]) n) ∧
      (c.instr = none → s.takeUp m acc (n + 1) = (t.answer c 0x30 0).takeUp m acc n) ∧
      c.opc = fieldAt bs 0 2 ∧ c.tag = BitVec.ofNat 32 (fieldAt bs 4 4) ∧ c.resv = fieldAt bs 2 2 ∧
      ∀ i, i < 7 → c.args[i]? = some (BitVec.ofNat 64 (fieldAt bs (8 + 8 * i) 8))
/-- Commands: their take-up from a ring, their checks and their responses.
Where it goes past the words of the spec it rests on the model's choices of log entry 43. -/
def Obligations.CommandsAndResponses : Prop :=
  Sys2Proof.Claims.CommandsAndResponsesPieces ∧ Sys2Proof.Claims.CommandTakeUp

/-- The power core chooses the highest point whose limit the cap allows; a junction above 105 °C takes a step down, and 10 ms below
95 °C give one back; one from 95 °C to 105 °C ends the 10 ms (R394, R395). -/
def Sys2Proof.Claims.PowerPoints : Prop :=
  (∀ (s : State) (w : Nat), exec (.powerPointSelect w) s = .next (atPoint { s with pwrnow := w })) ∧
  (∀ (s : State) (x : Nat), 95 * 16 ≤ x → x ≤ 105 * 16 →
    exec (.thermalStepUp x) s = .next { s with temp := x, coolSince := none }) ∧
  (∀ (s : State) (x : Nat), 105 * 16 < x → x < 120 * 16 → exec (.thermalStepDown x) s = .next (atPoint
    { s with temp := x, coolSince := none, thermal := if s.dvfs < 3 then s.thermal + 1 else s.thermal })) ∧
  ∀ (s : State) (x : Nat), x < 95 * 16 →
    (s.coolSince = none → exec (.thermalStepUp x) s = .next { s with temp := x, coolSince := some s.ct }) ∧
    ∀ t, s.coolSince = some t →
      (s.ct < t + 10000000 → exec (.thermalStepUp x) s = .next { s with temp := x }) ∧
      (t + 10000000 ≤ s.ct → exec (.thermalStepUp x) s = .next (atPoint
        { s with temp := x, thermal := s.thermal - 1, coolSince := some s.ct }))
/-- The commands on fuses, ownership, measurement and power, and the power points.
Where it goes past the words of the spec it rests on the model's choices of log entries 44 and 48. -/
def Obligations.TrustAndPower : Prop :=
  Sys2Proof.Claims.TrustAndPowerCommands ∧ Sys2Proof.Claims.PowerPoints

/-! ## The machine: decoding, reads and results, issue checks, steps, invariants -/

namespace Sys2Proof.Claims

/-- Registers that an instruction of a register-only form may kill: those its operand fields name with L = 1. -/
def Spares (ops : List (BitVec 9)) (n : Nat) : Prop := ∀ x ∈ ops, opL x = true → n < opReg x ∨ opReg x + 2 ≤ n
/-- What an instruction that acts on registers alone leaves as it was: everything outside its group but the model's counters; in
the group every predicate, edge predicate, tile view, system register but STALE, the stack, the tokens, the exited lanes, the
handlers, its role, its slot, its place and its age, its locket's fences, what its steward has chosen, this cc's completions, the path
of the other slot and its own lanes, and the hardware sequence of stochastic rounding unless the instruction rounds (R73); of the
registers, all but those killed; and every result that is in flight stays so. -/
def Framed (s t : State) (c : Cur) (rounds : Bool) (ops : List (BitVec 9)) : Prop :=
  ∃ (g : Group), t = withGroup { s with uid := t.uid, free := t.free } c g ∧
    g.p = c.g.p ∧ g.q = c.g.q ∧ g.e = c.g.e ∧ g.t = c.g.t ∧ g.fflags = c.g.fflags ∧ g.staleEn = c.g.staleEn ∧ g.qovf = c.g.qovf ∧
    g.b8fmt = c.g.b8fmt ∧ g.trapnest = c.g.trapnest ∧ g.lkgen = c.g.lkgen ∧ g.stack = c.g.stack ∧ g.toks = c.g.toks ∧
    g.exited = c.g.exited ∧ g.traps = c.g.traps ∧ g.fm = c.g.fm ∧ g.kinds = c.g.kinds ∧ g.tag = c.g.tag ∧ g.cancel = c.g.cancel ∧
    g.role = c.g.role ∧ g.st = c.g.st ∧ g.slotNo = c.g.slotNo ∧ g.index = c.g.index ∧ g.fences = c.g.fences ∧
    g.fenceFail = c.g.fenceFail ∧ g.victim = c.g.victim ∧ g.age = c.g.age ∧ g.landed = c.g.landed ∧
    (rounds = false → g.seq = c.g.seq) ∧
    (g.path? (1 - c.ref.slot) = c.g.path? (1 - c.ref.slot)) ∧
    ((g.path? c.ref.slot).map (·.mask) = some c.p.mask) ∧
    (∀ n, Spares ops n → (∀ l, g.lane? n l = c.g.lane? n l) ∧ g.gval? n = c.g.gval? n) ∧
    ∃ new : List Flight, g.flights = c.g.flights ++ new
/-- The outcomes of an instruction of a register-only form: the frame above, a trap, with STALE as the reads leave it (R114), or a
stall (R112). -/
def RegistersOnly (i : Instr) (rounds : Bool) (ops : List (BitVec 9)) : Prop :=
  ∀ (s t : State) (c : Cur), s.cursor = some c → c.ref.slot < 2 → exec i s = .next t →
    (∃ (f : Fault2) (stale : Bool), t = s.trap { c with g := { c.g with stale := stale } } f) ∨ (∃ n : Need, t = s.stall c n) ∨ Framed s t c rounds ops

/-- The V3 instructions of classes ALU and FLT that read no floating rounding source. -/
def plainV3 : List (V3 → Instr) :=
  [.mov, .add, .sub, .mul, .mulhi, .mad, .addw, .subw, .mulw, .abs, .andR, .orR, .xorR, .andn, .orn, .shl, .shr, .sar, .rotl, .min,
   .max, .adds, .subs, .clz, .ctz, .popc, .brev, .bfx, .bfi, .sel, .lea, .leaw, .laneid, .ballot, .mkpred, .vote, .rdlane, .wrlane,
   .perm, .vget, .vput, .prmt, .bdep, .bext, .fmin, .fmax, .fabs, .fneg, .fsign, .frcp, .frsq, .fexp2, .flog2, .fsinpi, .fcospi,
   .ftanh, .fclass, .fclamp, .exp8, .fdot2, .fdot4b8, .idot4]
/-- The floating instructions whose rounding may read the group's hardware sequence (R72): all but that sequence is framed. -/
def roundedV3 : List (V3 → Instr) :=
  [.fadd, .fsub, .fmul, .fma, .fdiv, .fsqrt, .frnd, .fcvt, .f2i, .i2f, .cvt8, .fscale, .red, .scan]

/-- The source lane of Table REG-4: pattern X with its parameter, for lane i. -/
def sourceLane (x k i : Nat) : Nat :=
  match x with
  | 0 => i
  | 1 => k
  | 2 => (i + 32 - k) % 32
  | _ => if k < 32 then Nat.xor i k else let sz := 2 ^ (k % 8); (i - i % sz) + sz - 1 - i % sz

/-- The path of a slot comes to an instruction: it is there, no fault and no cancellation that a handler held back waits for it, and
its header is behind it. -/
abbrev AtInstruction (s : State) (r : PRef) (b : Block) (c : Ctx) (g : Group) (p : Path) : Prop :=
  s.block? r.blk = some b ∧ b.groups[r.grp]? = some g ∧ s.ctx? b.ctx = some c ∧ g.path? r.slot = some p ∧ p.held = none ∧
    g.poisoned? p = none ∧ (p.index ≠ 15 ∨ p.hdrDone = true) ∧ (p.owesCancel = true → g.cancelDue p = none)
/-- The instruction that the path stands at. -/
def indexOf (p : Path) : Nat := if p.index = 15 then 0 else p.index
/-- The path as its instruction issues. -/
def standing (s : State) (r : PRef) (p : Path) : State := s.updPath r fun q => { q with index := indexOf p, cond := .ready }

/-- Some path that a group knows has a flight on its scoreboard (R94). -/
def Awaited (g : Group) (id : Nat) : Prop :=
  (∃ p ∈ [g.slot0, g.slot1] ++ g.traps.flatMap (fun t => [t.other, some t.trapped]), ∃ q, p = some q ∧ id ∈ q.board) ∨
    (∃ e ∈ g.stack, id ∈ e.board) ∨ ∃ k ∈ g.toks, id ∈ k.board
/-- The place of a class in the grant order of R233: even cc res first, odd cc res last. -/
def grantRank (cc cls : Nat) : Nat :=
  if cc % 2 = 0 then 2 - cls else if cls = 2 then 2 else 1 - cls

end Sys2Proof.Claims

/-- Words of the spec, one of each class, decode to the instructions that they stand for: `add v5, v6:rot1, v7~` short and, with a
guard and another rotation, long; `ld.b32.acq.die v2, [g5 + v7 + 64]`; `fdiv.f64.rup v2.w, v4.w, v6.w`;
`samo.add.b32 v6, [g9 + v1], v2`; `mma.die a1, t2, t3, e2, e3, g25, wait c4:1, arrive c5`; `(p3) bra`; `csrw trapnest, g60`. -/
def Obligations.WordsOfTheSpec : Prop :=
  decode .alu 0x0114643C none =
    .ok (.add { s := false, u := false, d := 5, a := 0x032, b := 0x03C, ext := none }) ∧
  decode .alu 0x0114643C (some 0x50006000) =
    .ok (.add { s := false, u := false, d := 5, a := 0x032, b := 0x03C,
                ext := some { gp := 2, gi := true, c := 0, pa := 3, pb := 0, rm := 0, sat := false, sub := 0 } }) ∧
  decode .mem 0x0008702C (some 0xE5200040) =
    .ok (.ld { s := false, u := false, d := 2, a := 0x038, base := 5, w := 4,
               ext := some { gp := 7, gi := false, scope := 5, order := 1, imm := 64 } }) ∧
  decode .flt 0x12084030 (some 0xE0000031) =
    .ok (.fdiv { s := false, u := false, d := 2, a := 0x020, b := 0x030,
                 ext := some { gp := 7, gi := false, c := 0, pa := 0, pb := 0, rm := 3, sat := false, sub := 1 } }) ∧
  decode .loc 0x0618104C (some 0xE3010000) =
    .ok (.samo { s := false, u := false, d := 6, a := 0x008, base := 9, w := 4,
                 ext := some { gp := 7, gi := false, scope := 3, order := 0, data := 0x010, cmp := 0, typ := 0 } }) ∧
  decode .eng 0x054234D9 (some 0xE5382028) =
    .ok (.mma { s := false, u := false, acc := 1, clr := false, ser := false, ta := 2, tb := 3, er := 2, ec := 3,
                gk := 25, ext := some { gp := 7, gi := false, scope := 5, af := 0, we := true, wpar := true,
                                        ae := true, wcl := 4, acl := 5, z := 0 } }) ∧
  decode .ctl 0x0030000F none =
    .ok (.bra { s := false, u := false, sel := 3, inv := false, off := 15, ext := none }) ∧
  decode .sys 0x0303C004 none =
    .ok (.csrw { s := false, u := false, d := 0, a := 0x1E0, imm := 4, ext := none })

/-- Decode and encode agree: for every well-formed instruction that words encode, with every operand at every value that its
fields hold, the decoder reads the encoder's words as that instruction. -/
def Obligations.DecodeOfEncode : Prop :=
  ∀ (i : Instr) (c : Cls) (w : W32) (x : Option W32), i.WellFormed → encode i = some (c, w, x) → decode c w x = .ok i
/-- Whatever the decoder reads as an instruction is well formed, and is what the encoder gives those words: every bit of the words
counts. Words that it refuses carry the first failing check of R54. -/
def Obligations.EncodeOfDecode : Prop :=
  (∀ (c : Cls) (w : W32) (x : Option W32) (i : Instr), decode c w x = .ok i → i.WellFormed ∧ encode i = some (c, w, x)) ∧
  ∀ (c : Cls) (w : W32) (x : Option W32) (e : OpErr), decode c w x = .error e →
    (e = .unassigned ∧ rawInstr c w x = none) ∨ ∃ i : Instr, rawInstr c w x = some i ∧ i.bad.first = some e

/-- The operands of an instruction are read through the crossbar of Table REG-4, each member of a pair and more by the same lane,
0 where the lane is dead or the register unmapped (R108, R114, R120); a last use marks the lanes dead that it read, and releases a
register without a live lane, or a group register (R113), except what the other path's completion wrote in the same cc. -/
def Obligations.OperandReadsAndKills : Prop :=
  (∀ (x k i : Nat), x < 4 → i < 32 → (x = 0 → k = 0) → (x = 1 → k < 32) → (x = 2 → k < 32) → (x = 3 → k < 32 ∨ (32 < k ∧ k < 38)) →
    srcLane x k i = sourceLane x k i ∧ srcLane x k i < 32) ∧
  (∀ (g : Group) (n x k l : Nat) (last : Bool),
    let o := vsrc (BitVec.ofNat 6 n ++ BitVec.ofBool last ++ BitVec.ofNat 2 x) (BitVec.ofNat 6 k) 1 1
    n < 64 → x < 4 → k < 64 → g.read o l = (g.lane? n (srcLane x k l)).getD 0) ∧
  (∀ x : BitVec 9, paramShort x = if opX x = 0 ∨ opX x = 1 then 0 else 1) ∧
  (∀ (g : Group) (o : Src) (j l : Nat), o.grp = false → j < o.n →
    g.read o l / 2 ^ (32 * j) % 2 ^ 32 = (g.lane? (o.num + j) (o.lane l)).getD 0) ∧
  (∀ (g : Group) (o : Src) (l : Nat), o.grp = true → g.read o l = (g.gval? o.num).getD 0 ∧ g.gval? 0 = some 0) ∧
  (∀ (g : Group) (slot : Nat) (e : Mask) (o : Src) (n l : Nat), o.grp = false → o.n = 1 → o.map = [] → o.num < g.v.length → l < 32 →
    (g.kill slot e o).lane? n l =
      if o.l = true ∧ n = o.num ∧ ((List.range 32).any fun i => e.getLsbD i && srcLane o.x o.par i == l) = true ∧
          (g.sparedV slot n).getLsbD l = false then none
      else g.lane? n l) ∧
  (∀ (g : Group) (slot : Nat) (e : Mask) (o : Src) (n : Nat), o.grp = true → o.n = 1 → n ≠ 0 →
    (g.kill slot e o).gval? n = if o.l = true ∧ n = o.num ∧ g.sparedG slot n = false then none else g.gval? n)

/-- A write becomes visible by the merge of R112: the lanes of E take the value and are live, every other lane is as the register
had it; no other register changes. A group register takes its value, and a write of g0
is discarded (R108). Predicates take the lanes of E (R109). -/
def Sys2Proof.Claims.MergeAtCompletion : Prop :=
  (∀ (g : Group) (n m l : Nat) (e : Mask) (x : List W32), n < g.v.length → l < 32 →
    (g.complete (.v n e x)).lane? m l =
      if m ≠ n then g.lane? m l
      else if e.getLsbD l then some (x.getD l 0).toNat else g.lane? n l) ∧
  (∀ (g : Group) (n m : Nat) (x : W64), n < g.g.length →
    (g.complete (.g n x)).gval? m = if m = n ∧ n ≠ 0 then some x.toNat else g.gval? m) ∧
  (∀ (g : Group) (n m l : Nat) (e x : Mask), n < 7 → g.p.length = 7 → l < 32 →
    ((g.complete (.p n e x)).pmask m).getLsbD l =
      if m = n ∧ e.getLsbD l = true then x.getLsbD l else (g.pmask m).getLsbD l) ∧
  (∀ (g : Group) (n m : Nat) (x : Bool), n < 7 → g.q.length = 7 →
    (g.complete (.q n x)).qbit m = if m = n then x else g.qbit m) ∧
  ∀ (g : Group) (w : Wr), g.complete w = { g with
    v := (g.complete w).v, g := (g.complete w).g, p := (g.complete w).p, q := (g.complete w).q }

/-- The completion of a fixed result, of a variable one and of a store, at its time: the writes of the flight become visible in
order, its flags are set (R65), the system register that a `csrw` replaces takes its value (R312), and the flight is gone from the
group and every scoreboard (R94). A result of a path that no lane is left of is discarded: it writes nothing (R94, R114). Data that
was poisoned writes nothing: it has arrived, and POISON waits for the path (R160). What is not in flight does not complete. -/
def Sys2Proof.Claims.ResultsArrivePieces : Prop :=
  ∀ (s : State) (b : Block) (g : Group) (f : Flight) (blk grp : Nat), s.block? blk = some b → b.groups[grp]? = some g →
    f ∈ g.flights → g.flights.find? (·.id = f.id) = some f →
    ∀ i ∈ [Instr.fixedResultComplete blk grp f.id, .variableResultArrival blk grp f.id, .storeCompletion blk grp f.id],
      let lost := g.st = .exited ∨ (f.board = true ∧ ¬ Awaited g f.id)
      (f.poison = none → lost → ∃ (t : State) (g' : Group), exec i s = .next t ∧ t.group? blk grp = some g' ∧ t.mem = s.mem ∧
        g'.v = g.v ∧ g'.g = g.g ∧ g'.p = g.p ∧ g'.q = g.q ∧ (f.csr = none → g'.fflags = g.fflags) ∧
        ∀ x ∈ g'.flights, x.id ≠ f.id ∧ x ∈ g.flights) ∧
      (f.poison = none → ¬ lost → ∃ (t : State) (g' : Group), exec i s = .next t ∧ t.group? blk grp = some g' ∧
        t.mem = s.mem ∧ t.cc = s.cc ∧
        g'.v = (f.writes.foldl Group.complete g).v ∧ g'.g = (f.writes.foldl Group.complete g).g ∧
        g'.p = (f.writes.foldl Group.complete g).p ∧ g'.q = (f.writes.foldl Group.complete g).q ∧
        (∀ x ∈ g'.flights, x.id ≠ f.id ∧ x ∈ g.flights) ∧ (∀ p, g'.slot0 = some p → f.id ∉ p.board) ∧
        (∀ p, g'.slot1 = some p → f.id ∉ p.board) ∧
        (f.csr = none → g'.fflags = g.fflags ||| f.flags ∧ g'.stale = g.stale ∧ g'.b8fmt = g.b8fmt ∧ g'.trapnest = g.trapnest) ∧
        (∀ y : W64, f.csr = some (0, y) → g'.fflags = y.toNat % 32) ∧
        (∀ y : W64, f.csr = some (1, y) → g'.stale = y.getLsbD 0 ∧ g'.staleEn = y.getLsbD 1 ∧ g'.qovf = y.getLsbD 2) ∧
        (∀ y : W64, f.csr = some (2, y) → g'.b8fmt = y) ∧ (∀ y : W64, f.csr = some (4, y) → g'.trapnest = y) ∧
        (∀ y : W64, f.csr = some (3, y) → ∀ b', t.block? blk = some b' → b'.mtx.mflags = y.toNat % 128)) ∧
      (f.poison ≠ none → Awaited g f.id → ∃ (t : State) (g' : Group), exec i s = .next t ∧ t.group? blk grp = some g' ∧
        g'.v = g.v ∧ g'.g = g.g ∧ g'.p = g.p ∧ g'.q = g.q ∧ g'.fflags = g.fflags ∧
        ∃ f' ∈ g'.flights, f'.id = f.id ∧ f'.arrived = true ∧ f'.writes = [] ∧ f'.due = none ∧ f'.poison = f.poison) ∧
      ∀ id, (∀ x ∈ g.flights, x.id ≠ id) → exec (.fixedResultComplete blk grp id) s = .fault .noSuchEvent
/-- What a completion does to the registers, and the completion events (R112, R115, R160). -/
def Obligations.ResultsArrive : Prop :=
  Sys2Proof.Claims.MergeAtCompletion ∧ Sys2Proof.Claims.ResultsArrivePieces

/-- The checks of an issue, for the integer instructions of one register per operand (R54, R111, R112, R114, R117): a register at or
above the kernel's count is ILLEGAL_REG with the class's subcode; with E empty the path goes on and nothing else changes; a lane
that is read and absent sets STALE; under STALEEN it is STALE_READ with the lowest operand's subcode and the absent lanes, and
otherwise the instruction has its effect; a res group past its max-live is ILLEGAL_REG MAX_LIVE, and another that finds no
register stalls before it issues. An instruction of the matrix or the copy engine in a group without the role is ROLE.
Where it goes past the words of the spec it rests on the model's choices of log entry 25. -/
def Obligations.IssueChecks : Prop :=
  (∀ p ∈ intOps ++ logicOps, ∀ (s : State) (c : Cur) (f : V3), s.cursor = some c →
    let srcs := f.srcs 1 p.nb p.nc
    let e := f.mask c
    let count := if f.u then c.k.gregs else c.k.vregs
    let below := ∀ o ∈ srcs ++ [f.dst 1], o.num < count
    let kills := c.g.killAll c.ref.slot e srcs
    let gaps := srcs.map fun o => (o.field, c.g.absent o e)
    (¬ below → exec (p.ins f) s = .next (s.trap c { cause := 0x03, sub := if f.u then 2 else 1 })) ∧
    (below → e = 0 → exec (p.ins f) s = .next (issued s c 0 [] f.s)) ∧
    (below → e ≠ 0 → c.g.staleEn = true → ∀ (k : Nat) (m : Mask), (k, m) ∈ gaps → m ≠ 0 → (∀ y ∈ gaps, y.1 < k → y.2 = 0) →
      exec (p.ins f) s = .next (s.trap { c with g := { c.g with stale := true } }
        { cause := 0x05, sub := k, lane := true, fmask := gaps.foldl (fun acc y => acc ||| y.2) 0 })) ∧
    (below → e ≠ 0 → c.g.staleEn = false → (∃ y ∈ gaps, y.2 ≠ 0) → Room s c e srcs (needV f.u 1) (needG f.u f.d) →
      let c' := { c with g := { c.g with stale := true } }
      let rd := fun (n : Nat) (o : Src) (w l : Nat) => if n = 0 then (0 : BitVec w) else BitVec.ofNat w (c.g.read o l)
      let res := fun w l => p.fn f w (rd 1 (f.srcA 1) w l) (rd p.nb (f.srcB 1) w l) (rd p.nc (f.srcC 1) w l)
      exec (p.ins f) s = .next (inFlight s c' e srcs
        (fixedFlight s (if f.u then p.latG else p.latV) 0 (destWr f.u f.d.toNat e (res 32) (res 64 0))) f.s)) ∧
    (below → e ≠ 0 → (∀ y ∈ gaps, y.2 = 0) → f.u = false →
      (s.curClass c.b = 2 → c.k.vmax < kills.heldV + 1 →
        exec (p.ins f) s = .next (s.trap c { cause := 0x03, sub := 3 })) ∧
      (s.curClass c.b < 2 → c.k.vfloor < kills.heldV + 1 →
        4096 < s.poolUse c.b.die c.b.core (c.b.id, c.ref.grp) true + (kills.heldV + 1) →
        exec (p.ins f) s = .next (s.updPath c.ref fun q => { q with cond := .stalled (.regs 1 0 (c.g.heldV - kills.heldV) (c.g.heldG - kills.heldG)) })))) ∧
  (∀ (s : State) (c : Cur), s.cursor = some c →
    (∀ f : V3, c.g.role ≠ 1 → (∀ o ∈ [f.ga, f.gb], o.num < c.k.gregs) →
      ∀ i ∈ [Instr.tidset f, .tview f, .tidinv f, .mcont f, .mcontDiscard f],
        exec i s = .next (s.trap c { cause := 0x04, sub := 0 })) ∧
    (∀ f : V3, c.g.role ≠ 1 → f.ga.num < c.k.gregs → f.d.toNat < c.k.gregs →
      exec (.tidget f) s = .next (s.trap c { cause := 0x04, sub := 0 })) ∧
    (∀ f : V3, c.g.role ≠ 1 → f.ga.num < c.k.gregs → ∀ i ∈ [Instr.emask f, .emaskCnt f],
      exec i s = .next (s.trap c { cause := 0x04, sub := 0 })) ∧
    (∀ f : Mma, c.g.role ≠ 1 → f.gk.toNat < c.k.gregs → exec (.mma f) s = .next (s.trap c { cause := 0x04, sub := 0 })) ∧
    (∀ (f : Drain) (h : Mzero), c.g.role ≠ 1 → ∀ i ∈ [Instr.drain f, .mzero h],
      exec i s = .next (s.trap c { cause := 0x04, sub := 0 })) ∧
    ∀ f : Cpy, c.g.role ≠ 2 → opReg f.a + 4 ≤ c.k.gregs → opReg f.b < c.k.gregs → f.d.toNat + 2 ≤ c.k.gregs →
      ∀ i ∈ [Instr.cpy f, .cpyp f, .gath f, .put f], exec i s = .next (s.trap c { cause := 0x04, sub := 0 }))

/-- The frame of the instructions that act on registers alone: every outcome that is no trap and no stall leaves memory, every
other block, context, kernel, queue and port, and in the group everything but the killed operands, the turn, STALE, the path's
position and scoreboard and the new result as they were; the hardware sequence of stochastic rounding may move on where the rounding
source is used (R73). -/
def Obligations.RegisterFormsFrame : Prop :=
  (∀ ins ∈ plainV3, ∀ f : V3, RegistersOnly (ins f) false [f.a, f.b, f.x.c]) ∧
  (∀ ins ∈ roundedV3, ∀ f : V3, RegistersOnly (ins f) true [f.a, f.b, f.x.c]) ∧
  (∀ ins ∈ [Instr.movi, .addi, .andi, .ori, .xori, .shli, .shri, .sari, .movhi], ∀ f : VI, RegistersOnly (ins f) false [f.a]) ∧
  (∀ f : Cmp, RegistersOnly (.cmp f) false [f.a, f.b] ∧ RegistersOnly (.fcmp f) false [f.a, f.b]) ∧
  (∀ f : Cmpi, RegistersOnly (.cmpi f) false [f.a]) ∧ ∀ f : Plog, RegistersOnly (.plog f) false []

/-- A step runs the decoded instruction. A path that stands at an instruction issues it: the words at its place in the clause are
fetched and decoded in the header's class; an instruction is executed in the state whose issuing path and words are these; words
that are none trap with the check they fail, a header that fails its checks and an index beyond its clause trap at index 15, and a
fetch that fails traps with its fault (R33, R35, R53, R54, R332). What a step of a READY package does, in this order (R21, R83, R208;
DESIGN CHOICE of log 3): results that arrive and headers; the grant of the first quarter that has its turn left in this cc and an
eligible path; then the engines' events, the oldest event from outside, all others; and with none of these the next cc. Before it is
READY only what comes from outside happens, and after a fatal error little of that (R393).
Where it goes past the words of the spec it rests on the model's choices of log entries 3, 77 and 90. -/
def Obligations.StepRunsDecoded : Prop :=
  (∀ (s s1 : State) (r : PRef) (b : Block) (c : Ctx) (g : Group) (p : Path) (hw : W32), AtInstruction s r b c g p →
    (∀ f, s.fetch c b g p.clause = (.inl f, s1) → issueAt s r = .next (s1.trapAt r f {} p.clause 15)) ∧
    (s.fetch c b g p.clause = (.inr hw, s1) →
    (∀ sub, (Header.ofWord hw).err = some sub →
      issueAt s r = .next (s1.trapAt r { cause := 0x02, sub := sub } { hdr := hw } p.clause 15)) ∧
    ((Header.ofWord hw).err = none → (Header.ofWord hw).count < indexOf p →
      issueAt s r = .next (s1.trapAt r { cause := 0x02, sub := 5 } { hdr := hw } p.clause 15)) ∧
    ((Header.ofWord hw).err = none → indexOf p < (Header.ofWord hw).count →
    (∀ (f : Fault2) (s2 : State), s1.fetchWords c b g p.clause (indexOf p) hw = (.inl f, s2) →
      issueAt s r = .next (s2.trapAt r f { hdr := hw } p.clause (indexOf p))) ∧
    ∀ (w : Words) (s2 : State), s1.fetchWords c b g p.clause (indexOf p) hw = (.inr w, s2) →
      let long := (Header.ofWord hw).isLong (indexOf p)
      (∀ i : Instr, Sys2Proof.decode (clsOf (Header.ofWord w.hdr).cls) w.iw0 (if (Header.ofWord w.hdr).isLong (indexOf p) then some w.iw1 else none) = .ok i →
        issueAt s r = exec i { standing s2 r p with cur := some { ref := r, words := w } }) ∧
      (∀ e : OpErr, Sys2Proof.decode (clsOf (Header.ofWord w.hdr).cls) w.iw0 (if (Header.ofWord w.hdr).isLong (indexOf p) then some w.iw1 else none) = .error e →
        issueAt s r = .next ((standing s2 r p).trapAt r { cause := 0x01, sub := e.code } w p.clause (indexOf p))) ∧
      w.hdr = hw ∧ (s1.fetch c b g (p.clause + (Header.ofWord hw).offset (indexOf p))).1 = .inr w.iw0 ∧ (long = false → w.iw1 = 0)))) ∧
  (∀ (s : State), s.bootstat ≠ 1 → Sys2Proof.Machine.step s =
    match s.inbox with
    | i :: rest => if s.bootstat = 3 ∧ fatalServes i = false then .next { s with inbox := rest } else exec i { s with inbox := rest }
    | [] => .next s.tick) ∧
  (∀ (s : State) (o : Host.Outcome State Fault Refusal), s.bootstat = 1 → s.before = some o → Sys2Proof.Machine.step s = o) ∧
  (∀ s : State, s.bootstat = 1 → s.before = none → (∀ x ∈ s.turnsLeft, s.choose exec x.1 x.2.1 x.2.2 = none) →
    let u := s.turnsOver
    (∀ o, u.after = some o → Sys2Proof.Machine.step s = o) ∧
    (u.after = none → ∀ i rest, s.inbox = i :: rest → Sys2Proof.Machine.step s = exec i { u with inbox := rest }) ∧
    (u.after = none → s.inbox = [] → ∀ o, u.others = some o → Sys2Proof.Machine.step s = o) ∧
    (u.after = none → s.inbox = [] → u.others = none → Sys2Proof.Machine.step s = .next u.tick)) ∧
  (∀ (s t : State) (die core q : Nat) (pre post : List (Nat × Nat × Nat)) (x : Cand), s.bootstat = 1 →
    s.before = none → s.turnsLeft = pre ++ (die, core, q) :: post → (∀ y ∈ pre, s.choose exec y.1 y.2.1 y.2.2 = none) →
    s.choose exec die core q = some x → 
    (s.issueBy exec x.ref = (.next t, true) → Sys2Proof.Machine.step s = .next (t.granted die core q x (s.hasIssued t x.ref) (s.gotRegs t x.ref))) ∧
    (s.issueBy exec x.ref = (.next t, false) →
      Sys2Proof.Machine.step s = .next { t with cur := none, quarter := quarterNo die core q })) ∧
  ∀ (s : State) (x : Nat × Nat × Nat),
    (x ∈ s.turnsLeft ↔ (∃ b ∈ s.blocks, b.die = x.1 ∧ b.core = x.2.1) ∧ x.2.2 < 4 ∧ s.quarter ≤ quarterNo x.1 x.2.1 x.2.2) ∧
    s.turnsLeft.Pairwise fun x y => quarterNo x.1 x.2.1 x.2.2 ≤ quarterNo y.1 y.2.1 y.2.2

/-- The grant of a quarter (R85, R103, R233): it goes to an eligible path of the first class of the cc's order that has one, even cc
res, evt, opt, odd cc evt, opt, res; of a group's two eligible paths to the one that the turn names; within the class to the next in
group slot and path slot after the last one, and past the highest again to the lowest. -/
def Sys2Proof.Claims.Grants : Prop :=
  ∀ (run : Instr → State → Out) (s : State) (die core q : Nat) (x : Cand), s.choose run die core q = some x →
    (∀ y ∈ s.eligible run die core q, y.cls ≤ 2) →
    x ∈ s.eligible run die core q ∧
    (∀ y ∈ s.eligible run die core q, grantRank s.cc x.cls ≤ grantRank s.cc y.cls) ∧
    (∀ y ∈ s.eligible run die core q, y.ref.blk = x.ref.blk → y.ref.grp = x.ref.grp → y.turn = true → x.turn = true) ∧
    (∀ y ∈ s.eligible run die core q, y.yielded = false → x.yielded = false) ∧
    (∀ y ∈ s.eligible run die core q, y.cls = x.cls → ∀ last, s.rrLast die core q x.cls = some last →
      (last < y.pos → last < x.pos ∧ x.pos ≤ y.pos) ∧ (y.pos ≤ last → last < x.pos ∨ x.pos ≤ y.pos)) ∧
    (∀ y ∈ s.eligible run die core q, y.cls = x.cls → s.rrLast die core q x.cls = none → x.pos ≤ y.pos)

/-- A cc passes (R11, R394): the cycle count rises by one and chip time by 1000 / F ct at the point's F of Table PLT-5, exactly, the
parts of a ct carried over in units that every F divides, and every quarter may issue again; memory, contexts and kernels are as they
were. -/
def Sys2Proof.Claims.ClockTicks : Prop :=
  ∀ s : State, s.dvfs < 4 → s.ct + 3 < 2 ^ 64 → s.ctFrac < 61200 →
    let f := [850, 720, 600, 425].getD s.dvfs 850
    s.tick.cc = s.cc + 1 ∧ f * (61200 * s.tick.ct + s.tick.ctFrac) = f * (61200 * s.ct + s.ctFrac) + 61200 * 1000 ∧
      s.tick.ctFrac < 61200 ∧ s.tick.quarter = 0 ∧
      s.tick.mem = s.mem ∧ s.tick.ctxs = s.ctxs ∧ s.tick.kernels = s.kernels ∧ s.tick.refs = s.refs
/-- The grants of an issue quarter and the passing of a cc (R11, R85, R103, R233, R394).
Where it goes past the words of the spec it rests on the model's choices of log entries 53 and 77. -/
def Obligations.GrantsAndClock : Prop :=
  Sys2Proof.Claims.Grants ∧ Sys2Proof.Claims.ClockTicks

/-- The package right after reset: no core runs (BOOTSTAT is not READY), chip time is 0, every measurement register holds 32 zero
bytes, no block, context, kernel, queue or command exists, and memory has its canonical form; the next step is a cc.
Where it goes past the words of the spec it rests on the model's choices of log entry 3. -/
def Obligations.AfterReset : Prop :=
  let s := State.reset
  s.bootstat ≠ 1 ∧ s.ct = 0 ∧ s.mr = List.replicate 8 0 ∧ s.blocks = [] ∧ s.ctxs = [] ∧ s.kernels = [] ∧ s.uqs = [] ∧
    s.heldCmds = [] ∧ s.owner = none ∧ s.cur = none ∧ MemOk s ∧ Sys2Proof.Machine.step s = .next s.tick

/-- The memory keeps its canonical form through every step: rising addresses, and no byte that an unlisted address reads as.
Where it goes past the words of the spec it rests on the model's choices of log entry 4. -/
def Obligations.StepKeepsMemory : Prop :=
  ∀ s t : State, MemOk s → Sys2Proof.Machine.step s = .next t → MemOk t

/-! ## Where the forms that wait, move or serve complete -/

namespace Sys2Proof.Claims

/-- The state in which a port stands. -/
def portSt (s : State) (n : Nat) : Option PState := (s.ports[n]?).map (·.st)
/-- A path of a block's group, by its slot. -/
def pathAt? (s : State) (r : PRef) : Option Path := (s.group? r.blk r.grp).bind fun g => if r.slot = 0 then g.slot0 else g.slot1
/-- A clasp of a block. -/
def claspAt? (s : State) (blk n : Nat) : Option Clasp := (s.block? blk).bind fun b => b.clasps[n]?

end Sys2Proof.Claims

/-- Clasps, lockets and `rfe` complete (R203 to R209, R289 to R295, R301, R308): a clasp that is armed, arrived at or posted to holds what
Table CLP-2 says; a group that may suspend does, and one that has drained leaves its locket; a locket's block enters a core with the
group's generation; a fence that is met is gone; the served queue's HEAD advances; a handler's level ends.
Where it goes past the words of the spec it rests on the model's choices of log entries 27, 35, 52 and 64. -/
def Obligations.ClaspLocketReturnComplete : Prop :=
  (∀ (s : State) (c : Cur) (f : VI) (k : Clasp),
    let a := gsrc f.a 1 1
    let n := c.g.gval (opReg f.a) + f.d.toNat
    let cnt := f.val.toNat % 2048
    Issues s c none [a] [a] (·.maskP f.gp f.gi) → c.b.clasps[n]? = some k → 1 ≤ cnt → cnt ≤ 1024 →
    ∃ t : State, exec (.cinit f) s = .next t ∧ ∃ x, claspAt? t c.ref.blk n = some x ∧ x.mode = 1 ∧ x.expected = cnt ∧ x.pending = cnt) ∧
  (∀ (s : State) (c : Cur) (f : V3) (k : Clasp),
    let srcs := if f.x.sub.getLsbD 1 then [gsrc f.a 1 1, gsrc f.b 1 2] else [gsrc f.a 1 1]
    let n := c.g.gval (opReg f.a) + f.d.toNat
    let p := c.g.gval (opReg f.b)
    let cnt := if f.x.sub.getLsbD 0 then (lanesOf (f.maskP c)).length else 1
    Issues s c none srcs srcs f.maskP → c.b.clasps[n]? = some k → k.mode = 1 →
    (f.x.sub.getLsbD 1 = false → ∃ t : State, exec (.arrive f) s = .next t ∧ claspAt? t c.ref.blk n = some (arrived k cnt)) ∧
    (f.x.sub.getLsbD 1 = true → mayPost k p → ∃ t : State, exec (.arrive f) s = .next t ∧
      claspAt? t c.ref.blk n = some (if k.rem + p < 0 then posted k p else arrived (posted k p) cnt))) ∧
  (∀ (s : State) (c : Cur) (f : V3) (k : Clasp),
    let srcs := [gsrc f.a 1 1, gsrc f.b 1 2]
    let n := c.g.gval (opReg f.a) + f.d.toNat
    let p := c.g.gval (opReg f.b)
    Issues s c none srcs srcs f.maskP → c.b.clasps[n]? = some k → k.mode = 1 → mayPost k p →
    ∃ t : State, exec (.expect f) s = .next t ∧
      claspAt? t c.ref.blk n = some (if k.rem + p < 0 then posted k p else phased (posted k p))) ∧
  (∀ (s : State) (c : Cur) (f : V3),
    let h : Src := { f.gb with n := 4 }
    let srcs := if opReg f.b = 0 then [f.ga] else [f.ga, h]
    let la := c.g.gval (opReg f.a)
    let hs := if opReg f.b = 0 then [] else
      (([0, 1, 2, 3].map fun i => c.g.gval (opReg f.b + i)).filter (· ≠ 0)).eraseDups
    Issues s c none (srcs ++ [gfld f.d]) srcs f.maskQ → la % 128 = 0 → la < 2 ^ 57 → c.g.traps = [] → c.b.clasps = [] →
    ((∀ v ∈ c.g.t, viewGen v = 0) ∨ (¬ busy c.b ∧ ∀ a ∈ c.b.mtx.accs, a.dirty = false)) → ¬ (lastOf c.b c.ref.grp ∧ busy c.b) → (∀ x ∈ hs, handleWrong s c.b x = none) → c.ref.slot < 2 →
    ∃ t : State, exec (.suspend f) s = .next t ∧
      pathAt? t c.ref = some { c.p with
        cond := .suspending f.d.toNat la hs ((srcs.filter (·.l)).flatMap fun x => (List.range x.n).map (x.num + ·)) c.w }) ∧
  (∀ (s t u v v' : State) (r : PRef) (b : Block) (c : Ctx) (g : Group) (p : Path) (d la : Nat) (hs kills : List Nat) (w : Words),
    let x := s.locketOf c b (givenUp g kills) r p d hs w
    s.block? r.blk = some b → s.ctx? b.ctx = some c → b.groups[r.grp]? = some g →
    (if r.slot = 0 then g.slot0 else g.slot1) = some p → p.cond = .suspending d la hs kills w → drained g →
    (openScopes b g.index).length ≤ 4 → s.spanMiss c b.die b.core la x.length .write = (none, t) →
    t.spanMiss c b.die b.core (la + 8) 4 .both = (none, u) → u.vword c b.die b.core (la + 8) 4 ≠ 2 →
    u.vwrite c b.die b.core la x = (some v, v') →
    ∃ y : State, exec (.suspendSeal r) s = .next y ∧ ∃ g', y.group? r.blk r.grp = some g' ∧ g'.st = .suspended ∧ g'.slot0 = none ∧
      g'.slot1 = none) ∧
  (∀ (s t u : State) (c : Cur) (f : V3) (lvl : TrapSt) (ls : List TrapSt) (bs bank : List Byte), s.cursor = some c → c.p.mask ≠ 0 →
    c.g.traps = lvl :: ls → (∀ fl ∈ c.g.flights, fl.cls ∈ [Drn.dl, .ds, .da, .dq, .de] → fl.arrived = true) →
    s.vread c.c c.b.die c.b.core lvl.frame 0x180 = (some bs, t) → (Frame.ofBytes bs).bad lvl c.g = false →
    t.vread c.c c.b.die c.b.core (Frame.ofBytes bs).bank 0x480 = (some bank, u) →
    (let kept := { c.g with g := c.g.g.take 56, v := c.g.v.take 56 }
     u.allocFor c.b c.k c.ref.grp kept.heldV kept.heldG ((List.range 8).filter (Frame.ofBytes bs).mapV.testBit).length
       ((List.range 8).filter (Frame.ofBytes bs).mapG.testBit).length = .ok) →
    ∃ v : State, exec (.rfe f) s = .next v ∧ ∃ g', v.group? c.ref.blk c.ref.grp = some g' ∧ (g'.traps = ls ∨ g'.st = .exited)) ∧
  (∀ (s : State) (item : Nat) (core : CoreId) (i : Item) (la : Nat) (bs : List Byte) (c : Ctx) (k : Kernel) (bslot recNo slot : Nat),
    s.items.find? (·.id = item) = some i → i.locket = some (la, bs) → (core.die, core.core) ∈ s.coresFor i →
    s.ctx? i.ctx = some c → s.kernel? i.kobj = some k → s.freeBslot core.die core.core = some bslot → s.freeRecord c = some recNo →
    nextSlot (s.slotsUsed core.die core.core) = some slot →
    ∃ (t : State) (b : Block) (g : Group), exec (.locketPlacement item core) s = .next t ∧ t.blocks = s.blocks ++ [b] ∧ b.groups = [g] ∧
      b.core = core.core ∧ g.st = .resident ∧ g.lkgen = BitVec.ofNat 32 (fieldAt bs 0x0C 4)) ∧
  (∀ (s t : State) (blk i : Nat) (b : Block) (g : Group) (bad : Option (Nat × Nat × Nat)), s.block? blk = some b →
    s.fenceDue b = some (g, i) → s.fenceMet b.ctx (g.fences.getD i (0, 0, 0)) = some (bad, t) → g.index < b.groups.length →
    ∃ u : State, exec (.fenceWaitEnd blk) s = .next u ∧ ∃ g', u.group? blk g.index = some g' ∧ g'.fences = g.fences.eraseIdx i) ∧
  ∀ (s : State) (n i : Nat) (c : Ctx), s.ctx? n = some c → c.num = n → rqServed s c i →
    ∃ (t : State) (c' : Ctx), exec (.resumeQueueService n) s = .next t ∧ t.ctx? n = some c' ∧
      (c'.rqs.getD i {}).head = (c.rqs.getD i {}).head + 1

/-- Promotion, pre-emption, switches, the link and the services of memory complete (R160, R240, R241, R315, R317, R334, R338, R339,
R342, R373, R374, R378, R379, R393): each named event, where its conditions hold, leaves a next state with the change it stands for.
Where it goes past the words of the spec it rests on the model's choices of log entries 39, 41, 45, 49 and 81. -/
def Obligations.SwitchLinkServicesComplete : Prop :=
  (∀ (s : State) (blk : Nat) (b : Block), s.block? blk = some b →
    (s.refClass b = 2 → max b.clsL b.implied < 2 → b.resRes = false → b.st ≠ .saved →
        (∀ g ∈ b.groups, g.victim = true → g.st ≠ .resident) → s.resFits b = true →
      ∃ t : State, exec (.promotionResident blk) s = .next t ∧ (t.block? blk).any (·.resRes)) ∧
    (b.st = .running → s.curClass b ≠ 2 → (∃ c, s.ctx? b.ctx = some c ∧ c.st ≠ .faulted ∧ s.bstateKept c b = true) →
      ∃ t : State, exec (.preemptRequest blk) s = .next t ∧ (s.flushable b = false → ∀ b', t.block? blk = some b' → b'.st ≠ .running)) ∧
    (∀ t0, b.st = .draining t0 → s.curClass b ≠ 2 → t0 + 10000 ≤ s.ct → (∃ c, s.ctx? b.ctx = some c ∧ c.st ≠ .faulted ∧ s.bstateKept c b = true) →
      ∃ t : State, exec (.preemptDrainTimeout blk) s = .next t ∧
        (s.flushable b = false → ∀ b', t.block? blk = some b' → b'.st = .stopping ∨ b'.st = .saved)) ∧
    ∀ core : CoreId, s.restorable b core.die core.core = true → s.freeBslot core.die core.core ≠ none →
      ∃ t : State, exec (.blockRestore blk core) s = .next t ∧ ∀ b', t.block? blk = some b' → b'.st = .running ∧ b'.core = core.core) ∧
  (∀ (s : State) (n ends : Nat) (r : Ref), s.refs.find? (·.id = n) = some r → r.budget = some ends → ends ≤ s.ct → s.refRuns r = true →
    (s.refResident r = true ∨ (r.waiter = none ∧ ∀ o, s.refOwner r = some o → o.1.st ∈ [QState.active, .error, .destroyed])) →
    ∃ t : State, exec (.promotionBudgetExpiry n) s = .next t ∧
      (s.refResident r = true → ∀ x ∈ t.refs, x.id = n → x.budget = none) ∧
      (s.refResident r = false → ∀ x ∈ t.refs, x.id ≠ n)) ∧
  (∀ (s : State) (n : Nat) (c : Ctx), s.ctx? n = some c →
    (c.st = .running → ∃ t : State, exec (.contextSwitchOut n) s = .next t ∧ ∀ c', t.ctx? n = some c' → c'.st ≠ .running) ∧
    (c.st = .ready ∨ c.st = .suspended → (s.ctxs.filter fun c => c.st = .running ∨ c.st = .switching).length < 64 →
      ∃ t : State, exec (.contextSwitchIn n) s = .next t ∧ ∀ c', t.ctx? n = some c' → c'.st = .switching) ∧
    (c.st = .running ∨ c.st = .suspended →
      ∃ t : State, exec (.contextFault n) s = .next t ∧ ∀ c', t.ctx? n = some c' → c'.st = .faulted)) ∧
  (∀ (s : State) (n : Nat) (p : Port),
    (PortIn s n p [.down] → ∃ t : State, exec (.portEnable n) s = .next t ∧ portSt t n = some .training) ∧
    (∀ lanes pkg, PortIn s n p [.training] → 1 ≤ lanes → lanes ≤ 4 → pkg < 1024 → ∃ t : State,
      exec (.trainingEnd n lanes pkg) s = .next t ∧ (portSt t n = some (if lanes = 4 then .up else .degraded) ∨
        (n ≠ 0 ∧ portSt t n = some .failed))) ∧
    (PortIn s n p [.training] → p.since + 100000000 ≤ s.ct → ∃ t : State, exec (.trainingTimeout n) s = .next t ∧
      portSt t n = some (if p.failures < 2 then .down else .failed)) ∧
    (∀ lost, PortIn s n p [.up, .degraded] → lost = true ∨ 64 < (p.replays.filter fun t => decide (s.ct < t + 1000000)).length →
      ∃ t : State, exec (.portRetrain { port := n, laneLost := lost }) s = .next t ∧ portSt t n = some .training) ∧
    (PortIn s n p [.down, .training, .up, .degraded, .retrain, .failed] →
      ∃ t : State, exec (.portDisable n) s = .next t ∧ portSt t n = some .failed) ∧
    (PortIn s n p [.failed] → ∃ t : State, exec (.portReset n) s = .next t ∧ portSt t n = some .down) ∧
    ∀ f : Flit, PortIn s n p [.up, .degraded] → ∃ (t : State) (q : Port), exec (.flitReceive n f) s = .next t ∧ t.ports[n]? = some q ∧
      q.rxSeq = if f.ok = true ∧ f.seq = p.rxSeq then (p.rxSeq + 1) % 4096 else p.rxSeq) ∧
  (∀ (s : State) (src exp off : Nat),
    (∀ (t : State) (d : Delivery), (s.deliver src exp off d.bytes d.hostRefuses = .ok t ∨
        s.deliver src exp off d.bytes d.hostRefuses = .refused t) → ∃ u : State, exec (.putDelivery src exp off d) s = .next u ∧
      u.wins = t.wins) ∧
    ∀ q : ApRequest, ∃ t : State, exec (.apertureAccess src exp off q) s = .next t ∧ t.wins = s.wins ∧ t.blocks = s.blocks) ∧
  (∀ (s : State) (n win no : Nat) (w : Win) (bad : Bool), s.win? n win = some w → w.kind = 2 → 1 ≤ no → no ≤ w.puts → w.wtgt < no →
    no ∉ w.tgtDone → ∃ (t : State) (w' : Win), exec (.putAcknowledgement n win no bad) s = .next t ∧ t.win? n win = some w' ∧
      (no ≤ w'.wtgt ∨ no ∈ w'.tgtDone)) ∧
  (∀ (s : State) (n : Nat), s.linkFailed = true →
    (∀ blk x, s.req? blk n = some x → x.2.2.op = 13 → x.2.2.st = .moving → ∃ t : State, exec (.putLinkTimeout (.request blk) n) s = .next t ∧
      ∀ b, t.block? blk = some b → ∀ r ∈ b.reqs, r.id ≠ x.2.2.id) ∧
    (∀ ctx win w, s.win? ctx win = some w → (w.owners.find? (·.1 = n)).isSome → n ≤ w.wsrc ∨ n ∈ w.srcDone →
      ∃ (t : State) (w' : Win), exec (.putLinkTimeout (.window ctx win) n) s = .next t ∧ t.win? ctx win = some w' ∧
        ∃ x ∈ w'.fails, x.1 = n ∧ x.2.1 = 8) ∧
    ((∃ b ∈ s.blocks, ∃ g ∈ b.groups, ∃ f ∈ g.flights, f.tags ≠ []) ∨ (∃ b ∈ s.blocks, ∃ r ∈ b.reqs, r.tags ≠ []) ∨
        (∃ b ∈ s.blocks, ∃ x ∈ b.mtx.beads, x.tags ≠ []) →
      ∃ t : State, exec (.putLinkTimeout .accesses n) s = .next t ∧ ∀ b ∈ t.blocks, (∀ r ∈ b.reqs, r.tags = []) ∧
        (∀ x ∈ b.mtx.beads, x.tags = []) ∧
        ∀ g ∈ b.groups, ∀ f ∈ g.flights, f.tags = [])) ∧
  (∀ (s : State) (what : EngReq) (die : Nat) (c : Ctx) (addr : Nat), s.engFault what = some (die, c, addr) →
    ∃ t : State, exec (.pageService what false) s = .next t ∧
      ∀ n, what = .queue n → ∀ q, t.uq? n = some q → q.fault = none) ∧
  (∀ (s : State) (base : Nat),
    (∀ size, inMemory s base = true → 0 < size → base % 4096 = 0 → size % 4096 = 0 →
      s.controller (base + size - 1) = s.controller base →
      (s.migs.filter fun m => s.controller m.base == s.controller base).length < 64 →
      (∀ m ∈ s.migs, base + size ≤ m.base ∨ m.base + m.size ≤ base) →
      (∀ p ∈ s.pages, p.frame < base + size → base < p.frame + p.bytes → (s.ctx? p.ctx).any (s.isMapped · p) = true) → (∀ pa ∈ s.leavesOf base size, s.leafIn base size pa = true) →
      ∃ t : State, exec (.migrationOpen base size) s = .next t ∧ ∃ m ∈ t.migs, m.base = base ∧ m.size = size ∧ m.newBase = none) ∧
    (∀ (new : Nat) (m : Mig), s.migs.find? (fun m => m.base = base ∧ m.newBase = none) = some m → inMemory s new = true →
      new % 4096 = 0 → s.controller (new + m.size - 1) = s.controller new →
      (∀ x ∈ s.migs, x.newBase ≠ none ∨ x.base = base → x.base + x.size ≤ new ∨ new + m.size ≤ x.base) → ∃ t : State, exec (.migrationCommit base new) s = .next t ∧
        (m.wver = 0 → ∃ x ∈ t.migs, x.base = base ∧ x.newBase = some new) ∧ (m.wver ≠ 0 → ∀ x ∈ t.migs, x.base ≠ base)) ∧
    ∀ m, s.migs.find? (fun m => m.base = base ∧ m.newBase ≠ none) = some m →
      ∃ t : State, exec (.migrationClose base) s = .next t ∧ ∀ x ∈ t.migs, x.base ≠ base) ∧
  (∀ (s : State) (a : Nat),
    (inMemory s a = true → (∃ t : State, exec (.memoryError a .corrected) s = .next t ∧ t.poison = s.poison) ∧
      ∃ t : State, exec (.memoryError a .uncorrectable) s = .next t ∧ a / 64 ∈ t.poison) ∧
    (∀ k ∈ [MemErr.contextTable, .firmware], ∃ t : State, exec (.memoryError a k) s = .next t ∧ t.bootstat = 3) ∧
    (120 * 16 ≤ a → ∃ t : State, exec (.overTemperature a) s = .next t ∧ t.bootstat = 3) ∧
    (a < s.pkg.cxlPorts → ∃ t : State, exec (.cxlPortDown a) s = .next t ∧ t.cxlDown.contains a = true) ∧
    ∀ (co : Bool) (n : Nat),
      (0 < n → hostReaches s co a → hostReaches s co (a + n - 1) →
        ∃ t : State, exec (.hostMemoryAccess co a n none) s = .next t ∧ t.mem = s.mem) ∧
      ∀ bs : List Byte, bs ≠ [] → hostReaches s co a → hostReaches s co (a + bs.length - 1) → MemOk s → s.migs = [] →
        s.cxlIsDown a = false →
        ∃ t : State, exec (.hostMemoryAccess co a n (some bs)) s = .next t ∧ t.readPhys none a bs.length = bs)
end

