-- ==== Sys2Proof/Laws/Frame.lean ====
section
/-!
SUPPORT. What the accesses of memory may change, once for every operation over memory: the bytes with their keys and poison, the
counts of migration records, the event log, the translations held and the counter of free values; nothing else.
-/
namespace Sys2Proof.Laws
open Sys2Proof.Machine Sys2Proof.Safety

/-- The second state is the first after accesses of memory. -/
def MemStep (s t : State) : Prop :=
  ∃ free mem poison granKey tlb migs logHead log, t = { s with
    free := free, mem := mem, poison := poison, granKey := granKey, tlb := tlb, migs := migs, logHead := logHead, log := log }

theorem MemStep.refl (s : State) : MemStep s s := ⟨_, _, _, _, _, _, _, _, rfl⟩
theorem MemStep.trans {s t u : State} (h : MemStep s t) (h' : MemStep t u) : MemStep s u := by
  obtain ⟨a, b, c, d, e, f, g, i, rfl⟩ := h
  obtain ⟨a', b', c', d', e', f', g', i', rfl⟩ := h'
  exact ⟨_, _, _, _, _, _, _, _, rfl⟩

theorem MemStep.blocks {s t : State} (h : MemStep s t) : t.blocks = s.blocks := by
  obtain ⟨a, b, c, d, e, f, g, i, rfl⟩ := h; rfl
theorem MemStep.ctxs {s t : State} (h : MemStep s t) : t.ctxs = s.ctxs := by
  obtain ⟨a, b, c, d, e, f, g, i, rfl⟩ := h; rfl
theorem MemStep.kernels {s t : State} (h : MemStep s t) : t.kernels = s.kernels := by
  obtain ⟨a, b, c, d, e, f, g, i, rfl⟩ := h; rfl
theorem MemStep.refs {s t : State} (h : MemStep s t) : t.refs = s.refs := by
  obtain ⟨a, b, c, d, e, f, g, i, rfl⟩ := h; rfl
theorem MemStep.uid {s t : State} (h : MemStep s t) : t.uid = s.uid := by
  obtain ⟨a, b, c, d, e, f, g, i, rfl⟩ := h; rfl
theorem MemStep.cc {s t : State} (h : MemStep s t) : t.cc = s.cc := by
  obtain ⟨a, b, c, d, e, f, g, i, rfl⟩ := h; rfl
theorem MemStep.ct {s t : State} (h : MemStep s t) : t.ct = s.ct := by
  obtain ⟨a, b, c, d, e, f, g, i, rfl⟩ := h; rfl
theorem MemStep.bufs {s t : State} (h : MemStep s t) : t.bufs = s.bufs := by
  obtain ⟨a, b, c, d, e, f, g, i, rfl⟩ := h; rfl
theorem MemStep.cursor {s t : State} (h : MemStep s t) : t.cursor = s.cursor := by
  obtain ⟨a, b, c, d, e, f, g, i, rfl⟩ := h; rfl
theorem MemStep.allocFor {s t : State} (h : MemStep s t) (b : Block) (k : Kernel) (gi hv hg nv ng : Nat) :
    t.allocFor b k gi hv hg nv ng = s.allocFor b k gi hv hg nv ng := by
  obtain ⟨a, b, c, d, e, f, g, i, rfl⟩ := h; rfl

/-! ## Physical accesses -/

theorem logEvent_mem (s : State) (k c x y a d : Nat) : MemStep s (s.logEvent k c x y a d) := ⟨_, _, _, _, _, _, _, _, rfl⟩
theorem delay_mem (s : State) : MemStep s s.delay.2 := ⟨_, _, _, _, _, _, _, _, rfl⟩
theorem freeBytes_mem (s : State) (n : Nat) : MemStep s (s.freeBytes n).2 := ⟨_, _, _, _, _, _, _, _, rfl⟩
theorem pick_mem (s : State) (xs : List Nat) : MemStep s (s.pick xs).2 := ⟨_, _, _, _, _, _, _, _, rfl⟩
theorem rekey_mem (s : State) (key : Option (BitVec 256)) (pa : Nat) : MemStep s (s.rekey key pa) := by
  unfold State.rekey; split
  · exact .refl s
  · exact ⟨_, _, _, _, _, _, _, _, rfl⟩
theorem writeBytes_mem (bs : List Byte) : ∀ (s : State) (key : Option (BitVec 256)) (pa : Nat), MemStep s (s.writeBytes key pa bs) := by
  induction bs with
  | nil => exact fun s _ _ => .refl s
  | cons b bs ih =>
    intro s key pa
    exact ((rekey_mem s key (s.home pa)).trans ⟨_, _, _, _, _, _, _, _, rfl⟩).trans (ih _ _ _)
theorem writePhys_mem (s : State) (key : Option (BitVec 256)) (pa : Nat) (bs : List Byte) : MemStep s (s.writePhys key pa bs) := by
  unfold State.writePhys; split
  · exact logEvent_mem ..
  · exact (MemStep.trans ⟨_, _, _, _, _, _, _, _, rfl⟩ (writeBytes_mem bs _ key pa)).trans ⟨_, _, _, _, _, _, _, _, rfl⟩

/-! ## Translation -/

theorem tlbPut_mem (s : State) (ctx die : Nat) (core : Option Nat) (va lg : Nat) (leaf : W64) :
    MemStep s (s.tlbPut ctx die core va lg leaf) := ⟨_, _, _, _, _, _, _, _, rfl⟩
theorem tlbUsed_mem (s : State) (t : TlbEnt) (va : Nat) : MemStep s (s.tlbUsed t va) := ⟨_, _, _, _, _, _, _, _, rfl⟩
theorem leafOf_mem (s : State) (c : Ctx) (die core va : Nat) : MemStep s (s.leafOf c die core va).2 := by
  unfold State.leafOf
  split
  · exact tlbUsed_mem ..
  · split
    · exact (tlbUsed_mem ..).trans (tlbPut_mem ..)
    · split
      · exact (tlbPut_mem ..).trans (tlbPut_mem ..)
      · exact .refl s
theorem xlate_mem (s : State) (c : Ctx) (die core va : Nat) (a : Acs) (scope : Nat) (sup : Bool) :
    MemStep s (s.xlate c die core va a scope sup).2 := by
  unfold State.xlate
  split
  · exact .refl s
  · split
    · exact .refl s
    · have h := leafOf_mem s c die core va
      split
      · rename_i heq; rw [heq] at h; exact h
      · rename_i heq; rw [heq] at h; exact h
      · rename_i heq; rw [heq] at h
        split
        · exact h
        · split
          · exact h
          · dsimp only
            split
            · exact h
            · split <;> exact h
theorem xlateAll_mem (c : Ctx) (die core : Nat) (a : Acs) (scope : Nat) (l : List (Nat × Nat)) :
    ∀ s : State, MemStep s (s.xlateAll c die core a scope l).2 := by
  induction l with
  | nil => exact fun s => .refl s
  | cons x l ih =>
    intro s
    obtain ⟨va, k⟩ := x
    exact (xlate_mem s c die core va a scope false).trans (ih _)
theorem reach_mem (s : State) (c : Ctx) (die core va n : Nat) (a : Acs) (scope : Nat) :
    MemStep s (s.reach c die core va n a scope).2 := xlateAll_mem ..

/-! ## Accesses in a context -/

theorem readPieces_mem (ps : List Piece) : ∀ s : State, MemStep s (s.readPieces ps).2 := by
  induction ps with
  | nil => exact fun s => .refl s
  | cons p ps ih =>
    intro s
    unfold State.readPieces
    have h : MemStep s (if s.inAperture p then s.freeBytes p.len else (s.readPhys p.key p.pa p.len, s)).2 := by
      split
      · exact freeBytes_mem ..
      · exact .refl s
    have h' (t : State) : MemStep t (if t.cxlIsDown p.pa then t.logEvent 6 0xFFFF 0 0 p.pa 0 else t) := by
      split
      · exact logEvent_mem ..
      · exact .refl t
    exact (h.trans (h' _)).trans (ih _)
theorem writePieces_mem (ps : List Piece) : ∀ (s : State) (bs : List Byte), MemStep s (s.writePieces ps bs) := by
  induction ps with
  | nil => exact fun s _ => .refl s
  | cons p ps ih =>
    intro s bs
    unfold State.writePieces
    dsimp only
    split
    · exact ih s _
    · exact (writePhys_mem ..).trans (ih _ _)
theorem vread_mem (s : State) (c : Ctx) (die core va n : Nat) : MemStep s (s.vread c die core va n).2 := by
  unfold State.vread
  have h := reach_mem s c die core va n .read 7
  split
  · rename_i ps t heq; rw [heq] at h; exact h.trans (readPieces_mem ps t)
  · rename_i heq; rw [heq] at h; exact h
theorem vwrite_mem {s t u : State} {c : Ctx} {die core va : Nat} {bs : List Byte}
    (h : s.vwrite c die core va bs = (some t, u)) : MemStep s t := by
  unfold State.vwrite at h
  have hr := reach_mem s c die core va bs.length .write 7
  split at h
  · rename_i ps v heq; rw [heq] at hr; cases h; exact hr.trans (writePieces_mem ..)
  · cases h
theorem vwrite_mem_none {s u : State} {c : Ctx} {die core va : Nat} {bs : List Byte}
    (h : s.vwrite c die core va bs = (none, u)) : MemStep s u := by
  unfold State.vwrite at h
  have hr := reach_mem s c die core va bs.length .write 7
  split at h
  · cases h
  · rename_i heq; rw [heq] at hr; cases h; exact hr
theorem vset_mem (s : State) (c : Ctx) (die core va n v : Nat) : MemStep s (s.vset c die core va n v) := by
  unfold State.vset
  split
  · rename_i h; exact vwrite_mem h
  · rename_i h; exact vwrite_mem_none h

/-! ## Accesses of an instruction -/

theorem checkLane_mem (s : State) (c : Cur) (addr n : Nat) (a : Acs) (scope : Nat) : MemStep s (s.checkLane c addr n a scope).2 := by
  unfold State.checkLane
  split
  · exact .refl s
  · split
    · exact .refl s
    · exact reach_mem ..
theorem checkLanes_mem (c : Cur) (addr : Nat → Nat) (n : Nat) (a : Acs) (scope : Nat) (ls : List Nat) :
    ∀ s : State, MemStep s (s.checkLanes c addr n a scope ls).2 := by
  induction ls with
  | nil => exact fun s => .refl s
  | cons l ls ih =>
    intro s
    unfold State.checkLanes
    have h := checkLane_mem s c (addr l) n a scope
    split
    · rename_i t heq; rw [heq] at h; exact h.trans (ih t)
    · rename_i t heq; rw [heq] at h; exact h.trans (ih t)
theorem readLanes_mem (l : List (Nat × List Piece)) : ∀ s : State, MemStep s (s.readLanes l).2 := by
  induction l with
  | nil => exact fun s => .refl s
  | cons x l ih => exact fun s => (readPieces_mem x.2 s).trans (ih _)
theorem writeLanes_mem (n : Nat) (val : Nat → Nat) (l : List (Nat × List Piece)) : ∀ s : State, MemStep s (s.writeLanes n val l) := by
  induction l with
  | nil => exact fun s => .refl s
  | cons x l ih => exact fun s => (writePieces_mem x.2 s _).trans (ih _)
theorem atomicLanes_mem (n : Nat) (new : Nat → Nat → Nat × Nat) (l : List (Nat × List Piece)) :
    ∀ s : State, MemStep s (s.atomicLanes n new l).2 := by
  induction l with
  | nil => exact fun s => .refl s
  | cons x l ih =>
    intro s
    unfold State.atomicLanes
    dsimp only
    split
    · exact (readPieces_mem x.2 s).trans (ih _)
    · exact ((readPieces_mem x.2 s).trans (writePieces_mem ..)).trans (ih _)

end Sys2Proof.Laws
end

