-- ==== Sys2Proof/Laws/Issue.lean ====
section
/-!
SUPPORT. What an issue does, once for all instructions: `begin`, `gate`, `issue`, `allocate`, `putFlight`, `fixed`, `variable`,
`done`, under the conditions of `Issues` and `Room`, and otherwise.
-/
namespace Sys2Proof.Laws
open Sys2Proof.Machine Sys2Proof.Safety

/-! ## Kills touch the registers only -/

theorem kill_fields (g : Group) (slot : Nat) (e : Mask) (o : Src) :
    ∃ v x, g.kill slot e o = { g with v := v, g := x } := by
  unfold Group.kill
  split
  · exact ⟨_, _, rfl⟩
  · split <;> exact ⟨_, _, rfl⟩

theorem killAll_fields (slot : Nat) (e : Mask) (os : List Src) (g : Group) :
    ∃ v x, g.killAll slot e os = { g with v := v, g := x } := by
  induction os generalizing g with
  | nil => exact ⟨_, _, rfl⟩
  | cons o os ih =>
    obtain ⟨v, x, h⟩ := kill_fields g slot e o
    obtain ⟨v', x', h'⟩ := ih (g.kill slot e o)
    exact ⟨v', x', by rw [Group.killAll, List.foldl_cons]; rw [Group.killAll] at h'; rw [h', h]⟩

@[simp] theorem killAll_nil (g : Group) (slot : Nat) (e : Mask) : g.killAll slot e [] = g := rfl
@[simp] theorem killAll_slot0 (g : Group) (slot : Nat) (e : Mask) (os : List Src) :
    (g.killAll slot e os).slot0 = g.slot0 := by obtain ⟨v, x, h⟩ := killAll_fields slot e os g; rw [h]
@[simp] theorem killAll_slot1 (g : Group) (slot : Nat) (e : Mask) (os : List Src) :
    (g.killAll slot e os).slot1 = g.slot1 := by obtain ⟨v, x, h⟩ := killAll_fields slot e os g; rw [h]
@[simp] theorem killAll_flights (g : Group) (slot : Nat) (e : Mask) (os : List Src) :
    (g.killAll slot e os).flights = g.flights := by obtain ⟨v, x, h⟩ := killAll_fields slot e os g; rw [h]

/-! ## The cursor -/

/-- What a cursor names. -/
theorem cursor_spec {s : State} {c : Cur} (h : s.cursor = some c) :
    s.block? c.ref.blk = some c.b ∧ c.b.id = c.ref.blk ∧ c.b.groups[c.ref.grp]? = some c.g ∧
      s.kernel? c.b.kobj = some c.k ∧ s.ctx? c.b.ctx = some c.c ∧ c.g.path? c.ref.slot = some c.p ∧
      ∃ i, s.cur = some i ∧ i.ref = c.ref ∧ i.words = c.w := by
  unfold State.cursor at h
  split at h
  · cases h
  · rename_i i hi
    split at h
    · cases h
    · rename_i b hb
      split at h
      · rename_i g k x hg hk hx
        split at h
        · rename_i p hp
          cases h
          refine ⟨hb, ?_, hg, hk, hx, hp, i, hi, rfl, rfl⟩
          have := List.find?_some hb
          simpa using this
        · cases h
      · cases h

/-- Replacing the issuing group. -/
theorem setGroup_cursor {s : State} {c : Cur} (h : s.cursor = some c) (g : Group) :
    s.setGroup c.ref.blk c.ref.grp g = withGroup s c g := by
  obtain ⟨hb, hid, -⟩ := cursor_spec h
  rw [State.setGroup, hb]
  rfl

theorem issuedBy_eq {c : Cur} (g : Group) (h0 : g.slot0 = c.g.slot0) (h1 : g.slot1 = c.g.slot1) (p : Option Path) :
    g.issuedBy c.ref.slot p = withPath c g p := by
  cases g
  simp only [Group.issuedBy, Group.setPath, withPath]
  simp only at h0 h1
  split <;> simp_all

/-! ## What `begin` and `gate` answer -/

theorem archBad_none {k : Kernel} {uses : List Src}
    (h : ∀ o ∈ uses, o.num + o.n ≤ if o.grp then k.gregs else k.vregs) : archBad k uses = none := by
  have hv : (uses.any fun o => !o.grp && decide (k.vregs < o.num + o.n)) = false := by
    simp only [List.any_eq_false, Bool.and_eq_true, Bool.not_eq_eq_eq_not, Bool.not_true, decide_eq_true_eq, not_and,
      Nat.not_lt]
    intro o ho hg
    simpa [hg] using h o ho
  have hg : (uses.any fun o => o.grp && decide (k.gregs < o.num + o.n)) = false := by
    simp only [List.any_eq_false, Bool.and_eq_true, decide_eq_true_eq, not_and, Nat.not_lt]
    intro o ho hg
    simpa [hg] using h o ho
  rw [archBad]; simp only [hv, hg]; rfl

theorem begin_ok {s : State} {c : Cur} {role : Option Nat} {uses srcs : List Src} {mask : Cur → Mask} {sbit : Bool}
    {effect : Cur → Mask → Out} (h : Issues s c role uses srcs mask) :
    s.begin role uses mask sbit effect = effect c (mask c) := by
  obtain ⟨hc, hk, hr, hm, -⟩ := h
  have hrole : (role.any (· != c.g.role)) = false := by rcases hr with rfl | rfl <;> simp
  have hm' : ¬ mask c = 0 := hm
  simp only [State.begin, hc, archBad_none hk, hrole, if_neg hm', Bool.false_eq_true, if_false]

theorem gate_ok {s : State} {c : Cur} {e : Mask} {srcs : List Src} {effect : Cur → Out}
    (h : ∀ o ∈ srcs, o.field ≠ 0 → c.g.absent o e = 0) : s.gate c e srcs effect = effect c := by
  have : c.absents e srcs = [] := by
    simp only [Cur.absents, List.filterMap_eq_nil_iff, List.mem_filter, bne_iff_ne]
    rintro o ⟨ho, hf⟩
    simp [h o ho hf]
  simp [State.gate, this]

theorem issue_ok {s : State} {c : Cur} {role : Option Nat} {uses srcs : List Src} {mask : Cur → Mask} {sbit : Bool}
    {effect : State → Cur → Mask → Out} (h : Issues s c role uses srcs mask) :
    s.issue role uses srcs mask sbit effect = effect s c (mask c) := by
  rw [State.issue, begin_ok h, gate_ok h.2.2.2.2]

/-! ## Results -/

theorem allocate_ok {s : State} {c : Cur} {e : Mask} {srcs : List Src} {nv ng : Nat} {k : State → Out}
    (h : Room s c e srcs nv ng) : s.allocate c e srcs nv ng k = k s := by
  simp only [Room] at h
  simp [State.allocate, h]

theorem path_cursor {s : State} {c : Cur} (h : s.cursor = some c) :
    (if c.ref.slot = 0 then c.g.slot0 else c.g.slot1) = some c.p := (cursor_spec h).2.2.2.2.2.1

theorem cursor_uid {s : State} (n : Nat) : ({ s with uid := n } : State).cursor = s.cursor := rfl
theorem cursor_free {s : State} (n : Nat) : ({ s with free := n } : State).cursor = s.cursor := rfl

theorem done_ok {s : State} {c : Cur} (hc : s.cursor = some c) (e : Mask) (srcs : List Src) (sbit : Bool) :
    s.done c e srcs sbit = issued s c e srcs sbit := by
  have hp := path_cursor hc
  rw [State.done, State.advance, setGroup_cursor hc, issuedBy_eq _ (by simp) (by simp), issued]
  simp [Group.path?, hp, pathAfter, Path.stepped]

theorem putFlight_ok {s : State} {c : Cur} (hc : s.cursor = some c) (e : Mask) (srcs : List Src) (fl : Flight) (sbit : Bool) :
    s.putFlight c e srcs fl sbit = inFlight s c e srcs fl sbit := by
  have hp := path_cursor hc
  obtain ⟨v, x, hk⟩ := killAll_fields c.ref.slot e srcs c.g
  rw [State.putFlight, inFlight]
  simp only [State.advance]
  rw [setGroup_cursor (cursor_uid _ ▸ hc)]
  congr 1
  simp only [hk, Group.path?, Group.issuedBy, Group.setPath, withPath, pathAfter, Path.stepped]
  by_cases h0 : c.ref.slot = 0
  · simp only [h0, if_true] at hp ⊢
    simp [hp]
  · simp only [h0, if_false] at hp ⊢
    simp [hp]

theorem fixed_ok {s : State} {c : Cur} {e : Mask} {srcs : List Src} {ws : List Wr} {lat flags : Nat} {sbit : Bool}
    (hc : s.cursor = some c) (h : Room s c e srcs (ws.filter Wr.isV).length (ws.filter Wr.isG).length) :
    s.fixed c e srcs ws lat flags sbit = .next (inFlight s c e srcs (fixedFlight s lat flags ws) sbit) := by
  rw [State.fixed, State.launchFlight, allocate_ok h, putFlight_ok hc]; rfl

theorem putLater_ok {s : State} {c : Cur} (hc : s.cursor = some c) (e : Mask) (srcs : List Src) (fl : Flight) (sbit : Bool) :
    s.putLater c e srcs fl sbit =
      inFlightLater s c e srcs { fl with due := some (s.cc + (1 + Config.latency s.free)),
                                         board := fl.board || !fl.writes.isEmpty || fl.poison.isSome } sbit := by
  rw [State.putLater, State.delay, inFlightLater]
  exact putFlight_ok (cursor_free _ ▸ hc) ..

theorem variable_ok {s : State} {c : Cur} {e : Mask} {srcs : List Src} {ws : List Wr} {cls : Drn} {sbit : Bool}
    (hc : s.cursor = some c) (h : Room s c e srcs (ws.filter Wr.isV).length (ws.filter Wr.isG).length) :
    s.variable c e srcs ws cls sbit = .next (inFlightLater s c e srcs (laterFlight s cls ws) sbit) := by
  rw [State.variable, allocate_ok h, putLater_ok hc]; simp [laterFlight]

/-! ## An instruction that changes its block, or the context, where it issues -/

theorem block_setBlock {s : State} {n : Nat} {b b' : Block} (h : s.block? n = some b) (hid : b'.id = b.id) :
    (s.setBlock b').block? n = some b' := by
  have hb : b.id = n := by have := List.find?_some h; simpa using this
  unfold State.block? at h ⊢
  simp only [State.setBlock, List.find?_map]
  have : ((fun x : Block => x.id == n) ∘ fun x => if x.id = b'.id then b' else x) = fun x : Block => x.id == n := by
    funext x
    simp only [Function.comp]
    split
    · rename_i hx; rw [hx]
    · rfl
  rw [this, h]
  simp [hid]
theorem updBlock_eq {s : State} {n : Nat} {b : Block} (h : s.block? n = some b) (f : Block → Block) :
    s.updBlock n f = s.setBlock (f b) := by rw [State.updBlock, h]

/-- The cursor after a change of the issuing block that keeps its groups and what names it. -/
theorem updBlock_cursor {s : State} {c : Cur} (hc : s.cursor = some c) (f : Block → Block) (hid : (f c.b).id = c.b.id)
    (hg : (f c.b).groups = c.b.groups) (hk : (f c.b).kobj = c.b.kobj) (hx : (f c.b).ctx = c.b.ctx) :
    (s.updBlock c.ref.blk f).cursor = some { c with b := f c.b } := by
  obtain ⟨hb, hi, hgr, hke, hct, hp, i, hcur, hr, hw⟩ := cursor_spec hc
  have hb' := block_setBlock hb hid
  rw [updBlock_eq hb]
  unfold State.cursor
  rw [show (s.setBlock (f c.b)).cur = s.cur from rfl, hcur]
  simp only [hr, hb', hg, hgr, hk, hx]
  rw [show (s.setBlock (f c.b)).kernel? c.b.kobj = s.kernel? c.b.kobj from rfl,
    show (s.setBlock (f c.b)).ctx? c.b.ctx = s.ctx? c.b.ctx from rfl]
  simp only [hke, hct, hp, hw]
/-- Replacing the issuing group after such a change. -/
theorem withGroup_updBlock {s : State} {c : Cur} (hc : s.cursor = some c) (f : Block → Block)
    (g : Group) : withGroup (s.updBlock c.ref.blk f) { c with b := f c.b } g = withGroup s { c with b := f c.b } g := by
  obtain ⟨hb, hi, -⟩ := cursor_spec hc
  rw [updBlock_eq hb, withGroup, withGroup]
  simp only [State.setBlock, List.map_map]
  congr 1
  refine List.map_congr_left fun x _ => ?_
  simp only [Function.comp]
  by_cases hx : x.id = (f c.b).id
  · simp [hx]
  · simp [hx]
theorem putFlight_updBlock {s : State} {c : Cur} (hc : s.cursor = some c) (f : Block → Block) (hid : (f c.b).id = c.b.id)
    (hg : (f c.b).groups = c.b.groups) (hk : (f c.b).kobj = c.b.kobj) (hx : (f c.b).ctx = c.b.ctx) (e : Mask)
    (srcs : List Src) (fl : Flight) (sbit : Bool) :
    (s.updBlock c.ref.blk f).putFlight c e srcs fl sbit = inFlight s { c with b := f c.b } e srcs fl sbit := by
  have h := putFlight_ok (updBlock_cursor hc f hid hg hk hx) e srcs fl sbit
  have hu : (s.updBlock c.ref.blk f).uid = s.uid := by
    rw [State.updBlock]; split <;> rfl
  refine Eq.trans (b := (s.updBlock c.ref.blk f).putFlight { c with b := f c.b } e srcs fl sbit) rfl (h.trans ?_)
  rw [inFlight, inFlight, hu]
  have hs : ({ s.updBlock c.ref.blk f with uid := s.uid + 1 } : State) =
      ({ s with uid := s.uid + 1 } : State).updBlock c.ref.blk f := by
    simp only [State.updBlock]
    rw [show ({ s with uid := s.uid + 1 } : State).block? c.ref.blk = s.block? c.ref.blk from rfl]
    split <;> rfl
  rw [hs, withGroup_updBlock (cursor_uid _ ▸ hc) f]
theorem putLater_updBlock {s : State} {c : Cur} (hc : s.cursor = some c) (f : Block → Block) (hid : (f c.b).id = c.b.id)
    (hg : (f c.b).groups = c.b.groups) (hk : (f c.b).kobj = c.b.kobj) (hx : (f c.b).ctx = c.b.ctx) (e : Mask)
    (srcs : List Src) (fl : Flight) (sbit : Bool) :
    (s.updBlock c.ref.blk f).putLater c e srcs fl sbit =
      inFlightLater s { c with b := f c.b } e srcs { fl with due := some (s.cc + (1 + Config.latency s.free)),
                                                             board := fl.board || !fl.writes.isEmpty || fl.poison.isSome } sbit := by
  have hs : ({ s.updBlock c.ref.blk f with free := s.free + 1 } : State) =
      ({ s with free := s.free + 1 } : State).updBlock c.ref.blk f := by
    simp only [State.updBlock]
    rw [show ({ s with free := s.free + 1 } : State).block? c.ref.blk = s.block? c.ref.blk from rfl]
    split <;> rfl
  have hf : (s.updBlock c.ref.blk f).free = s.free ∧ (s.updBlock c.ref.blk f).cc = s.cc := by
    rw [State.updBlock]; split <;> exact ⟨rfl, rfl⟩
  have h : (s.updBlock c.ref.blk f).putLater c e srcs fl sbit =
      ({ s.updBlock c.ref.blk f with free := (s.updBlock c.ref.blk f).free + 1 } : State).putFlight c e srcs
        { fl with due := some ((s.updBlock c.ref.blk f).cc + (1 + Config.latency (s.updBlock c.ref.blk f).free)),
                  board := fl.board || !fl.writes.isEmpty || fl.poison.isSome } sbit := rfl
  rw [h, hf.1, hs, hf.2, inFlightLater, putFlight_updBlock (cursor_free _ ▸ hc) f hid hg hk hx]

/-! ## The writes of a destination -/

theorem wrV_one (d : Nat) (e : Mask) (val : Nat → Nat) :
    wrV d 1 e val = [lanesWr d e fun l => BitVec.ofNat 32 (val l)] := by
  simp [wrV, lanesWr]
theorem wrG_eq (d val : Nat) : wrG d val = groupWr d (BitVec.ofNat 64 val) := rfl

theorem needs_v (u : Bool) (d : BitVec 6) (e : Mask) (x : Nat → BitVec 32) (y : BitVec 64) :
    ((destWr u d.toNat e x y).filter Wr.isV).length = needV u 1 := by
  cases u
  · rfl
  · simp only [destWr, groupWr, needV, if_true]; split <;> rfl
theorem needs_g (u : Bool) (d : BitVec 6) (e : Mask) (x : Nat → BitVec 32) (y : BitVec 64) :
    ((destWr u d.toNat e x y).filter Wr.isG).length = needG u d := by
  cases u
  · rfl
  · by_cases h : d = 0
    · subst h; rfl
    · have h' : d.toNat ≠ 0 := fun e => h (BitVec.eq_of_toNat_eq (by simpa using e))
      have h'' : (d != 0) = true := by simpa using h
      simp only [destWr, groupWr, needG, if_true, if_neg h', h'', Bool.and_true]
      rfl

/-- The registers of a destination of one register can be allocated. -/
theorem room_dest {s : State} {c : Cur} {e e' : Mask} {srcs : List Src} {u : Bool} {d : BitVec 6} {x : Nat → BitVec 32}
    {y : BitVec 64} (h : Room s c e srcs (needV u 1) (needG u d)) :
    Room s c e srcs ((destWr u d.toNat e' x y).filter Wr.isV).length ((destWr u d.toNat e' x y).filter Wr.isG).length := by
  rw [needs_v, needs_g]; exact h

/-- A result of one destination register, of a fixed latency. -/
theorem fixed_dest {s : State} {c : Cur} {e e' : Mask} {srcs : List Src} {u : Bool} {d : BitVec 6} {val : Nat → Nat}
    {x : Nat → BitVec 32} {y : BitVec 64} {lat flags : Nat} {sbit : Bool} (hc : s.cursor = some c)
    (h : Room s c e srcs (needV u 1) (needG u d)) (hv : u = false → ∀ l, BitVec.ofNat 32 (val l) = x l)
    (hg : u = true → BitVec.ofNat 64 (val 0) = y) :
    s.fixed c e srcs (if u then wrG d.toNat (val 0) else wrV d.toNat 1 e' val) lat flags sbit =
      .next (inFlight s c e srcs (fixedFlight s lat flags (destWr u d.toNat e' x y)) sbit) := by
  have : (if u then wrG d.toNat (val 0) else wrV d.toNat 1 e' val) = destWr u d.toNat e' x y := by
    cases u
    · simp [destWr, wrV_one, hv]
    · simp [destWr, wrG_eq, hg]
  rw [this, fixed_ok hc (room_dest h)]

/-- `Compute` of R133 for one destination register: the function's value in every lane of the mask, or for the group. -/
theorem compute_ok {s : State} {c : Cur} {f : V3} {na nb nc latV latG : Nat} {fn : Nat → Nat → Nat → Nat → Nat}
    {x : Nat → BitVec 32} {y : BitVec 64}
    (h : Issues s c none (f.srcs na nb nc ++ [f.dst 1]) (f.srcs na nb nc) f.mask)
    (hr : Room s c (f.mask c) (f.srcs na nb nc) (needV f.u 1) (needG f.u f.d))
    (hv : f.u = false → ∀ l, BitVec.ofNat 32 (fn 32 (if na = 0 then 0 else c.g.read (f.srcA na) l)
      (if nb = 0 then 0 else c.g.read (f.srcB nb) l) (if nc = 0 then 0 else c.g.read (f.srcC nc) l)) = x l)
    (hg : f.u = true → BitVec.ofNat 64 (fn 64 (if na = 0 then 0 else c.g.read (f.srcA na) 0)
      (if nb = 0 then 0 else c.g.read (f.srcB nb) 0) (if nc = 0 then 0 else c.g.read (f.srcC nc) 0)) = y) :
    s.compute f 1 na nb nc (latU f.u latV latG) fn =
      .next (inFlight s c (f.mask c) (f.srcs na nb nc)
        (fixedFlight s (if f.u then latG else latV) 0 (destWr f.u f.d.toNat (f.mask c) x y)) f.s) := by
  rw [State.compute]
  simp only []
  rw [issue_ok h]
  exact fixed_dest h.1 hr (fun hu l => by simpa [hu] using hv hu l) (fun hu => by simpa [hu] using hg hu)

/-! ## What a lane and a group register hold -/

theorem lane?_lt {g : Group} {n l x : Nat} (h : g.lane? n l = some x) : x < 2 ^ 32 := by
  unfold Group.lane? at h
  split at h
  · split at h
    · cases h
    · cases h; exact BitVec.isLt _
  · cases h
theorem lane?_getD_lt (g : Group) (n l : Nat) : (g.lane? n l).getD 0 < 2 ^ 32 := by
  cases h : g.lane? n l with
  | none => simp
  | some x => simpa using lane?_lt h
theorem gval_lt (g : Group) (n : Nat) : g.gval n < 2 ^ 64 := by
  unfold Group.gval Group.gval?
  split
  · simp
  · cases (g.g[n]?).join with
    | none => simp
    | some x => simpa using x.isLt
/-- A read of n vector registers is below 2 to the 32 n; of a group register, below 2 to the 64. -/
theorem read_lt (g : Group) (o : Src) (l : Nat) : g.read o l < 2 ^ (if o.grp then 64 else 32 * o.n) := by
  unfold Group.read
  split
  · exact gval_lt ..
  · have : ∀ rs : List Nat, rs.foldr (fun r acc => ((g.lane? r (o.lane l)).getD 0) + 2 ^ 32 * acc) 0 < 2 ^ (32 * rs.length) := by
      intro rs
      induction rs with
      | nil => simp
      | cons r rs ih =>
        have h1 := lane?_getD_lt g r (o.lane l)
        simp only [List.foldr_cons, List.length_cons, Nat.mul_add, Nat.pow_add, Nat.mul_one]
        generalize List.foldr _ 0 rs = a at ih ⊢
        generalize 2 ^ (32 * rs.length) = b at ih ⊢
        omega
    simpa [Src.regs] using this o.regs
theorem usrc_lt (g : Group) (u : Bool) (x : BitVec 9) (par : BitVec 6) (field l : Nat) :
    g.read (usrc u x par 1 field) l < 2 ^ (if u then 64 else 32) := by
  have := read_lt g (usrc u x par 1 field) l
  cases u <;> simpa [usrc, gsrc, vsrc] using this

end Sys2Proof.Laws
end

