-- ==== Sys2Proof/Laws/Memory.lean ====
section
/-!
SUPPORT. The memory list: every operation keeps its canonical form, and a read after a write.
-/
namespace Sys2Proof.Laws
open Sys2Proof.Machine Sys2Proof.Safety

/-! ## The list -/

theorem wfFrom_mono {m : List Host.Cell} {lo lo' : Nat} (h : lo' ≤ lo) (hw : Memory.wfFrom lo m = true) :
    Memory.wfFrom lo' m = true := by
  cases m with
  | nil => rfl
  | cons x m =>
    obtain ⟨a, b⟩ := x
    simp only [Memory.wfFrom, Bool.and_eq_true, decide_eq_true_eq] at hw ⊢
    exact ⟨⟨by omega, hw.1.2⟩, hw.2⟩

theorem write_wfFrom (x : Nat) (v : Byte) (m : List Host.Cell) (lo : Nat) (hlo : lo ≤ x) (hw : Memory.wfFrom lo m = true) :
    Memory.wfFrom lo (Memory.write m x v) = true := by
  induction m generalizing lo with
  | nil =>
    unfold Memory.write
    split
    · rfl
    · simp only [Memory.wfFrom, Bool.and_true, Bool.and_eq_true, decide_eq_true_eq, bne_iff_ne]
      exact ⟨hlo, ‹_›⟩
  | cons y m ih =>
    obtain ⟨a, b⟩ := y
    simp only [Memory.wfFrom, Bool.and_eq_true, decide_eq_true_eq, bne_iff_ne] at hw
    unfold Memory.write
    split
    · split
      · simp only [Memory.wfFrom, Bool.and_eq_true, decide_eq_true_eq, bne_iff_ne]; exact hw
      · simp only [Memory.wfFrom, Bool.and_eq_true, decide_eq_true_eq, bne_iff_ne]
        exact ⟨⟨hlo, ‹_›⟩, ⟨by omega, hw.1.2⟩, hw.2⟩
    · split
      · split
        · exact wfFrom_mono (by omega) hw.2
        · simp only [Memory.wfFrom, Bool.and_eq_true, decide_eq_true_eq, bne_iff_ne]
          refine ⟨⟨hlo, ‹_›⟩, ?_⟩
          subst_vars; exact hw.2
      · simp only [Memory.wfFrom, Bool.and_eq_true, decide_eq_true_eq, bne_iff_ne]
        exact ⟨hw.1, ih (a + 1) (by omega) hw.2⟩

/-- A write of one byte keeps the canonical form. -/
theorem write_wf {m : List Host.Cell} (x : Nat) (v : Byte) (h : Memory.wf m = true) : Memory.wf (Memory.write m x v) = true :=
  write_wfFrom x v m 0 (Nat.zero_le _) h
/-- So does a write of several. -/
theorem writeN_wf (bs : List Byte) (m : List Host.Cell) (a : Nat) (h : Memory.wf m = true) :
    Memory.wf (Memory.writeN m a bs) = true := by
  induction bs generalizing m a with
  | nil => exact h
  | cons b bs ih => exact ih _ _ (write_wf a b h)

theorem read_below {m : List Host.Cell} {lo x : Nat} (hw : Memory.wfFrom lo m = true) (h : x < lo) : Memory.read m x = 0 := by
  cases m with
  | nil => rfl
  | cons y m =>
    obtain ⟨a, b⟩ := y
    simp only [Memory.wfFrom, Bool.and_eq_true, decide_eq_true_eq] at hw
    have h1 : a ≠ x := by omega
    have h2 : x < a := by omega
    simp [Memory.read, h1, h2]

theorem read_write_from (x y : Nat) (v : Byte) (m : List Host.Cell) (lo : Nat) (hw : Memory.wfFrom lo m = true) :
    Memory.read (Memory.write m x v) y = if y = x then v else Memory.read m y := by
  induction m generalizing lo with
  | nil =>
    unfold Memory.write
    split
    · subst_vars; split <;> rfl
    · simp only [Memory.read]
      by_cases h : x = y
      · simp [h]
      · simp [h, Ne.symm h]
  | cons c m ih =>
    obtain ⟨a, b⟩ := c
    simp only [Memory.wfFrom, Bool.and_eq_true, decide_eq_true_eq, bne_iff_ne] at hw
    have hbelow : ∀ z, z < a + 1 → Memory.read m z = 0 := fun z hz => read_below hw.2 hz
    unfold Memory.write
    by_cases h1 : x < a
    · simp only [h1, if_true]
      by_cases hv : v = 0
      · simp only [hv, if_true]
        by_cases hy : y = x
        · subst hy
          have : a ≠ y := by omega
          simp [Memory.read, this, h1]
        · simp [hy]
      · simp only [hv, if_false]
        by_cases hy : y = x
        · subst hy; simp [Memory.read]
        · simp only [hy, if_false]
          rw [Memory.read]
          simp only [Ne.symm hy, if_false]
          by_cases hyx : y < x
          · have h2 : a ≠ y := by omega
            have h3 : y < a := by omega
            simp [hyx, Memory.read, h2, h3]
          · simp [hyx]
    · simp only [h1, if_false]
      by_cases h2 : a = x
      · subst h2
        simp only [if_true]
        by_cases hv : v = 0
        · simp only [hv, if_true]
          by_cases hy : y = a
          · subst hy; simp [hbelow]
          · simp only [hy, if_false, Memory.read]
            simp only [Ne.symm hy, if_false]
            split
            · exact hbelow y (by omega)
            · rfl
        · simp only [hv, if_false, Memory.read]
          by_cases hy : y = a
          · simp [hy]
          · simp [hy, Ne.symm hy]
      · simp only [h2, if_false, Memory.read]
        by_cases hy : a = y
        · subst hy; simp [h2]
        · simp only [hy, if_false]
          by_cases hya : y < a
          · have : y ≠ x := by omega
            simp [hya, this]
          · simp only [hya, if_false]
            exact ih (a + 1) hw.2

/-- Reading after a write of one byte. -/
theorem read_write {m : List Host.Cell} (h : Memory.wf m = true) (x y : Nat) (v : Byte) :
    Memory.read (Memory.write m x v) y = if y = x then v else Memory.read m y := read_write_from x y v m 0 h

/-! ## Physical writes -/

theorem rekey_wf (s : State) (key : Option (BitVec 256)) (pa : Nat) (h : MemOk s) : MemOk (s.rekey key pa) := by
  rw [State.rekey]
  split
  · exact h
  · have := writeN_wf ((List.range 64).map fun i => s.readByte key (pa / 64 * 64 + i)) s.mem (pa / 64 * 64) h
    dsimp only [MemOk]
    generalize (List.range 64).map (fun i => s.readByte key (pa / 64 * 64 + i)) = bs at this ⊢
    exact this
theorem writeBytes_wf (bs : List Byte) (s : State) (key : Option (BitVec 256)) (pa : Nat) (h : MemOk s) :
    MemOk (s.writeBytes key pa bs) := by
  induction bs generalizing s pa with
  | nil => exact h
  | cons b bs ih =>
    rw [State.writeBytes]
    apply ih
    have := rekey_wf s key (s.home pa) h
    generalize s.rekey key (s.home pa) = t at this ⊢
    exact write_wf (t.home pa) b this
/-- One write of the device's memory keeps the canonical form. -/
theorem writePhys_wf (s : State) (key : Option (BitVec 256)) (pa : Nat) (bs : List Byte) (h : MemOk s) :
    MemOk (s.writePhys key pa bs) := by
  unfold State.writePhys
  split
  · exact h
  · exact writeBytes_wf bs (s.countWrite pa bs.length) key pa h
theorem writePieces_wf (ps : List Piece) (s : State) (bs : List Byte) (h : MemOk s) : MemOk (s.writePieces ps bs) := by
  induction ps generalizing s bs with
  | nil => exact h
  | cons p ps ih =>
    unfold State.writePieces
    apply ih
    split
    · exact h
    · exact writePhys_wf _ _ _ _ h

/-- The memory of the state after reset has the form. -/
theorem reset_wf : MemOk State.reset := rfl

end Sys2Proof.Laws
end

