-- ==== Sys2Proof/Laws/State.lean ====
section
/-!
SUPPORT. Each update of the state leaves every field but its own as it was.
-/
namespace Sys2Proof.Laws
open Sys2Proof.Machine

/-! ## setBlock -/

@[simp] theorem setBlock_pkg (s : State) (b : Block) : (s.setBlock b).pkg = s.pkg := rfl
@[simp] theorem setBlock_cc (s : State) (b : Block) : (s.setBlock b).cc = s.cc := rfl
@[simp] theorem setBlock_ct (s : State) (b : Block) : (s.setBlock b).ct = s.ct := rfl
@[simp] theorem setBlock_ctFrac (s : State) (b : Block) : (s.setBlock b).ctFrac = s.ctFrac := rfl
@[simp] theorem setBlock_free (s : State) (b : Block) : (s.setBlock b).free = s.free := rfl
@[simp] theorem setBlock_uid (s : State) (b : Block) : (s.setBlock b).uid = s.uid := rfl
@[simp] theorem setBlock_inbox (s : State) (b : Block) : (s.setBlock b).inbox = s.inbox := rfl
@[simp] theorem setBlock_cur (s : State) (b : Block) : (s.setBlock b).cur = s.cur := rfl
@[simp] theorem setBlock_quarter (s : State) (b : Block) : (s.setBlock b).quarter = s.quarter := rfl
@[simp] theorem setBlock_rr (s : State) (b : Block) : (s.setBlock b).rr = s.rr := rfl
@[simp] theorem setBlock_stewards (s : State) (b : Block) : (s.setBlock b).stewards = s.stewards := rfl
@[simp] theorem setBlock_turns (s : State) (b : Block) : (s.setBlock b).turns = s.turns := rfl
@[simp] theorem setBlock_bgens (s : State) (b : Block) : (s.setBlock b).bgens = s.bgens := rfl
@[simp] theorem setBlock_mem (s : State) (b : Block) : (s.setBlock b).mem = s.mem := rfl
@[simp] theorem setBlock_poison (s : State) (b : Block) : (s.setBlock b).poison = s.poison := rfl
@[simp] theorem setBlock_granKey (s : State) (b : Block) : (s.setBlock b).granKey = s.granKey := rfl
@[simp] theorem setBlock_keySlots (s : State) (b : Block) : (s.setBlock b).keySlots = s.keySlots := rfl
@[simp] theorem setBlock_tlb (s : State) (b : Block) : (s.setBlock b).tlb = s.tlb := rfl
@[simp] theorem setBlock_pools (s : State) (b : Block) : (s.setBlock b).pools = s.pools := rfl
@[simp] theorem setBlock_dirtyFrames (s : State) (b : Block) : (s.setBlock b).dirtyFrames = s.dirtyFrames := rfl
@[simp] theorem setBlock_pages (s : State) (b : Block) : (s.setBlock b).pages = s.pages := rfl
@[simp] theorem setBlock_ap (s : State) (b : Block) : (s.setBlock b).ap = s.ap := rfl
@[simp] theorem setBlock_hqPoison (s : State) (b : Block) : (s.setBlock b).hqPoison = s.hqPoison := rfl
@[simp] theorem setBlock_migs (s : State) (b : Block) : (s.setBlock b).migs = s.migs := rfl
@[simp] theorem setBlock_ceCnt (s : State) (b : Block) : (s.setBlock b).ceCnt = s.ceCnt := rfl
@[simp] theorem setBlock_poisCnt (s : State) (b : Block) : (s.setBlock b).poisCnt = s.poisCnt := rfl
@[simp] theorem setBlock_ctxs (s : State) (b : Block) : (s.setBlock b).ctxs = s.ctxs := rfl
@[simp] theorem setBlock_kernels (s : State) (b : Block) : (s.setBlock b).kernels = s.kernels := rfl
@[simp] theorem setBlock_nextKobj (s : State) (b : Block) : (s.setBlock b).nextKobj = s.nextKobj := rfl
@[simp] theorem setBlock_bufs (s : State) (b : Block) : (s.setBlock b).bufs = s.bufs := rfl
@[simp] theorem setBlock_hqs (s : State) (b : Block) : (s.setBlock b).hqs = s.hqs := rfl
@[simp] theorem setBlock_items (s : State) (b : Block) : (s.setBlock b).items = s.items := rfl
@[simp] theorem setBlock_tcbs (s : State) (b : Block) : (s.setBlock b).tcbs = s.tcbs := rfl
@[simp] theorem setBlock_phases (s : State) (b : Block) : (s.setBlock b).phases = s.phases := rfl
@[simp] theorem setBlock_cancelled (s : State) (b : Block) : (s.setBlock b).cancelled = s.cancelled := rfl
@[simp] theorem setBlock_uqs (s : State) (b : Block) : (s.setBlock b).uqs = s.uqs := rfl
@[simp] theorem setBlock_nodes (s : State) (b : Block) : (s.setBlock b).nodes = s.nodes := rfl
@[simp] theorem setBlock_refs (s : State) (b : Block) : (s.setBlock b).refs = s.refs := rfl
@[simp] theorem setBlock_leftFails (s : State) (b : Block) : (s.setBlock b).leftFails = s.leftFails := rfl
@[simp] theorem setBlock_lastPass (s : State) (b : Block) : (s.setBlock b).lastPass = s.lastPass := rfl
@[simp] theorem setBlock_lastReconcile (s : State) (b : Block) : (s.setBlock b).lastReconcile = s.lastReconcile := rfl
@[simp] theorem setBlock_launchMeans (s : State) (b : Block) : (s.setBlock b).launchMeans = s.launchMeans := rfl
@[simp] theorem setBlock_ports (s : State) (b : Block) : (s.setBlock b).ports = s.ports := rfl
@[simp] theorem setBlock_linkDown (s : State) (b : Block) : (s.setBlock b).linkDown = s.linkDown := rfl
@[simp] theorem setBlock_unsent (s : State) (b : Block) : (s.setBlock b).unsent = s.unsent := rfl
@[simp] theorem setBlock_pkgNo (s : State) (b : Block) : (s.setBlock b).pkgNo = s.pkgNo := rfl
@[simp] theorem setBlock_cxlDown (s : State) (b : Block) : (s.setBlock b).cxlDown = s.cxlDown := rfl
@[simp] theorem setBlock_wins (s : State) (b : Block) : (s.setBlock b).wins = s.wins := rfl
@[simp] theorem setBlock_bootstat (s : State) (b : Block) : (s.setBlock b).bootstat = s.bootstat := rfl
@[simp] theorem setBlock_mr (s : State) (b : Block) : (s.setBlock b).mr = s.mr := rfl
@[simp] theorem setBlock_fwsv (s : State) (b : Block) : (s.setBlock b).fwsv = s.fwsv := rfl
@[simp] theorem setBlock_codesv (s : State) (b : Block) : (s.setBlock b).codesv = s.codesv := rfl
@[simp] theorem setBlock_fuseFw (s : State) (b : Block) : (s.setBlock b).fuseFw = s.fuseFw := rfl
@[simp] theorem setBlock_fuseCode (s : State) (b : Block) : (s.setBlock b).fuseCode = s.fuseCode := rfl
@[simp] theorem setBlock_owner (s : State) (b : Block) : (s.setBlock b).owner = s.owner := rfl
@[simp] theorem setBlock_handover (s : State) (b : Block) : (s.setBlock b).handover = s.handover := rfl
@[simp] theorem setBlock_masters (s : State) (b : Block) : (s.setBlock b).masters = s.masters := rfl
@[simp] theorem setBlock_heldCmds (s : State) (b : Block) : (s.setBlock b).heldCmds = s.heldCmds := rfl
@[simp] theorem setBlock_tenants (s : State) (b : Block) : (s.setBlock b).tenants = s.tenants := rfl
@[simp] theorem setBlock_pwrcap (s : State) (b : Block) : (s.setBlock b).pwrcap = s.pwrcap := rfl
@[simp] theorem setBlock_pwrnow (s : State) (b : Block) : (s.setBlock b).pwrnow = s.pwrnow := rfl
@[simp] theorem setBlock_dvfs (s : State) (b : Block) : (s.setBlock b).dvfs = s.dvfs := rfl
@[simp] theorem setBlock_temp (s : State) (b : Block) : (s.setBlock b).temp = s.temp := rfl
@[simp] theorem setBlock_coolSince (s : State) (b : Block) : (s.setBlock b).coolSince = s.coolSince := rfl
@[simp] theorem setBlock_thermal (s : State) (b : Block) : (s.setBlock b).thermal = s.thermal := rfl
@[simp] theorem setBlock_misses (s : State) (b : Block) : (s.setBlock b).misses = s.misses := rfl
@[simp] theorem setBlock_logHead (s : State) (b : Block) : (s.setBlock b).logHead = s.logHead := rfl
@[simp] theorem setBlock_log (s : State) (b : Block) : (s.setBlock b).log = s.log := rfl

/-! ## setGroup -/

@[simp] theorem setGroup_pkg (s : State) (i j : Nat) (g : Group) : (s.setGroup i j g).pkg = s.pkg := by
  unfold State.setGroup; split <;> rfl
@[simp] theorem setGroup_cc (s : State) (i j : Nat) (g : Group) : (s.setGroup i j g).cc = s.cc := by
  unfold State.setGroup; split <;> rfl
@[simp] theorem setGroup_ct (s : State) (i j : Nat) (g : Group) : (s.setGroup i j g).ct = s.ct := by
  unfold State.setGroup; split <;> rfl
@[simp] theorem setGroup_ctFrac (s : State) (i j : Nat) (g : Group) : (s.setGroup i j g).ctFrac = s.ctFrac := by
  unfold State.setGroup; split <;> rfl
@[simp] theorem setGroup_free (s : State) (i j : Nat) (g : Group) : (s.setGroup i j g).free = s.free := by
  unfold State.setGroup; split <;> rfl
@[simp] theorem setGroup_uid (s : State) (i j : Nat) (g : Group) : (s.setGroup i j g).uid = s.uid := by
  unfold State.setGroup; split <;> rfl
@[simp] theorem setGroup_inbox (s : State) (i j : Nat) (g : Group) : (s.setGroup i j g).inbox = s.inbox := by
  unfold State.setGroup; split <;> rfl
@[simp] theorem setGroup_cur (s : State) (i j : Nat) (g : Group) : (s.setGroup i j g).cur = s.cur := by
  unfold State.setGroup; split <;> rfl
@[simp] theorem setGroup_quarter (s : State) (i j : Nat) (g : Group) : (s.setGroup i j g).quarter = s.quarter := by
  unfold State.setGroup; split <;> rfl
@[simp] theorem setGroup_rr (s : State) (i j : Nat) (g : Group) : (s.setGroup i j g).rr = s.rr := by
  unfold State.setGroup; split <;> rfl
@[simp] theorem setGroup_stewards (s : State) (i j : Nat) (g : Group) : (s.setGroup i j g).stewards = s.stewards := by
  unfold State.setGroup; split <;> rfl
@[simp] theorem setGroup_turns (s : State) (i j : Nat) (g : Group) : (s.setGroup i j g).turns = s.turns := by
  unfold State.setGroup; split <;> rfl
@[simp] theorem setGroup_bgens (s : State) (i j : Nat) (g : Group) : (s.setGroup i j g).bgens = s.bgens := by
  unfold State.setGroup; split <;> rfl
@[simp] theorem setGroup_mem (s : State) (i j : Nat) (g : Group) : (s.setGroup i j g).mem = s.mem := by
  unfold State.setGroup; split <;> rfl
@[simp] theorem setGroup_poison (s : State) (i j : Nat) (g : Group) : (s.setGroup i j g).poison = s.poison := by
  unfold State.setGroup; split <;> rfl
@[simp] theorem setGroup_granKey (s : State) (i j : Nat) (g : Group) : (s.setGroup i j g).granKey = s.granKey := by
  unfold State.setGroup; split <;> rfl
@[simp] theorem setGroup_keySlots (s : State) (i j : Nat) (g : Group) : (s.setGroup i j g).keySlots = s.keySlots := by
  unfold State.setGroup; split <;> rfl
@[simp] theorem setGroup_tlb (s : State) (i j : Nat) (g : Group) : (s.setGroup i j g).tlb = s.tlb := by
  unfold State.setGroup; split <;> rfl
@[simp] theorem setGroup_pools (s : State) (i j : Nat) (g : Group) : (s.setGroup i j g).pools = s.pools := by
  unfold State.setGroup; split <;> rfl
@[simp] theorem setGroup_dirtyFrames (s : State) (i j : Nat) (g : Group) : (s.setGroup i j g).dirtyFrames = s.dirtyFrames := by
  unfold State.setGroup; split <;> rfl
@[simp] theorem setGroup_pages (s : State) (i j : Nat) (g : Group) : (s.setGroup i j g).pages = s.pages := by
  unfold State.setGroup; split <;> rfl
@[simp] theorem setGroup_ap (s : State) (i j : Nat) (g : Group) : (s.setGroup i j g).ap = s.ap := by
  unfold State.setGroup; split <;> rfl
@[simp] theorem setGroup_hqPoison (s : State) (i j : Nat) (g : Group) : (s.setGroup i j g).hqPoison = s.hqPoison := by
  unfold State.setGroup; split <;> rfl
@[simp] theorem setGroup_migs (s : State) (i j : Nat) (g : Group) : (s.setGroup i j g).migs = s.migs := by
  unfold State.setGroup; split <;> rfl
@[simp] theorem setGroup_ceCnt (s : State) (i j : Nat) (g : Group) : (s.setGroup i j g).ceCnt = s.ceCnt := by
  unfold State.setGroup; split <;> rfl
@[simp] theorem setGroup_poisCnt (s : State) (i j : Nat) (g : Group) : (s.setGroup i j g).poisCnt = s.poisCnt := by
  unfold State.setGroup; split <;> rfl
@[simp] theorem setGroup_ctxs (s : State) (i j : Nat) (g : Group) : (s.setGroup i j g).ctxs = s.ctxs := by
  unfold State.setGroup; split <;> rfl
@[simp] theorem setGroup_kernels (s : State) (i j : Nat) (g : Group) : (s.setGroup i j g).kernels = s.kernels := by
  unfold State.setGroup; split <;> rfl
@[simp] theorem setGroup_nextKobj (s : State) (i j : Nat) (g : Group) : (s.setGroup i j g).nextKobj = s.nextKobj := by
  unfold State.setGroup; split <;> rfl
@[simp] theorem setGroup_bufs (s : State) (i j : Nat) (g : Group) : (s.setGroup i j g).bufs = s.bufs := by
  unfold State.setGroup; split <;> rfl
@[simp] theorem setGroup_hqs (s : State) (i j : Nat) (g : Group) : (s.setGroup i j g).hqs = s.hqs := by
  unfold State.setGroup; split <;> rfl
@[simp] theorem setGroup_items (s : State) (i j : Nat) (g : Group) : (s.setGroup i j g).items = s.items := by
  unfold State.setGroup; split <;> rfl
@[simp] theorem setGroup_tcbs (s : State) (i j : Nat) (g : Group) : (s.setGroup i j g).tcbs = s.tcbs := by
  unfold State.setGroup; split <;> rfl
@[simp] theorem setGroup_phases (s : State) (i j : Nat) (g : Group) : (s.setGroup i j g).phases = s.phases := by
  unfold State.setGroup; split <;> rfl
@[simp] theorem setGroup_cancelled (s : State) (i j : Nat) (g : Group) : (s.setGroup i j g).cancelled = s.cancelled := by
  unfold State.setGroup; split <;> rfl
@[simp] theorem setGroup_uqs (s : State) (i j : Nat) (g : Group) : (s.setGroup i j g).uqs = s.uqs := by
  unfold State.setGroup; split <;> rfl
@[simp] theorem setGroup_nodes (s : State) (i j : Nat) (g : Group) : (s.setGroup i j g).nodes = s.nodes := by
  unfold State.setGroup; split <;> rfl
@[simp] theorem setGroup_refs (s : State) (i j : Nat) (g : Group) : (s.setGroup i j g).refs = s.refs := by
  unfold State.setGroup; split <;> rfl
@[simp] theorem setGroup_leftFails (s : State) (i j : Nat) (g : Group) : (s.setGroup i j g).leftFails = s.leftFails := by
  unfold State.setGroup; split <;> rfl
@[simp] theorem setGroup_lastPass (s : State) (i j : Nat) (g : Group) : (s.setGroup i j g).lastPass = s.lastPass := by
  unfold State.setGroup; split <;> rfl
@[simp] theorem setGroup_lastReconcile (s : State) (i j : Nat) (g : Group) : (s.setGroup i j g).lastReconcile = s.lastReconcile := by
  unfold State.setGroup; split <;> rfl
@[simp] theorem setGroup_launchMeans (s : State) (i j : Nat) (g : Group) : (s.setGroup i j g).launchMeans = s.launchMeans := by
  unfold State.setGroup; split <;> rfl
@[simp] theorem setGroup_ports (s : State) (i j : Nat) (g : Group) : (s.setGroup i j g).ports = s.ports := by
  unfold State.setGroup; split <;> rfl
@[simp] theorem setGroup_linkDown (s : State) (i j : Nat) (g : Group) : (s.setGroup i j g).linkDown = s.linkDown := by
  unfold State.setGroup; split <;> rfl
@[simp] theorem setGroup_unsent (s : State) (i j : Nat) (g : Group) : (s.setGroup i j g).unsent = s.unsent := by
  unfold State.setGroup; split <;> rfl
@[simp] theorem setGroup_pkgNo (s : State) (i j : Nat) (g : Group) : (s.setGroup i j g).pkgNo = s.pkgNo := by
  unfold State.setGroup; split <;> rfl
@[simp] theorem setGroup_cxlDown (s : State) (i j : Nat) (g : Group) : (s.setGroup i j g).cxlDown = s.cxlDown := by
  unfold State.setGroup; split <;> rfl
@[simp] theorem setGroup_wins (s : State) (i j : Nat) (g : Group) : (s.setGroup i j g).wins = s.wins := by
  unfold State.setGroup; split <;> rfl
@[simp] theorem setGroup_bootstat (s : State) (i j : Nat) (g : Group) : (s.setGroup i j g).bootstat = s.bootstat := by
  unfold State.setGroup; split <;> rfl
@[simp] theorem setGroup_mr (s : State) (i j : Nat) (g : Group) : (s.setGroup i j g).mr = s.mr := by
  unfold State.setGroup; split <;> rfl
@[simp] theorem setGroup_fwsv (s : State) (i j : Nat) (g : Group) : (s.setGroup i j g).fwsv = s.fwsv := by
  unfold State.setGroup; split <;> rfl
@[simp] theorem setGroup_codesv (s : State) (i j : Nat) (g : Group) : (s.setGroup i j g).codesv = s.codesv := by
  unfold State.setGroup; split <;> rfl
@[simp] theorem setGroup_fuseFw (s : State) (i j : Nat) (g : Group) : (s.setGroup i j g).fuseFw = s.fuseFw := by
  unfold State.setGroup; split <;> rfl
@[simp] theorem setGroup_fuseCode (s : State) (i j : Nat) (g : Group) : (s.setGroup i j g).fuseCode = s.fuseCode := by
  unfold State.setGroup; split <;> rfl
@[simp] theorem setGroup_owner (s : State) (i j : Nat) (g : Group) : (s.setGroup i j g).owner = s.owner := by
  unfold State.setGroup; split <;> rfl
@[simp] theorem setGroup_handover (s : State) (i j : Nat) (g : Group) : (s.setGroup i j g).handover = s.handover := by
  unfold State.setGroup; split <;> rfl
@[simp] theorem setGroup_masters (s : State) (i j : Nat) (g : Group) : (s.setGroup i j g).masters = s.masters := by
  unfold State.setGroup; split <;> rfl
@[simp] theorem setGroup_heldCmds (s : State) (i j : Nat) (g : Group) : (s.setGroup i j g).heldCmds = s.heldCmds := by
  unfold State.setGroup; split <;> rfl
@[simp] theorem setGroup_tenants (s : State) (i j : Nat) (g : Group) : (s.setGroup i j g).tenants = s.tenants := by
  unfold State.setGroup; split <;> rfl
@[simp] theorem setGroup_pwrcap (s : State) (i j : Nat) (g : Group) : (s.setGroup i j g).pwrcap = s.pwrcap := by
  unfold State.setGroup; split <;> rfl
@[simp] theorem setGroup_pwrnow (s : State) (i j : Nat) (g : Group) : (s.setGroup i j g).pwrnow = s.pwrnow := by
  unfold State.setGroup; split <;> rfl
@[simp] theorem setGroup_dvfs (s : State) (i j : Nat) (g : Group) : (s.setGroup i j g).dvfs = s.dvfs := by
  unfold State.setGroup; split <;> rfl
@[simp] theorem setGroup_temp (s : State) (i j : Nat) (g : Group) : (s.setGroup i j g).temp = s.temp := by
  unfold State.setGroup; split <;> rfl
@[simp] theorem setGroup_coolSince (s : State) (i j : Nat) (g : Group) : (s.setGroup i j g).coolSince = s.coolSince := by
  unfold State.setGroup; split <;> rfl
@[simp] theorem setGroup_thermal (s : State) (i j : Nat) (g : Group) : (s.setGroup i j g).thermal = s.thermal := by
  unfold State.setGroup; split <;> rfl
@[simp] theorem setGroup_misses (s : State) (i j : Nat) (g : Group) : (s.setGroup i j g).misses = s.misses := by
  unfold State.setGroup; split <;> rfl
@[simp] theorem setGroup_logHead (s : State) (i j : Nat) (g : Group) : (s.setGroup i j g).logHead = s.logHead := by
  unfold State.setGroup; split <;> rfl
@[simp] theorem setGroup_log (s : State) (i j : Nat) (g : Group) : (s.setGroup i j g).log = s.log := by
  unfold State.setGroup; split <;> rfl

/-! ## updPath -/

@[simp] theorem updPath_pkg (s : State) (r : PRef) (f : Path → Path) : (s.updPath r f).pkg = s.pkg := by
  unfold State.updPath; split <;> [split <;> simp; rfl]
@[simp] theorem updPath_cc (s : State) (r : PRef) (f : Path → Path) : (s.updPath r f).cc = s.cc := by
  unfold State.updPath; split <;> [split <;> simp; rfl]
@[simp] theorem updPath_ct (s : State) (r : PRef) (f : Path → Path) : (s.updPath r f).ct = s.ct := by
  unfold State.updPath; split <;> [split <;> simp; rfl]
@[simp] theorem updPath_ctFrac (s : State) (r : PRef) (f : Path → Path) : (s.updPath r f).ctFrac = s.ctFrac := by
  unfold State.updPath; split <;> [split <;> simp; rfl]
@[simp] theorem updPath_free (s : State) (r : PRef) (f : Path → Path) : (s.updPath r f).free = s.free := by
  unfold State.updPath; split <;> [split <;> simp; rfl]
@[simp] theorem updPath_uid (s : State) (r : PRef) (f : Path → Path) : (s.updPath r f).uid = s.uid := by
  unfold State.updPath; split <;> [split <;> simp; rfl]
@[simp] theorem updPath_inbox (s : State) (r : PRef) (f : Path → Path) : (s.updPath r f).inbox = s.inbox := by
  unfold State.updPath; split <;> [split <;> simp; rfl]
@[simp] theorem updPath_cur (s : State) (r : PRef) (f : Path → Path) : (s.updPath r f).cur = s.cur := by
  unfold State.updPath; split <;> [split <;> simp; rfl]
@[simp] theorem updPath_quarter (s : State) (r : PRef) (f : Path → Path) : (s.updPath r f).quarter = s.quarter := by
  unfold State.updPath; split <;> [split <;> simp; rfl]
@[simp] theorem updPath_rr (s : State) (r : PRef) (f : Path → Path) : (s.updPath r f).rr = s.rr := by
  unfold State.updPath; split <;> [split <;> simp; rfl]
@[simp] theorem updPath_stewards (s : State) (r : PRef) (f : Path → Path) : (s.updPath r f).stewards = s.stewards := by
  unfold State.updPath; split <;> [split <;> simp; rfl]
@[simp] theorem updPath_turns (s : State) (r : PRef) (f : Path → Path) : (s.updPath r f).turns = s.turns := by
  unfold State.updPath; split <;> [split <;> simp; rfl]
@[simp] theorem updPath_bgens (s : State) (r : PRef) (f : Path → Path) : (s.updPath r f).bgens = s.bgens := by
  unfold State.updPath; split <;> [split <;> simp; rfl]
@[simp] theorem updPath_mem (s : State) (r : PRef) (f : Path → Path) : (s.updPath r f).mem = s.mem := by
  unfold State.updPath; split <;> [split <;> simp; rfl]
@[simp] theorem updPath_poison (s : State) (r : PRef) (f : Path → Path) : (s.updPath r f).poison = s.poison := by
  unfold State.updPath; split <;> [split <;> simp; rfl]
@[simp] theorem updPath_granKey (s : State) (r : PRef) (f : Path → Path) : (s.updPath r f).granKey = s.granKey := by
  unfold State.updPath; split <;> [split <;> simp; rfl]
@[simp] theorem updPath_keySlots (s : State) (r : PRef) (f : Path → Path) : (s.updPath r f).keySlots = s.keySlots := by
  unfold State.updPath; split <;> [split <;> simp; rfl]
@[simp] theorem updPath_tlb (s : State) (r : PRef) (f : Path → Path) : (s.updPath r f).tlb = s.tlb := by
  unfold State.updPath; split <;> [split <;> simp; rfl]
@[simp] theorem updPath_pools (s : State) (r : PRef) (f : Path → Path) : (s.updPath r f).pools = s.pools := by
  unfold State.updPath; split <;> [split <;> simp; rfl]
@[simp] theorem updPath_dirtyFrames (s : State) (r : PRef) (f : Path → Path) : (s.updPath r f).dirtyFrames = s.dirtyFrames := by
  unfold State.updPath; split <;> [split <;> simp; rfl]
@[simp] theorem updPath_pages (s : State) (r : PRef) (f : Path → Path) : (s.updPath r f).pages = s.pages := by
  unfold State.updPath; split <;> [split <;> simp; rfl]
@[simp] theorem updPath_ap (s : State) (r : PRef) (f : Path → Path) : (s.updPath r f).ap = s.ap := by
  unfold State.updPath; split <;> [split <;> simp; rfl]
@[simp] theorem updPath_hqPoison (s : State) (r : PRef) (f : Path → Path) : (s.updPath r f).hqPoison = s.hqPoison := by
  unfold State.updPath; split <;> [split <;> simp; rfl]
@[simp] theorem updPath_migs (s : State) (r : PRef) (f : Path → Path) : (s.updPath r f).migs = s.migs := by
  unfold State.updPath; split <;> [split <;> simp; rfl]
@[simp] theorem updPath_ceCnt (s : State) (r : PRef) (f : Path → Path) : (s.updPath r f).ceCnt = s.ceCnt := by
  unfold State.updPath; split <;> [split <;> simp; rfl]
@[simp] theorem updPath_poisCnt (s : State) (r : PRef) (f : Path → Path) : (s.updPath r f).poisCnt = s.poisCnt := by
  unfold State.updPath; split <;> [split <;> simp; rfl]
@[simp] theorem updPath_ctxs (s : State) (r : PRef) (f : Path → Path) : (s.updPath r f).ctxs = s.ctxs := by
  unfold State.updPath; split <;> [split <;> simp; rfl]
@[simp] theorem updPath_kernels (s : State) (r : PRef) (f : Path → Path) : (s.updPath r f).kernels = s.kernels := by
  unfold State.updPath; split <;> [split <;> simp; rfl]
@[simp] theorem updPath_nextKobj (s : State) (r : PRef) (f : Path → Path) : (s.updPath r f).nextKobj = s.nextKobj := by
  unfold State.updPath; split <;> [split <;> simp; rfl]
@[simp] theorem updPath_bufs (s : State) (r : PRef) (f : Path → Path) : (s.updPath r f).bufs = s.bufs := by
  unfold State.updPath; split <;> [split <;> simp; rfl]
@[simp] theorem updPath_hqs (s : State) (r : PRef) (f : Path → Path) : (s.updPath r f).hqs = s.hqs := by
  unfold State.updPath; split <;> [split <;> simp; rfl]
@[simp] theorem updPath_items (s : State) (r : PRef) (f : Path → Path) : (s.updPath r f).items = s.items := by
  unfold State.updPath; split <;> [split <;> simp; rfl]
@[simp] theorem updPath_tcbs (s : State) (r : PRef) (f : Path → Path) : (s.updPath r f).tcbs = s.tcbs := by
  unfold State.updPath; split <;> [split <;> simp; rfl]
@[simp] theorem updPath_phases (s : State) (r : PRef) (f : Path → Path) : (s.updPath r f).phases = s.phases := by
  unfold State.updPath; split <;> [split <;> simp; rfl]
@[simp] theorem updPath_cancelled (s : State) (r : PRef) (f : Path → Path) : (s.updPath r f).cancelled = s.cancelled := by
  unfold State.updPath; split <;> [split <;> simp; rfl]
@[simp] theorem updPath_uqs (s : State) (r : PRef) (f : Path → Path) : (s.updPath r f).uqs = s.uqs := by
  unfold State.updPath; split <;> [split <;> simp; rfl]
@[simp] theorem updPath_nodes (s : State) (r : PRef) (f : Path → Path) : (s.updPath r f).nodes = s.nodes := by
  unfold State.updPath; split <;> [split <;> simp; rfl]
@[simp] theorem updPath_refs (s : State) (r : PRef) (f : Path → Path) : (s.updPath r f).refs = s.refs := by
  unfold State.updPath; split <;> [split <;> simp; rfl]
@[simp] theorem updPath_leftFails (s : State) (r : PRef) (f : Path → Path) : (s.updPath r f).leftFails = s.leftFails := by
  unfold State.updPath; split <;> [split <;> simp; rfl]
@[simp] theorem updPath_lastPass (s : State) (r : PRef) (f : Path → Path) : (s.updPath r f).lastPass = s.lastPass := by
  unfold State.updPath; split <;> [split <;> simp; rfl]
@[simp] theorem updPath_lastReconcile (s : State) (r : PRef) (f : Path → Path) : (s.updPath r f).lastReconcile = s.lastReconcile := by
  unfold State.updPath; split <;> [split <;> simp; rfl]
@[simp] theorem updPath_launchMeans (s : State) (r : PRef) (f : Path → Path) : (s.updPath r f).launchMeans = s.launchMeans := by
  unfold State.updPath; split <;> [split <;> simp; rfl]
@[simp] theorem updPath_ports (s : State) (r : PRef) (f : Path → Path) : (s.updPath r f).ports = s.ports := by
  unfold State.updPath; split <;> [split <;> simp; rfl]
@[simp] theorem updPath_linkDown (s : State) (r : PRef) (f : Path → Path) : (s.updPath r f).linkDown = s.linkDown := by
  unfold State.updPath; split <;> [split <;> simp; rfl]
@[simp] theorem updPath_unsent (s : State) (r : PRef) (f : Path → Path) : (s.updPath r f).unsent = s.unsent := by
  unfold State.updPath; split <;> [split <;> simp; rfl]
@[simp] theorem updPath_pkgNo (s : State) (r : PRef) (f : Path → Path) : (s.updPath r f).pkgNo = s.pkgNo := by
  unfold State.updPath; split <;> [split <;> simp; rfl]
@[simp] theorem updPath_cxlDown (s : State) (r : PRef) (f : Path → Path) : (s.updPath r f).cxlDown = s.cxlDown := by
  unfold State.updPath; split <;> [split <;> simp; rfl]
@[simp] theorem updPath_wins (s : State) (r : PRef) (f : Path → Path) : (s.updPath r f).wins = s.wins := by
  unfold State.updPath; split <;> [split <;> simp; rfl]
@[simp] theorem updPath_bootstat (s : State) (r : PRef) (f : Path → Path) : (s.updPath r f).bootstat = s.bootstat := by
  unfold State.updPath; split <;> [split <;> simp; rfl]
@[simp] theorem updPath_mr (s : State) (r : PRef) (f : Path → Path) : (s.updPath r f).mr = s.mr := by
  unfold State.updPath; split <;> [split <;> simp; rfl]
@[simp] theorem updPath_fwsv (s : State) (r : PRef) (f : Path → Path) : (s.updPath r f).fwsv = s.fwsv := by
  unfold State.updPath; split <;> [split <;> simp; rfl]
@[simp] theorem updPath_codesv (s : State) (r : PRef) (f : Path → Path) : (s.updPath r f).codesv = s.codesv := by
  unfold State.updPath; split <;> [split <;> simp; rfl]
@[simp] theorem updPath_fuseFw (s : State) (r : PRef) (f : Path → Path) : (s.updPath r f).fuseFw = s.fuseFw := by
  unfold State.updPath; split <;> [split <;> simp; rfl]
@[simp] theorem updPath_fuseCode (s : State) (r : PRef) (f : Path → Path) : (s.updPath r f).fuseCode = s.fuseCode := by
  unfold State.updPath; split <;> [split <;> simp; rfl]
@[simp] theorem updPath_owner (s : State) (r : PRef) (f : Path → Path) : (s.updPath r f).owner = s.owner := by
  unfold State.updPath; split <;> [split <;> simp; rfl]
@[simp] theorem updPath_handover (s : State) (r : PRef) (f : Path → Path) : (s.updPath r f).handover = s.handover := by
  unfold State.updPath; split <;> [split <;> simp; rfl]
@[simp] theorem updPath_masters (s : State) (r : PRef) (f : Path → Path) : (s.updPath r f).masters = s.masters := by
  unfold State.updPath; split <;> [split <;> simp; rfl]
@[simp] theorem updPath_heldCmds (s : State) (r : PRef) (f : Path → Path) : (s.updPath r f).heldCmds = s.heldCmds := by
  unfold State.updPath; split <;> [split <;> simp; rfl]
@[simp] theorem updPath_tenants (s : State) (r : PRef) (f : Path → Path) : (s.updPath r f).tenants = s.tenants := by
  unfold State.updPath; split <;> [split <;> simp; rfl]
@[simp] theorem updPath_pwrcap (s : State) (r : PRef) (f : Path → Path) : (s.updPath r f).pwrcap = s.pwrcap := by
  unfold State.updPath; split <;> [split <;> simp; rfl]
@[simp] theorem updPath_pwrnow (s : State) (r : PRef) (f : Path → Path) : (s.updPath r f).pwrnow = s.pwrnow := by
  unfold State.updPath; split <;> [split <;> simp; rfl]
@[simp] theorem updPath_dvfs (s : State) (r : PRef) (f : Path → Path) : (s.updPath r f).dvfs = s.dvfs := by
  unfold State.updPath; split <;> [split <;> simp; rfl]
@[simp] theorem updPath_temp (s : State) (r : PRef) (f : Path → Path) : (s.updPath r f).temp = s.temp := by
  unfold State.updPath; split <;> [split <;> simp; rfl]
@[simp] theorem updPath_coolSince (s : State) (r : PRef) (f : Path → Path) : (s.updPath r f).coolSince = s.coolSince := by
  unfold State.updPath; split <;> [split <;> simp; rfl]
@[simp] theorem updPath_thermal (s : State) (r : PRef) (f : Path → Path) : (s.updPath r f).thermal = s.thermal := by
  unfold State.updPath; split <;> [split <;> simp; rfl]
@[simp] theorem updPath_misses (s : State) (r : PRef) (f : Path → Path) : (s.updPath r f).misses = s.misses := by
  unfold State.updPath; split <;> [split <;> simp; rfl]
@[simp] theorem updPath_logHead (s : State) (r : PRef) (f : Path → Path) : (s.updPath r f).logHead = s.logHead := by
  unfold State.updPath; split <;> [split <;> simp; rfl]
@[simp] theorem updPath_log (s : State) (r : PRef) (f : Path → Path) : (s.updPath r f).log = s.log := by
  unfold State.updPath; split <;> [split <;> simp; rfl]

/-! ## updGroup -/

@[simp] theorem updGroup_pkg (s : State) (i j : Nat) (f : Group → Group) : (s.updGroup i j f).pkg = s.pkg := by
  unfold State.updGroup; split <;> simp
@[simp] theorem updGroup_cc (s : State) (i j : Nat) (f : Group → Group) : (s.updGroup i j f).cc = s.cc := by
  unfold State.updGroup; split <;> simp
@[simp] theorem updGroup_ct (s : State) (i j : Nat) (f : Group → Group) : (s.updGroup i j f).ct = s.ct := by
  unfold State.updGroup; split <;> simp
@[simp] theorem updGroup_ctFrac (s : State) (i j : Nat) (f : Group → Group) : (s.updGroup i j f).ctFrac = s.ctFrac := by
  unfold State.updGroup; split <;> simp
@[simp] theorem updGroup_free (s : State) (i j : Nat) (f : Group → Group) : (s.updGroup i j f).free = s.free := by
  unfold State.updGroup; split <;> simp
@[simp] theorem updGroup_uid (s : State) (i j : Nat) (f : Group → Group) : (s.updGroup i j f).uid = s.uid := by
  unfold State.updGroup; split <;> simp
@[simp] theorem updGroup_inbox (s : State) (i j : Nat) (f : Group → Group) : (s.updGroup i j f).inbox = s.inbox := by
  unfold State.updGroup; split <;> simp
@[simp] theorem updGroup_cur (s : State) (i j : Nat) (f : Group → Group) : (s.updGroup i j f).cur = s.cur := by
  unfold State.updGroup; split <;> simp
@[simp] theorem updGroup_quarter (s : State) (i j : Nat) (f : Group → Group) : (s.updGroup i j f).quarter = s.quarter := by
  unfold State.updGroup; split <;> simp
@[simp] theorem updGroup_rr (s : State) (i j : Nat) (f : Group → Group) : (s.updGroup i j f).rr = s.rr := by
  unfold State.updGroup; split <;> simp
@[simp] theorem updGroup_stewards (s : State) (i j : Nat) (f : Group → Group) : (s.updGroup i j f).stewards = s.stewards := by
  unfold State.updGroup; split <;> simp
@[simp] theorem updGroup_turns (s : State) (i j : Nat) (f : Group → Group) : (s.updGroup i j f).turns = s.turns := by
  unfold State.updGroup; split <;> simp
@[simp] theorem updGroup_bgens (s : State) (i j : Nat) (f : Group → Group) : (s.updGroup i j f).bgens = s.bgens := by
  unfold State.updGroup; split <;> simp
@[simp] theorem updGroup_mem (s : State) (i j : Nat) (f : Group → Group) : (s.updGroup i j f).mem = s.mem := by
  unfold State.updGroup; split <;> simp
@[simp] theorem updGroup_poison (s : State) (i j : Nat) (f : Group → Group) : (s.updGroup i j f).poison = s.poison := by
  unfold State.updGroup; split <;> simp
@[simp] theorem updGroup_granKey (s : State) (i j : Nat) (f : Group → Group) : (s.updGroup i j f).granKey = s.granKey := by
  unfold State.updGroup; split <;> simp
@[simp] theorem updGroup_keySlots (s : State) (i j : Nat) (f : Group → Group) : (s.updGroup i j f).keySlots = s.keySlots := by
  unfold State.updGroup; split <;> simp
@[simp] theorem updGroup_tlb (s : State) (i j : Nat) (f : Group → Group) : (s.updGroup i j f).tlb = s.tlb := by
  unfold State.updGroup; split <;> simp
@[simp] theorem updGroup_pools (s : State) (i j : Nat) (f : Group → Group) : (s.updGroup i j f).pools = s.pools := by
  unfold State.updGroup; split <;> simp
@[simp] theorem updGroup_dirtyFrames (s : State) (i j : Nat) (f : Group → Group) : (s.updGroup i j f).dirtyFrames = s.dirtyFrames := by
  unfold State.updGroup; split <;> simp
@[simp] theorem updGroup_pages (s : State) (i j : Nat) (f : Group → Group) : (s.updGroup i j f).pages = s.pages := by
  unfold State.updGroup; split <;> simp
@[simp] theorem updGroup_ap (s : State) (i j : Nat) (f : Group → Group) : (s.updGroup i j f).ap = s.ap := by
  unfold State.updGroup; split <;> simp
@[simp] theorem updGroup_hqPoison (s : State) (i j : Nat) (f : Group → Group) : (s.updGroup i j f).hqPoison = s.hqPoison := by
  unfold State.updGroup; split <;> simp
@[simp] theorem updGroup_migs (s : State) (i j : Nat) (f : Group → Group) : (s.updGroup i j f).migs = s.migs := by
  unfold State.updGroup; split <;> simp
@[simp] theorem updGroup_ceCnt (s : State) (i j : Nat) (f : Group → Group) : (s.updGroup i j f).ceCnt = s.ceCnt := by
  unfold State.updGroup; split <;> simp
@[simp] theorem updGroup_poisCnt (s : State) (i j : Nat) (f : Group → Group) : (s.updGroup i j f).poisCnt = s.poisCnt := by
  unfold State.updGroup; split <;> simp
@[simp] theorem updGroup_ctxs (s : State) (i j : Nat) (f : Group → Group) : (s.updGroup i j f).ctxs = s.ctxs := by
  unfold State.updGroup; split <;> simp
@[simp] theorem updGroup_kernels (s : State) (i j : Nat) (f : Group → Group) : (s.updGroup i j f).kernels = s.kernels := by
  unfold State.updGroup; split <;> simp
@[simp] theorem updGroup_nextKobj (s : State) (i j : Nat) (f : Group → Group) : (s.updGroup i j f).nextKobj = s.nextKobj := by
  unfold State.updGroup; split <;> simp
@[simp] theorem updGroup_bufs (s : State) (i j : Nat) (f : Group → Group) : (s.updGroup i j f).bufs = s.bufs := by
  unfold State.updGroup; split <;> simp
@[simp] theorem updGroup_hqs (s : State) (i j : Nat) (f : Group → Group) : (s.updGroup i j f).hqs = s.hqs := by
  unfold State.updGroup; split <;> simp
@[simp] theorem updGroup_items (s : State) (i j : Nat) (f : Group → Group) : (s.updGroup i j f).items = s.items := by
  unfold State.updGroup; split <;> simp
@[simp] theorem updGroup_tcbs (s : State) (i j : Nat) (f : Group → Group) : (s.updGroup i j f).tcbs = s.tcbs := by
  unfold State.updGroup; split <;> simp
@[simp] theorem updGroup_phases (s : State) (i j : Nat) (f : Group → Group) : (s.updGroup i j f).phases = s.phases := by
  unfold State.updGroup; split <;> simp
@[simp] theorem updGroup_cancelled (s : State) (i j : Nat) (f : Group → Group) : (s.updGroup i j f).cancelled = s.cancelled := by
  unfold State.updGroup; split <;> simp
@[simp] theorem updGroup_uqs (s : State) (i j : Nat) (f : Group → Group) : (s.updGroup i j f).uqs = s.uqs := by
  unfold State.updGroup; split <;> simp
@[simp] theorem updGroup_nodes (s : State) (i j : Nat) (f : Group → Group) : (s.updGroup i j f).nodes = s.nodes := by
  unfold State.updGroup; split <;> simp
@[simp] theorem updGroup_refs (s : State) (i j : Nat) (f : Group → Group) : (s.updGroup i j f).refs = s.refs := by
  unfold State.updGroup; split <;> simp
@[simp] theorem updGroup_leftFails (s : State) (i j : Nat) (f : Group → Group) : (s.updGroup i j f).leftFails = s.leftFails := by
  unfold State.updGroup; split <;> simp
@[simp] theorem updGroup_lastPass (s : State) (i j : Nat) (f : Group → Group) : (s.updGroup i j f).lastPass = s.lastPass := by
  unfold State.updGroup; split <;> simp
@[simp] theorem updGroup_lastReconcile (s : State) (i j : Nat) (f : Group → Group) : (s.updGroup i j f).lastReconcile = s.lastReconcile := by
  unfold State.updGroup; split <;> simp
@[simp] theorem updGroup_launchMeans (s : State) (i j : Nat) (f : Group → Group) : (s.updGroup i j f).launchMeans = s.launchMeans := by
  unfold State.updGroup; split <;> simp
@[simp] theorem updGroup_ports (s : State) (i j : Nat) (f : Group → Group) : (s.updGroup i j f).ports = s.ports := by
  unfold State.updGroup; split <;> simp
@[simp] theorem updGroup_linkDown (s : State) (i j : Nat) (f : Group → Group) : (s.updGroup i j f).linkDown = s.linkDown := by
  unfold State.updGroup; split <;> simp
@[simp] theorem updGroup_unsent (s : State) (i j : Nat) (f : Group → Group) : (s.updGroup i j f).unsent = s.unsent := by
  unfold State.updGroup; split <;> simp
@[simp] theorem updGroup_pkgNo (s : State) (i j : Nat) (f : Group → Group) : (s.updGroup i j f).pkgNo = s.pkgNo := by
  unfold State.updGroup; split <;> simp
@[simp] theorem updGroup_cxlDown (s : State) (i j : Nat) (f : Group → Group) : (s.updGroup i j f).cxlDown = s.cxlDown := by
  unfold State.updGroup; split <;> simp
@[simp] theorem updGroup_wins (s : State) (i j : Nat) (f : Group → Group) : (s.updGroup i j f).wins = s.wins := by
  unfold State.updGroup; split <;> simp
@[simp] theorem updGroup_bootstat (s : State) (i j : Nat) (f : Group → Group) : (s.updGroup i j f).bootstat = s.bootstat := by
  unfold State.updGroup; split <;> simp
@[simp] theorem updGroup_mr (s : State) (i j : Nat) (f : Group → Group) : (s.updGroup i j f).mr = s.mr := by
  unfold State.updGroup; split <;> simp
@[simp] theorem updGroup_fwsv (s : State) (i j : Nat) (f : Group → Group) : (s.updGroup i j f).fwsv = s.fwsv := by
  unfold State.updGroup; split <;> simp
@[simp] theorem updGroup_codesv (s : State) (i j : Nat) (f : Group → Group) : (s.updGroup i j f).codesv = s.codesv := by
  unfold State.updGroup; split <;> simp
@[simp] theorem updGroup_fuseFw (s : State) (i j : Nat) (f : Group → Group) : (s.updGroup i j f).fuseFw = s.fuseFw := by
  unfold State.updGroup; split <;> simp
@[simp] theorem updGroup_fuseCode (s : State) (i j : Nat) (f : Group → Group) : (s.updGroup i j f).fuseCode = s.fuseCode := by
  unfold State.updGroup; split <;> simp
@[simp] theorem updGroup_owner (s : State) (i j : Nat) (f : Group → Group) : (s.updGroup i j f).owner = s.owner := by
  unfold State.updGroup; split <;> simp
@[simp] theorem updGroup_handover (s : State) (i j : Nat) (f : Group → Group) : (s.updGroup i j f).handover = s.handover := by
  unfold State.updGroup; split <;> simp
@[simp] theorem updGroup_masters (s : State) (i j : Nat) (f : Group → Group) : (s.updGroup i j f).masters = s.masters := by
  unfold State.updGroup; split <;> simp
@[simp] theorem updGroup_heldCmds (s : State) (i j : Nat) (f : Group → Group) : (s.updGroup i j f).heldCmds = s.heldCmds := by
  unfold State.updGroup; split <;> simp
@[simp] theorem updGroup_tenants (s : State) (i j : Nat) (f : Group → Group) : (s.updGroup i j f).tenants = s.tenants := by
  unfold State.updGroup; split <;> simp
@[simp] theorem updGroup_pwrcap (s : State) (i j : Nat) (f : Group → Group) : (s.updGroup i j f).pwrcap = s.pwrcap := by
  unfold State.updGroup; split <;> simp
@[simp] theorem updGroup_pwrnow (s : State) (i j : Nat) (f : Group → Group) : (s.updGroup i j f).pwrnow = s.pwrnow := by
  unfold State.updGroup; split <;> simp
@[simp] theorem updGroup_dvfs (s : State) (i j : Nat) (f : Group → Group) : (s.updGroup i j f).dvfs = s.dvfs := by
  unfold State.updGroup; split <;> simp
@[simp] theorem updGroup_temp (s : State) (i j : Nat) (f : Group → Group) : (s.updGroup i j f).temp = s.temp := by
  unfold State.updGroup; split <;> simp
@[simp] theorem updGroup_coolSince (s : State) (i j : Nat) (f : Group → Group) : (s.updGroup i j f).coolSince = s.coolSince := by
  unfold State.updGroup; split <;> simp
@[simp] theorem updGroup_thermal (s : State) (i j : Nat) (f : Group → Group) : (s.updGroup i j f).thermal = s.thermal := by
  unfold State.updGroup; split <;> simp
@[simp] theorem updGroup_misses (s : State) (i j : Nat) (f : Group → Group) : (s.updGroup i j f).misses = s.misses := by
  unfold State.updGroup; split <;> simp
@[simp] theorem updGroup_logHead (s : State) (i j : Nat) (f : Group → Group) : (s.updGroup i j f).logHead = s.logHead := by
  unfold State.updGroup; split <;> simp
@[simp] theorem updGroup_log (s : State) (i j : Nat) (f : Group → Group) : (s.updGroup i j f).log = s.log := by
  unfold State.updGroup; split <;> simp

/-! ## updBlock -/

@[simp] theorem updBlock_pkg (s : State) (i : Nat) (f : Block → Block) : (s.updBlock i f).pkg = s.pkg := by
  unfold State.updBlock; split <;> rfl
@[simp] theorem updBlock_cc (s : State) (i : Nat) (f : Block → Block) : (s.updBlock i f).cc = s.cc := by
  unfold State.updBlock; split <;> rfl
@[simp] theorem updBlock_ct (s : State) (i : Nat) (f : Block → Block) : (s.updBlock i f).ct = s.ct := by
  unfold State.updBlock; split <;> rfl
@[simp] theorem updBlock_ctFrac (s : State) (i : Nat) (f : Block → Block) : (s.updBlock i f).ctFrac = s.ctFrac := by
  unfold State.updBlock; split <;> rfl
@[simp] theorem updBlock_free (s : State) (i : Nat) (f : Block → Block) : (s.updBlock i f).free = s.free := by
  unfold State.updBlock; split <;> rfl
@[simp] theorem updBlock_uid (s : State) (i : Nat) (f : Block → Block) : (s.updBlock i f).uid = s.uid := by
  unfold State.updBlock; split <;> rfl
@[simp] theorem updBlock_inbox (s : State) (i : Nat) (f : Block → Block) : (s.updBlock i f).inbox = s.inbox := by
  unfold State.updBlock; split <;> rfl
@[simp] theorem updBlock_cur (s : State) (i : Nat) (f : Block → Block) : (s.updBlock i f).cur = s.cur := by
  unfold State.updBlock; split <;> rfl
@[simp] theorem updBlock_quarter (s : State) (i : Nat) (f : Block → Block) : (s.updBlock i f).quarter = s.quarter := by
  unfold State.updBlock; split <;> rfl
@[simp] theorem updBlock_rr (s : State) (i : Nat) (f : Block → Block) : (s.updBlock i f).rr = s.rr := by
  unfold State.updBlock; split <;> rfl
@[simp] theorem updBlock_stewards (s : State) (i : Nat) (f : Block → Block) : (s.updBlock i f).stewards = s.stewards := by
  unfold State.updBlock; split <;> rfl
@[simp] theorem updBlock_turns (s : State) (i : Nat) (f : Block → Block) : (s.updBlock i f).turns = s.turns := by
  unfold State.updBlock; split <;> rfl
@[simp] theorem updBlock_bgens (s : State) (i : Nat) (f : Block → Block) : (s.updBlock i f).bgens = s.bgens := by
  unfold State.updBlock; split <;> rfl
@[simp] theorem updBlock_mem (s : State) (i : Nat) (f : Block → Block) : (s.updBlock i f).mem = s.mem := by
  unfold State.updBlock; split <;> rfl
@[simp] theorem updBlock_poison (s : State) (i : Nat) (f : Block → Block) : (s.updBlock i f).poison = s.poison := by
  unfold State.updBlock; split <;> rfl
@[simp] theorem updBlock_granKey (s : State) (i : Nat) (f : Block → Block) : (s.updBlock i f).granKey = s.granKey := by
  unfold State.updBlock; split <;> rfl
@[simp] theorem updBlock_keySlots (s : State) (i : Nat) (f : Block → Block) : (s.updBlock i f).keySlots = s.keySlots := by
  unfold State.updBlock; split <;> rfl
@[simp] theorem updBlock_tlb (s : State) (i : Nat) (f : Block → Block) : (s.updBlock i f).tlb = s.tlb := by
  unfold State.updBlock; split <;> rfl
@[simp] theorem updBlock_pools (s : State) (i : Nat) (f : Block → Block) : (s.updBlock i f).pools = s.pools := by
  unfold State.updBlock; split <;> rfl
@[simp] theorem updBlock_dirtyFrames (s : State) (i : Nat) (f : Block → Block) : (s.updBlock i f).dirtyFrames = s.dirtyFrames := by
  unfold State.updBlock; split <;> rfl
@[simp] theorem updBlock_pages (s : State) (i : Nat) (f : Block → Block) : (s.updBlock i f).pages = s.pages := by
  unfold State.updBlock; split <;> rfl
@[simp] theorem updBlock_ap (s : State) (i : Nat) (f : Block → Block) : (s.updBlock i f).ap = s.ap := by
  unfold State.updBlock; split <;> rfl
@[simp] theorem updBlock_hqPoison (s : State) (i : Nat) (f : Block → Block) : (s.updBlock i f).hqPoison = s.hqPoison := by
  unfold State.updBlock; split <;> rfl
@[simp] theorem updBlock_migs (s : State) (i : Nat) (f : Block → Block) : (s.updBlock i f).migs = s.migs := by
  unfold State.updBlock; split <;> rfl
@[simp] theorem updBlock_ceCnt (s : State) (i : Nat) (f : Block → Block) : (s.updBlock i f).ceCnt = s.ceCnt := by
  unfold State.updBlock; split <;> rfl
@[simp] theorem updBlock_poisCnt (s : State) (i : Nat) (f : Block → Block) : (s.updBlock i f).poisCnt = s.poisCnt := by
  unfold State.updBlock; split <;> rfl
@[simp] theorem updBlock_ctxs (s : State) (i : Nat) (f : Block → Block) : (s.updBlock i f).ctxs = s.ctxs := by
  unfold State.updBlock; split <;> rfl
@[simp] theorem updBlock_kernels (s : State) (i : Nat) (f : Block → Block) : (s.updBlock i f).kernels = s.kernels := by
  unfold State.updBlock; split <;> rfl
@[simp] theorem updBlock_nextKobj (s : State) (i : Nat) (f : Block → Block) : (s.updBlock i f).nextKobj = s.nextKobj := by
  unfold State.updBlock; split <;> rfl
@[simp] theorem updBlock_bufs (s : State) (i : Nat) (f : Block → Block) : (s.updBlock i f).bufs = s.bufs := by
  unfold State.updBlock; split <;> rfl
@[simp] theorem updBlock_hqs (s : State) (i : Nat) (f : Block → Block) : (s.updBlock i f).hqs = s.hqs := by
  unfold State.updBlock; split <;> rfl
@[simp] theorem updBlock_items (s : State) (i : Nat) (f : Block → Block) : (s.updBlock i f).items = s.items := by
  unfold State.updBlock; split <;> rfl
@[simp] theorem updBlock_tcbs (s : State) (i : Nat) (f : Block → Block) : (s.updBlock i f).tcbs = s.tcbs := by
  unfold State.updBlock; split <;> rfl
@[simp] theorem updBlock_phases (s : State) (i : Nat) (f : Block → Block) : (s.updBlock i f).phases = s.phases := by
  unfold State.updBlock; split <;> rfl
@[simp] theorem updBlock_cancelled (s : State) (i : Nat) (f : Block → Block) : (s.updBlock i f).cancelled = s.cancelled := by
  unfold State.updBlock; split <;> rfl
@[simp] theorem updBlock_uqs (s : State) (i : Nat) (f : Block → Block) : (s.updBlock i f).uqs = s.uqs := by
  unfold State.updBlock; split <;> rfl
@[simp] theorem updBlock_nodes (s : State) (i : Nat) (f : Block → Block) : (s.updBlock i f).nodes = s.nodes := by
  unfold State.updBlock; split <;> rfl
@[simp] theorem updBlock_refs (s : State) (i : Nat) (f : Block → Block) : (s.updBlock i f).refs = s.refs := by
  unfold State.updBlock; split <;> rfl
@[simp] theorem updBlock_leftFails (s : State) (i : Nat) (f : Block → Block) : (s.updBlock i f).leftFails = s.leftFails := by
  unfold State.updBlock; split <;> rfl
@[simp] theorem updBlock_lastPass (s : State) (i : Nat) (f : Block → Block) : (s.updBlock i f).lastPass = s.lastPass := by
  unfold State.updBlock; split <;> rfl
@[simp] theorem updBlock_lastReconcile (s : State) (i : Nat) (f : Block → Block) : (s.updBlock i f).lastReconcile = s.lastReconcile := by
  unfold State.updBlock; split <;> rfl
@[simp] theorem updBlock_launchMeans (s : State) (i : Nat) (f : Block → Block) : (s.updBlock i f).launchMeans = s.launchMeans := by
  unfold State.updBlock; split <;> rfl
@[simp] theorem updBlock_ports (s : State) (i : Nat) (f : Block → Block) : (s.updBlock i f).ports = s.ports := by
  unfold State.updBlock; split <;> rfl
@[simp] theorem updBlock_linkDown (s : State) (i : Nat) (f : Block → Block) : (s.updBlock i f).linkDown = s.linkDown := by
  unfold State.updBlock; split <;> rfl
@[simp] theorem updBlock_unsent (s : State) (i : Nat) (f : Block → Block) : (s.updBlock i f).unsent = s.unsent := by
  unfold State.updBlock; split <;> rfl
@[simp] theorem updBlock_pkgNo (s : State) (i : Nat) (f : Block → Block) : (s.updBlock i f).pkgNo = s.pkgNo := by
  unfold State.updBlock; split <;> rfl
@[simp] theorem updBlock_cxlDown (s : State) (i : Nat) (f : Block → Block) : (s.updBlock i f).cxlDown = s.cxlDown := by
  unfold State.updBlock; split <;> rfl
@[simp] theorem updBlock_wins (s : State) (i : Nat) (f : Block → Block) : (s.updBlock i f).wins = s.wins := by
  unfold State.updBlock; split <;> rfl
@[simp] theorem updBlock_bootstat (s : State) (i : Nat) (f : Block → Block) : (s.updBlock i f).bootstat = s.bootstat := by
  unfold State.updBlock; split <;> rfl
@[simp] theorem updBlock_mr (s : State) (i : Nat) (f : Block → Block) : (s.updBlock i f).mr = s.mr := by
  unfold State.updBlock; split <;> rfl
@[simp] theorem updBlock_fwsv (s : State) (i : Nat) (f : Block → Block) : (s.updBlock i f).fwsv = s.fwsv := by
  unfold State.updBlock; split <;> rfl
@[simp] theorem updBlock_codesv (s : State) (i : Nat) (f : Block → Block) : (s.updBlock i f).codesv = s.codesv := by
  unfold State.updBlock; split <;> rfl
@[simp] theorem updBlock_fuseFw (s : State) (i : Nat) (f : Block → Block) : (s.updBlock i f).fuseFw = s.fuseFw := by
  unfold State.updBlock; split <;> rfl
@[simp] theorem updBlock_fuseCode (s : State) (i : Nat) (f : Block → Block) : (s.updBlock i f).fuseCode = s.fuseCode := by
  unfold State.updBlock; split <;> rfl
@[simp] theorem updBlock_owner (s : State) (i : Nat) (f : Block → Block) : (s.updBlock i f).owner = s.owner := by
  unfold State.updBlock; split <;> rfl
@[simp] theorem updBlock_handover (s : State) (i : Nat) (f : Block → Block) : (s.updBlock i f).handover = s.handover := by
  unfold State.updBlock; split <;> rfl
@[simp] theorem updBlock_masters (s : State) (i : Nat) (f : Block → Block) : (s.updBlock i f).masters = s.masters := by
  unfold State.updBlock; split <;> rfl
@[simp] theorem updBlock_heldCmds (s : State) (i : Nat) (f : Block → Block) : (s.updBlock i f).heldCmds = s.heldCmds := by
  unfold State.updBlock; split <;> rfl
@[simp] theorem updBlock_tenants (s : State) (i : Nat) (f : Block → Block) : (s.updBlock i f).tenants = s.tenants := by
  unfold State.updBlock; split <;> rfl
@[simp] theorem updBlock_pwrcap (s : State) (i : Nat) (f : Block → Block) : (s.updBlock i f).pwrcap = s.pwrcap := by
  unfold State.updBlock; split <;> rfl
@[simp] theorem updBlock_pwrnow (s : State) (i : Nat) (f : Block → Block) : (s.updBlock i f).pwrnow = s.pwrnow := by
  unfold State.updBlock; split <;> rfl
@[simp] theorem updBlock_dvfs (s : State) (i : Nat) (f : Block → Block) : (s.updBlock i f).dvfs = s.dvfs := by
  unfold State.updBlock; split <;> rfl
@[simp] theorem updBlock_temp (s : State) (i : Nat) (f : Block → Block) : (s.updBlock i f).temp = s.temp := by
  unfold State.updBlock; split <;> rfl
@[simp] theorem updBlock_coolSince (s : State) (i : Nat) (f : Block → Block) : (s.updBlock i f).coolSince = s.coolSince := by
  unfold State.updBlock; split <;> rfl
@[simp] theorem updBlock_thermal (s : State) (i : Nat) (f : Block → Block) : (s.updBlock i f).thermal = s.thermal := by
  unfold State.updBlock; split <;> rfl
@[simp] theorem updBlock_misses (s : State) (i : Nat) (f : Block → Block) : (s.updBlock i f).misses = s.misses := by
  unfold State.updBlock; split <;> rfl
@[simp] theorem updBlock_logHead (s : State) (i : Nat) (f : Block → Block) : (s.updBlock i f).logHead = s.logHead := by
  unfold State.updBlock; split <;> rfl
@[simp] theorem updBlock_log (s : State) (i : Nat) (f : Block → Block) : (s.updBlock i f).log = s.log := by
  unfold State.updBlock; split <;> rfl

/-! ## setCtx -/

@[simp] theorem setCtx_pkg (s : State) (c : Ctx) : (s.setCtx c).pkg = s.pkg := rfl
@[simp] theorem setCtx_cc (s : State) (c : Ctx) : (s.setCtx c).cc = s.cc := rfl
@[simp] theorem setCtx_ct (s : State) (c : Ctx) : (s.setCtx c).ct = s.ct := rfl
@[simp] theorem setCtx_ctFrac (s : State) (c : Ctx) : (s.setCtx c).ctFrac = s.ctFrac := rfl
@[simp] theorem setCtx_free (s : State) (c : Ctx) : (s.setCtx c).free = s.free := rfl
@[simp] theorem setCtx_uid (s : State) (c : Ctx) : (s.setCtx c).uid = s.uid := rfl
@[simp] theorem setCtx_inbox (s : State) (c : Ctx) : (s.setCtx c).inbox = s.inbox := rfl
@[simp] theorem setCtx_cur (s : State) (c : Ctx) : (s.setCtx c).cur = s.cur := rfl
@[simp] theorem setCtx_quarter (s : State) (c : Ctx) : (s.setCtx c).quarter = s.quarter := rfl
@[simp] theorem setCtx_rr (s : State) (c : Ctx) : (s.setCtx c).rr = s.rr := rfl
@[simp] theorem setCtx_stewards (s : State) (c : Ctx) : (s.setCtx c).stewards = s.stewards := rfl
@[simp] theorem setCtx_turns (s : State) (c : Ctx) : (s.setCtx c).turns = s.turns := rfl
@[simp] theorem setCtx_bgens (s : State) (c : Ctx) : (s.setCtx c).bgens = s.bgens := rfl
@[simp] theorem setCtx_mem (s : State) (c : Ctx) : (s.setCtx c).mem = s.mem := rfl
@[simp] theorem setCtx_poison (s : State) (c : Ctx) : (s.setCtx c).poison = s.poison := rfl
@[simp] theorem setCtx_granKey (s : State) (c : Ctx) : (s.setCtx c).granKey = s.granKey := rfl
@[simp] theorem setCtx_keySlots (s : State) (c : Ctx) : (s.setCtx c).keySlots = s.keySlots := rfl
@[simp] theorem setCtx_tlb (s : State) (c : Ctx) : (s.setCtx c).tlb = s.tlb := rfl
@[simp] theorem setCtx_pools (s : State) (c : Ctx) : (s.setCtx c).pools = s.pools := rfl
@[simp] theorem setCtx_dirtyFrames (s : State) (c : Ctx) : (s.setCtx c).dirtyFrames = s.dirtyFrames := rfl
@[simp] theorem setCtx_pages (s : State) (c : Ctx) : (s.setCtx c).pages = s.pages := rfl
@[simp] theorem setCtx_ap (s : State) (c : Ctx) : (s.setCtx c).ap = s.ap := rfl
@[simp] theorem setCtx_hqPoison (s : State) (c : Ctx) : (s.setCtx c).hqPoison = s.hqPoison := rfl
@[simp] theorem setCtx_migs (s : State) (c : Ctx) : (s.setCtx c).migs = s.migs := rfl
@[simp] theorem setCtx_ceCnt (s : State) (c : Ctx) : (s.setCtx c).ceCnt = s.ceCnt := rfl
@[simp] theorem setCtx_poisCnt (s : State) (c : Ctx) : (s.setCtx c).poisCnt = s.poisCnt := rfl
@[simp] theorem setCtx_kernels (s : State) (c : Ctx) : (s.setCtx c).kernels = s.kernels := rfl
@[simp] theorem setCtx_nextKobj (s : State) (c : Ctx) : (s.setCtx c).nextKobj = s.nextKobj := rfl
@[simp] theorem setCtx_blocks (s : State) (c : Ctx) : (s.setCtx c).blocks = s.blocks := rfl
@[simp] theorem setCtx_bufs (s : State) (c : Ctx) : (s.setCtx c).bufs = s.bufs := rfl
@[simp] theorem setCtx_hqs (s : State) (c : Ctx) : (s.setCtx c).hqs = s.hqs := rfl
@[simp] theorem setCtx_items (s : State) (c : Ctx) : (s.setCtx c).items = s.items := rfl
@[simp] theorem setCtx_tcbs (s : State) (c : Ctx) : (s.setCtx c).tcbs = s.tcbs := rfl
@[simp] theorem setCtx_phases (s : State) (c : Ctx) : (s.setCtx c).phases = s.phases := rfl
@[simp] theorem setCtx_cancelled (s : State) (c : Ctx) : (s.setCtx c).cancelled = s.cancelled := rfl
@[simp] theorem setCtx_uqs (s : State) (c : Ctx) : (s.setCtx c).uqs = s.uqs := rfl
@[simp] theorem setCtx_nodes (s : State) (c : Ctx) : (s.setCtx c).nodes = s.nodes := rfl
@[simp] theorem setCtx_refs (s : State) (c : Ctx) : (s.setCtx c).refs = s.refs := rfl
@[simp] theorem setCtx_leftFails (s : State) (c : Ctx) : (s.setCtx c).leftFails = s.leftFails := rfl
@[simp] theorem setCtx_lastPass (s : State) (c : Ctx) : (s.setCtx c).lastPass = s.lastPass := rfl
@[simp] theorem setCtx_lastReconcile (s : State) (c : Ctx) : (s.setCtx c).lastReconcile = s.lastReconcile := rfl
@[simp] theorem setCtx_launchMeans (s : State) (c : Ctx) : (s.setCtx c).launchMeans = s.launchMeans := rfl
@[simp] theorem setCtx_ports (s : State) (c : Ctx) : (s.setCtx c).ports = s.ports := rfl
@[simp] theorem setCtx_linkDown (s : State) (c : Ctx) : (s.setCtx c).linkDown = s.linkDown := rfl
@[simp] theorem setCtx_unsent (s : State) (c : Ctx) : (s.setCtx c).unsent = s.unsent := rfl
@[simp] theorem setCtx_pkgNo (s : State) (c : Ctx) : (s.setCtx c).pkgNo = s.pkgNo := rfl
@[simp] theorem setCtx_cxlDown (s : State) (c : Ctx) : (s.setCtx c).cxlDown = s.cxlDown := rfl
@[simp] theorem setCtx_wins (s : State) (c : Ctx) : (s.setCtx c).wins = s.wins := rfl
@[simp] theorem setCtx_bootstat (s : State) (c : Ctx) : (s.setCtx c).bootstat = s.bootstat := rfl
@[simp] theorem setCtx_mr (s : State) (c : Ctx) : (s.setCtx c).mr = s.mr := rfl
@[simp] theorem setCtx_fwsv (s : State) (c : Ctx) : (s.setCtx c).fwsv = s.fwsv := rfl
@[simp] theorem setCtx_codesv (s : State) (c : Ctx) : (s.setCtx c).codesv = s.codesv := rfl
@[simp] theorem setCtx_fuseFw (s : State) (c : Ctx) : (s.setCtx c).fuseFw = s.fuseFw := rfl
@[simp] theorem setCtx_fuseCode (s : State) (c : Ctx) : (s.setCtx c).fuseCode = s.fuseCode := rfl
@[simp] theorem setCtx_owner (s : State) (c : Ctx) : (s.setCtx c).owner = s.owner := rfl
@[simp] theorem setCtx_handover (s : State) (c : Ctx) : (s.setCtx c).handover = s.handover := rfl
@[simp] theorem setCtx_masters (s : State) (c : Ctx) : (s.setCtx c).masters = s.masters := rfl
@[simp] theorem setCtx_heldCmds (s : State) (c : Ctx) : (s.setCtx c).heldCmds = s.heldCmds := rfl
@[simp] theorem setCtx_tenants (s : State) (c : Ctx) : (s.setCtx c).tenants = s.tenants := rfl
@[simp] theorem setCtx_pwrcap (s : State) (c : Ctx) : (s.setCtx c).pwrcap = s.pwrcap := rfl
@[simp] theorem setCtx_pwrnow (s : State) (c : Ctx) : (s.setCtx c).pwrnow = s.pwrnow := rfl
@[simp] theorem setCtx_dvfs (s : State) (c : Ctx) : (s.setCtx c).dvfs = s.dvfs := rfl
@[simp] theorem setCtx_temp (s : State) (c : Ctx) : (s.setCtx c).temp = s.temp := rfl
@[simp] theorem setCtx_coolSince (s : State) (c : Ctx) : (s.setCtx c).coolSince = s.coolSince := rfl
@[simp] theorem setCtx_thermal (s : State) (c : Ctx) : (s.setCtx c).thermal = s.thermal := rfl
@[simp] theorem setCtx_misses (s : State) (c : Ctx) : (s.setCtx c).misses = s.misses := rfl
@[simp] theorem setCtx_logHead (s : State) (c : Ctx) : (s.setCtx c).logHead = s.logHead := rfl
@[simp] theorem setCtx_log (s : State) (c : Ctx) : (s.setCtx c).log = s.log := rfl

/-! ## updCtx -/

@[simp] theorem updCtx_pkg (s : State) (n : Nat) (f : Ctx → Ctx) : (s.updCtx n f).pkg = s.pkg := by
  unfold State.updCtx; split <;> rfl
@[simp] theorem updCtx_cc (s : State) (n : Nat) (f : Ctx → Ctx) : (s.updCtx n f).cc = s.cc := by
  unfold State.updCtx; split <;> rfl
@[simp] theorem updCtx_ct (s : State) (n : Nat) (f : Ctx → Ctx) : (s.updCtx n f).ct = s.ct := by
  unfold State.updCtx; split <;> rfl
@[simp] theorem updCtx_ctFrac (s : State) (n : Nat) (f : Ctx → Ctx) : (s.updCtx n f).ctFrac = s.ctFrac := by
  unfold State.updCtx; split <;> rfl
@[simp] theorem updCtx_free (s : State) (n : Nat) (f : Ctx → Ctx) : (s.updCtx n f).free = s.free := by
  unfold State.updCtx; split <;> rfl
@[simp] theorem updCtx_uid (s : State) (n : Nat) (f : Ctx → Ctx) : (s.updCtx n f).uid = s.uid := by
  unfold State.updCtx; split <;> rfl
@[simp] theorem updCtx_inbox (s : State) (n : Nat) (f : Ctx → Ctx) : (s.updCtx n f).inbox = s.inbox := by
  unfold State.updCtx; split <;> rfl
@[simp] theorem updCtx_cur (s : State) (n : Nat) (f : Ctx → Ctx) : (s.updCtx n f).cur = s.cur := by
  unfold State.updCtx; split <;> rfl
@[simp] theorem updCtx_quarter (s : State) (n : Nat) (f : Ctx → Ctx) : (s.updCtx n f).quarter = s.quarter := by
  unfold State.updCtx; split <;> rfl
@[simp] theorem updCtx_rr (s : State) (n : Nat) (f : Ctx → Ctx) : (s.updCtx n f).rr = s.rr := by
  unfold State.updCtx; split <;> rfl
@[simp] theorem updCtx_stewards (s : State) (n : Nat) (f : Ctx → Ctx) : (s.updCtx n f).stewards = s.stewards := by
  unfold State.updCtx; split <;> rfl
@[simp] theorem updCtx_turns (s : State) (n : Nat) (f : Ctx → Ctx) : (s.updCtx n f).turns = s.turns := by
  unfold State.updCtx; split <;> rfl
@[simp] theorem updCtx_bgens (s : State) (n : Nat) (f : Ctx → Ctx) : (s.updCtx n f).bgens = s.bgens := by
  unfold State.updCtx; split <;> rfl
@[simp] theorem updCtx_mem (s : State) (n : Nat) (f : Ctx → Ctx) : (s.updCtx n f).mem = s.mem := by
  unfold State.updCtx; split <;> rfl
@[simp] theorem updCtx_poison (s : State) (n : Nat) (f : Ctx → Ctx) : (s.updCtx n f).poison = s.poison := by
  unfold State.updCtx; split <;> rfl
@[simp] theorem updCtx_granKey (s : State) (n : Nat) (f : Ctx → Ctx) : (s.updCtx n f).granKey = s.granKey := by
  unfold State.updCtx; split <;> rfl
@[simp] theorem updCtx_keySlots (s : State) (n : Nat) (f : Ctx → Ctx) : (s.updCtx n f).keySlots = s.keySlots := by
  unfold State.updCtx; split <;> rfl
@[simp] theorem updCtx_tlb (s : State) (n : Nat) (f : Ctx → Ctx) : (s.updCtx n f).tlb = s.tlb := by
  unfold State.updCtx; split <;> rfl
@[simp] theorem updCtx_pools (s : State) (n : Nat) (f : Ctx → Ctx) : (s.updCtx n f).pools = s.pools := by
  unfold State.updCtx; split <;> rfl
@[simp] theorem updCtx_dirtyFrames (s : State) (n : Nat) (f : Ctx → Ctx) : (s.updCtx n f).dirtyFrames = s.dirtyFrames := by
  unfold State.updCtx; split <;> rfl
@[simp] theorem updCtx_pages (s : State) (n : Nat) (f : Ctx → Ctx) : (s.updCtx n f).pages = s.pages := by
  unfold State.updCtx; split <;> rfl
@[simp] theorem updCtx_ap (s : State) (n : Nat) (f : Ctx → Ctx) : (s.updCtx n f).ap = s.ap := by
  unfold State.updCtx; split <;> rfl
@[simp] theorem updCtx_hqPoison (s : State) (n : Nat) (f : Ctx → Ctx) : (s.updCtx n f).hqPoison = s.hqPoison := by
  unfold State.updCtx; split <;> rfl
@[simp] theorem updCtx_migs (s : State) (n : Nat) (f : Ctx → Ctx) : (s.updCtx n f).migs = s.migs := by
  unfold State.updCtx; split <;> rfl
@[simp] theorem updCtx_ceCnt (s : State) (n : Nat) (f : Ctx → Ctx) : (s.updCtx n f).ceCnt = s.ceCnt := by
  unfold State.updCtx; split <;> rfl
@[simp] theorem updCtx_poisCnt (s : State) (n : Nat) (f : Ctx → Ctx) : (s.updCtx n f).poisCnt = s.poisCnt := by
  unfold State.updCtx; split <;> rfl
@[simp] theorem updCtx_kernels (s : State) (n : Nat) (f : Ctx → Ctx) : (s.updCtx n f).kernels = s.kernels := by
  unfold State.updCtx; split <;> rfl
@[simp] theorem updCtx_nextKobj (s : State) (n : Nat) (f : Ctx → Ctx) : (s.updCtx n f).nextKobj = s.nextKobj := by
  unfold State.updCtx; split <;> rfl
@[simp] theorem updCtx_blocks (s : State) (n : Nat) (f : Ctx → Ctx) : (s.updCtx n f).blocks = s.blocks := by
  unfold State.updCtx; split <;> rfl
@[simp] theorem updCtx_bufs (s : State) (n : Nat) (f : Ctx → Ctx) : (s.updCtx n f).bufs = s.bufs := by
  unfold State.updCtx; split <;> rfl
@[simp] theorem updCtx_hqs (s : State) (n : Nat) (f : Ctx → Ctx) : (s.updCtx n f).hqs = s.hqs := by
  unfold State.updCtx; split <;> rfl
@[simp] theorem updCtx_items (s : State) (n : Nat) (f : Ctx → Ctx) : (s.updCtx n f).items = s.items := by
  unfold State.updCtx; split <;> rfl
@[simp] theorem updCtx_tcbs (s : State) (n : Nat) (f : Ctx → Ctx) : (s.updCtx n f).tcbs = s.tcbs := by
  unfold State.updCtx; split <;> rfl
@[simp] theorem updCtx_phases (s : State) (n : Nat) (f : Ctx → Ctx) : (s.updCtx n f).phases = s.phases := by
  unfold State.updCtx; split <;> rfl
@[simp] theorem updCtx_cancelled (s : State) (n : Nat) (f : Ctx → Ctx) : (s.updCtx n f).cancelled = s.cancelled := by
  unfold State.updCtx; split <;> rfl
@[simp] theorem updCtx_uqs (s : State) (n : Nat) (f : Ctx → Ctx) : (s.updCtx n f).uqs = s.uqs := by
  unfold State.updCtx; split <;> rfl
@[simp] theorem updCtx_nodes (s : State) (n : Nat) (f : Ctx → Ctx) : (s.updCtx n f).nodes = s.nodes := by
  unfold State.updCtx; split <;> rfl
@[simp] theorem updCtx_refs (s : State) (n : Nat) (f : Ctx → Ctx) : (s.updCtx n f).refs = s.refs := by
  unfold State.updCtx; split <;> rfl
@[simp] theorem updCtx_leftFails (s : State) (n : Nat) (f : Ctx → Ctx) : (s.updCtx n f).leftFails = s.leftFails := by
  unfold State.updCtx; split <;> rfl
@[simp] theorem updCtx_lastPass (s : State) (n : Nat) (f : Ctx → Ctx) : (s.updCtx n f).lastPass = s.lastPass := by
  unfold State.updCtx; split <;> rfl
@[simp] theorem updCtx_lastReconcile (s : State) (n : Nat) (f : Ctx → Ctx) : (s.updCtx n f).lastReconcile = s.lastReconcile := by
  unfold State.updCtx; split <;> rfl
@[simp] theorem updCtx_launchMeans (s : State) (n : Nat) (f : Ctx → Ctx) : (s.updCtx n f).launchMeans = s.launchMeans := by
  unfold State.updCtx; split <;> rfl
@[simp] theorem updCtx_ports (s : State) (n : Nat) (f : Ctx → Ctx) : (s.updCtx n f).ports = s.ports := by
  unfold State.updCtx; split <;> rfl
@[simp] theorem updCtx_linkDown (s : State) (n : Nat) (f : Ctx → Ctx) : (s.updCtx n f).linkDown = s.linkDown := by
  unfold State.updCtx; split <;> rfl
@[simp] theorem updCtx_unsent (s : State) (n : Nat) (f : Ctx → Ctx) : (s.updCtx n f).unsent = s.unsent := by
  unfold State.updCtx; split <;> rfl
@[simp] theorem updCtx_pkgNo (s : State) (n : Nat) (f : Ctx → Ctx) : (s.updCtx n f).pkgNo = s.pkgNo := by
  unfold State.updCtx; split <;> rfl
@[simp] theorem updCtx_cxlDown (s : State) (n : Nat) (f : Ctx → Ctx) : (s.updCtx n f).cxlDown = s.cxlDown := by
  unfold State.updCtx; split <;> rfl
@[simp] theorem updCtx_wins (s : State) (n : Nat) (f : Ctx → Ctx) : (s.updCtx n f).wins = s.wins := by
  unfold State.updCtx; split <;> rfl
@[simp] theorem updCtx_bootstat (s : State) (n : Nat) (f : Ctx → Ctx) : (s.updCtx n f).bootstat = s.bootstat := by
  unfold State.updCtx; split <;> rfl
@[simp] theorem updCtx_mr (s : State) (n : Nat) (f : Ctx → Ctx) : (s.updCtx n f).mr = s.mr := by
  unfold State.updCtx; split <;> rfl
@[simp] theorem updCtx_fwsv (s : State) (n : Nat) (f : Ctx → Ctx) : (s.updCtx n f).fwsv = s.fwsv := by
  unfold State.updCtx; split <;> rfl
@[simp] theorem updCtx_codesv (s : State) (n : Nat) (f : Ctx → Ctx) : (s.updCtx n f).codesv = s.codesv := by
  unfold State.updCtx; split <;> rfl
@[simp] theorem updCtx_fuseFw (s : State) (n : Nat) (f : Ctx → Ctx) : (s.updCtx n f).fuseFw = s.fuseFw := by
  unfold State.updCtx; split <;> rfl
@[simp] theorem updCtx_fuseCode (s : State) (n : Nat) (f : Ctx → Ctx) : (s.updCtx n f).fuseCode = s.fuseCode := by
  unfold State.updCtx; split <;> rfl
@[simp] theorem updCtx_owner (s : State) (n : Nat) (f : Ctx → Ctx) : (s.updCtx n f).owner = s.owner := by
  unfold State.updCtx; split <;> rfl
@[simp] theorem updCtx_handover (s : State) (n : Nat) (f : Ctx → Ctx) : (s.updCtx n f).handover = s.handover := by
  unfold State.updCtx; split <;> rfl
@[simp] theorem updCtx_masters (s : State) (n : Nat) (f : Ctx → Ctx) : (s.updCtx n f).masters = s.masters := by
  unfold State.updCtx; split <;> rfl
@[simp] theorem updCtx_heldCmds (s : State) (n : Nat) (f : Ctx → Ctx) : (s.updCtx n f).heldCmds = s.heldCmds := by
  unfold State.updCtx; split <;> rfl
@[simp] theorem updCtx_tenants (s : State) (n : Nat) (f : Ctx → Ctx) : (s.updCtx n f).tenants = s.tenants := by
  unfold State.updCtx; split <;> rfl
@[simp] theorem updCtx_pwrcap (s : State) (n : Nat) (f : Ctx → Ctx) : (s.updCtx n f).pwrcap = s.pwrcap := by
  unfold State.updCtx; split <;> rfl
@[simp] theorem updCtx_pwrnow (s : State) (n : Nat) (f : Ctx → Ctx) : (s.updCtx n f).pwrnow = s.pwrnow := by
  unfold State.updCtx; split <;> rfl
@[simp] theorem updCtx_dvfs (s : State) (n : Nat) (f : Ctx → Ctx) : (s.updCtx n f).dvfs = s.dvfs := by
  unfold State.updCtx; split <;> rfl
@[simp] theorem updCtx_temp (s : State) (n : Nat) (f : Ctx → Ctx) : (s.updCtx n f).temp = s.temp := by
  unfold State.updCtx; split <;> rfl
@[simp] theorem updCtx_coolSince (s : State) (n : Nat) (f : Ctx → Ctx) : (s.updCtx n f).coolSince = s.coolSince := by
  unfold State.updCtx; split <;> rfl
@[simp] theorem updCtx_thermal (s : State) (n : Nat) (f : Ctx → Ctx) : (s.updCtx n f).thermal = s.thermal := by
  unfold State.updCtx; split <;> rfl
@[simp] theorem updCtx_misses (s : State) (n : Nat) (f : Ctx → Ctx) : (s.updCtx n f).misses = s.misses := by
  unfold State.updCtx; split <;> rfl
@[simp] theorem updCtx_logHead (s : State) (n : Nat) (f : Ctx → Ctx) : (s.updCtx n f).logHead = s.logHead := by
  unfold State.updCtx; split <;> rfl
@[simp] theorem updCtx_log (s : State) (n : Nat) (f : Ctx → Ctx) : (s.updCtx n f).log = s.log := by
  unfold State.updCtx; split <;> rfl

/-! ## setKernel -/

@[simp] theorem setKernel_pkg (s : State) (k : Kernel) : (s.setKernel k).pkg = s.pkg := rfl
@[simp] theorem setKernel_cc (s : State) (k : Kernel) : (s.setKernel k).cc = s.cc := rfl
@[simp] theorem setKernel_ct (s : State) (k : Kernel) : (s.setKernel k).ct = s.ct := rfl
@[simp] theorem setKernel_ctFrac (s : State) (k : Kernel) : (s.setKernel k).ctFrac = s.ctFrac := rfl
@[simp] theorem setKernel_free (s : State) (k : Kernel) : (s.setKernel k).free = s.free := rfl
@[simp] theorem setKernel_uid (s : State) (k : Kernel) : (s.setKernel k).uid = s.uid := rfl
@[simp] theorem setKernel_inbox (s : State) (k : Kernel) : (s.setKernel k).inbox = s.inbox := rfl
@[simp] theorem setKernel_cur (s : State) (k : Kernel) : (s.setKernel k).cur = s.cur := rfl
@[simp] theorem setKernel_quarter (s : State) (k : Kernel) : (s.setKernel k).quarter = s.quarter := rfl
@[simp] theorem setKernel_rr (s : State) (k : Kernel) : (s.setKernel k).rr = s.rr := rfl
@[simp] theorem setKernel_stewards (s : State) (k : Kernel) : (s.setKernel k).stewards = s.stewards := rfl
@[simp] theorem setKernel_turns (s : State) (k : Kernel) : (s.setKernel k).turns = s.turns := rfl
@[simp] theorem setKernel_bgens (s : State) (k : Kernel) : (s.setKernel k).bgens = s.bgens := rfl
@[simp] theorem setKernel_mem (s : State) (k : Kernel) : (s.setKernel k).mem = s.mem := rfl
@[simp] theorem setKernel_poison (s : State) (k : Kernel) : (s.setKernel k).poison = s.poison := rfl
@[simp] theorem setKernel_granKey (s : State) (k : Kernel) : (s.setKernel k).granKey = s.granKey := rfl
@[simp] theorem setKernel_keySlots (s : State) (k : Kernel) : (s.setKernel k).keySlots = s.keySlots := rfl
@[simp] theorem setKernel_tlb (s : State) (k : Kernel) : (s.setKernel k).tlb = s.tlb := rfl
@[simp] theorem setKernel_pools (s : State) (k : Kernel) : (s.setKernel k).pools = s.pools := rfl
@[simp] theorem setKernel_dirtyFrames (s : State) (k : Kernel) : (s.setKernel k).dirtyFrames = s.dirtyFrames := rfl
@[simp] theorem setKernel_pages (s : State) (k : Kernel) : (s.setKernel k).pages = s.pages := rfl
@[simp] theorem setKernel_ap (s : State) (k : Kernel) : (s.setKernel k).ap = s.ap := rfl
@[simp] theorem setKernel_hqPoison (s : State) (k : Kernel) : (s.setKernel k).hqPoison = s.hqPoison := rfl
@[simp] theorem setKernel_migs (s : State) (k : Kernel) : (s.setKernel k).migs = s.migs := rfl
@[simp] theorem setKernel_ceCnt (s : State) (k : Kernel) : (s.setKernel k).ceCnt = s.ceCnt := rfl
@[simp] theorem setKernel_poisCnt (s : State) (k : Kernel) : (s.setKernel k).poisCnt = s.poisCnt := rfl
@[simp] theorem setKernel_ctxs (s : State) (k : Kernel) : (s.setKernel k).ctxs = s.ctxs := rfl
@[simp] theorem setKernel_nextKobj (s : State) (k : Kernel) : (s.setKernel k).nextKobj = s.nextKobj := rfl
@[simp] theorem setKernel_blocks (s : State) (k : Kernel) : (s.setKernel k).blocks = s.blocks := rfl
@[simp] theorem setKernel_bufs (s : State) (k : Kernel) : (s.setKernel k).bufs = s.bufs := rfl
@[simp] theorem setKernel_hqs (s : State) (k : Kernel) : (s.setKernel k).hqs = s.hqs := rfl
@[simp] theorem setKernel_items (s : State) (k : Kernel) : (s.setKernel k).items = s.items := rfl
@[simp] theorem setKernel_tcbs (s : State) (k : Kernel) : (s.setKernel k).tcbs = s.tcbs := rfl
@[simp] theorem setKernel_phases (s : State) (k : Kernel) : (s.setKernel k).phases = s.phases := rfl
@[simp] theorem setKernel_cancelled (s : State) (k : Kernel) : (s.setKernel k).cancelled = s.cancelled := rfl
@[simp] theorem setKernel_uqs (s : State) (k : Kernel) : (s.setKernel k).uqs = s.uqs := rfl
@[simp] theorem setKernel_nodes (s : State) (k : Kernel) : (s.setKernel k).nodes = s.nodes := rfl
@[simp] theorem setKernel_refs (s : State) (k : Kernel) : (s.setKernel k).refs = s.refs := rfl
@[simp] theorem setKernel_leftFails (s : State) (k : Kernel) : (s.setKernel k).leftFails = s.leftFails := rfl
@[simp] theorem setKernel_lastPass (s : State) (k : Kernel) : (s.setKernel k).lastPass = s.lastPass := rfl
@[simp] theorem setKernel_lastReconcile (s : State) (k : Kernel) : (s.setKernel k).lastReconcile = s.lastReconcile := rfl
@[simp] theorem setKernel_launchMeans (s : State) (k : Kernel) : (s.setKernel k).launchMeans = s.launchMeans := rfl
@[simp] theorem setKernel_ports (s : State) (k : Kernel) : (s.setKernel k).ports = s.ports := rfl
@[simp] theorem setKernel_linkDown (s : State) (k : Kernel) : (s.setKernel k).linkDown = s.linkDown := rfl
@[simp] theorem setKernel_unsent (s : State) (k : Kernel) : (s.setKernel k).unsent = s.unsent := rfl
@[simp] theorem setKernel_pkgNo (s : State) (k : Kernel) : (s.setKernel k).pkgNo = s.pkgNo := rfl
@[simp] theorem setKernel_cxlDown (s : State) (k : Kernel) : (s.setKernel k).cxlDown = s.cxlDown := rfl
@[simp] theorem setKernel_wins (s : State) (k : Kernel) : (s.setKernel k).wins = s.wins := rfl
@[simp] theorem setKernel_bootstat (s : State) (k : Kernel) : (s.setKernel k).bootstat = s.bootstat := rfl
@[simp] theorem setKernel_mr (s : State) (k : Kernel) : (s.setKernel k).mr = s.mr := rfl
@[simp] theorem setKernel_fwsv (s : State) (k : Kernel) : (s.setKernel k).fwsv = s.fwsv := rfl
@[simp] theorem setKernel_codesv (s : State) (k : Kernel) : (s.setKernel k).codesv = s.codesv := rfl
@[simp] theorem setKernel_fuseFw (s : State) (k : Kernel) : (s.setKernel k).fuseFw = s.fuseFw := rfl
@[simp] theorem setKernel_fuseCode (s : State) (k : Kernel) : (s.setKernel k).fuseCode = s.fuseCode := rfl
@[simp] theorem setKernel_owner (s : State) (k : Kernel) : (s.setKernel k).owner = s.owner := rfl
@[simp] theorem setKernel_handover (s : State) (k : Kernel) : (s.setKernel k).handover = s.handover := rfl
@[simp] theorem setKernel_masters (s : State) (k : Kernel) : (s.setKernel k).masters = s.masters := rfl
@[simp] theorem setKernel_heldCmds (s : State) (k : Kernel) : (s.setKernel k).heldCmds = s.heldCmds := rfl
@[simp] theorem setKernel_tenants (s : State) (k : Kernel) : (s.setKernel k).tenants = s.tenants := rfl
@[simp] theorem setKernel_pwrcap (s : State) (k : Kernel) : (s.setKernel k).pwrcap = s.pwrcap := rfl
@[simp] theorem setKernel_pwrnow (s : State) (k : Kernel) : (s.setKernel k).pwrnow = s.pwrnow := rfl
@[simp] theorem setKernel_dvfs (s : State) (k : Kernel) : (s.setKernel k).dvfs = s.dvfs := rfl
@[simp] theorem setKernel_temp (s : State) (k : Kernel) : (s.setKernel k).temp = s.temp := rfl
@[simp] theorem setKernel_coolSince (s : State) (k : Kernel) : (s.setKernel k).coolSince = s.coolSince := rfl
@[simp] theorem setKernel_thermal (s : State) (k : Kernel) : (s.setKernel k).thermal = s.thermal := rfl
@[simp] theorem setKernel_misses (s : State) (k : Kernel) : (s.setKernel k).misses = s.misses := rfl
@[simp] theorem setKernel_logHead (s : State) (k : Kernel) : (s.setKernel k).logHead = s.logHead := rfl
@[simp] theorem setKernel_log (s : State) (k : Kernel) : (s.setKernel k).log = s.log := rfl

/-! ## setBuf -/

@[simp] theorem setBuf_pkg (s : State) (u : Buf) : (s.setBuf u).pkg = s.pkg := rfl
@[simp] theorem setBuf_cc (s : State) (u : Buf) : (s.setBuf u).cc = s.cc := rfl
@[simp] theorem setBuf_ct (s : State) (u : Buf) : (s.setBuf u).ct = s.ct := rfl
@[simp] theorem setBuf_ctFrac (s : State) (u : Buf) : (s.setBuf u).ctFrac = s.ctFrac := rfl
@[simp] theorem setBuf_free (s : State) (u : Buf) : (s.setBuf u).free = s.free := rfl
@[simp] theorem setBuf_uid (s : State) (u : Buf) : (s.setBuf u).uid = s.uid := rfl
@[simp] theorem setBuf_inbox (s : State) (u : Buf) : (s.setBuf u).inbox = s.inbox := rfl
@[simp] theorem setBuf_cur (s : State) (u : Buf) : (s.setBuf u).cur = s.cur := rfl
@[simp] theorem setBuf_quarter (s : State) (u : Buf) : (s.setBuf u).quarter = s.quarter := rfl
@[simp] theorem setBuf_rr (s : State) (u : Buf) : (s.setBuf u).rr = s.rr := rfl
@[simp] theorem setBuf_stewards (s : State) (u : Buf) : (s.setBuf u).stewards = s.stewards := rfl
@[simp] theorem setBuf_turns (s : State) (u : Buf) : (s.setBuf u).turns = s.turns := rfl
@[simp] theorem setBuf_bgens (s : State) (u : Buf) : (s.setBuf u).bgens = s.bgens := rfl
@[simp] theorem setBuf_mem (s : State) (u : Buf) : (s.setBuf u).mem = s.mem := rfl
@[simp] theorem setBuf_poison (s : State) (u : Buf) : (s.setBuf u).poison = s.poison := rfl
@[simp] theorem setBuf_granKey (s : State) (u : Buf) : (s.setBuf u).granKey = s.granKey := rfl
@[simp] theorem setBuf_keySlots (s : State) (u : Buf) : (s.setBuf u).keySlots = s.keySlots := rfl
@[simp] theorem setBuf_tlb (s : State) (u : Buf) : (s.setBuf u).tlb = s.tlb := rfl
@[simp] theorem setBuf_pools (s : State) (u : Buf) : (s.setBuf u).pools = s.pools := rfl
@[simp] theorem setBuf_dirtyFrames (s : State) (u : Buf) : (s.setBuf u).dirtyFrames = s.dirtyFrames := rfl
@[simp] theorem setBuf_pages (s : State) (u : Buf) : (s.setBuf u).pages = s.pages := rfl
@[simp] theorem setBuf_ap (s : State) (u : Buf) : (s.setBuf u).ap = s.ap := rfl
@[simp] theorem setBuf_hqPoison (s : State) (u : Buf) : (s.setBuf u).hqPoison = s.hqPoison := rfl
@[simp] theorem setBuf_migs (s : State) (u : Buf) : (s.setBuf u).migs = s.migs := rfl
@[simp] theorem setBuf_ceCnt (s : State) (u : Buf) : (s.setBuf u).ceCnt = s.ceCnt := rfl
@[simp] theorem setBuf_poisCnt (s : State) (u : Buf) : (s.setBuf u).poisCnt = s.poisCnt := rfl
@[simp] theorem setBuf_ctxs (s : State) (u : Buf) : (s.setBuf u).ctxs = s.ctxs := rfl
@[simp] theorem setBuf_kernels (s : State) (u : Buf) : (s.setBuf u).kernels = s.kernels := rfl
@[simp] theorem setBuf_nextKobj (s : State) (u : Buf) : (s.setBuf u).nextKobj = s.nextKobj := rfl
@[simp] theorem setBuf_blocks (s : State) (u : Buf) : (s.setBuf u).blocks = s.blocks := rfl
@[simp] theorem setBuf_hqs (s : State) (u : Buf) : (s.setBuf u).hqs = s.hqs := rfl
@[simp] theorem setBuf_items (s : State) (u : Buf) : (s.setBuf u).items = s.items := rfl
@[simp] theorem setBuf_tcbs (s : State) (u : Buf) : (s.setBuf u).tcbs = s.tcbs := rfl
@[simp] theorem setBuf_phases (s : State) (u : Buf) : (s.setBuf u).phases = s.phases := rfl
@[simp] theorem setBuf_cancelled (s : State) (u : Buf) : (s.setBuf u).cancelled = s.cancelled := rfl
@[simp] theorem setBuf_uqs (s : State) (u : Buf) : (s.setBuf u).uqs = s.uqs := rfl
@[simp] theorem setBuf_nodes (s : State) (u : Buf) : (s.setBuf u).nodes = s.nodes := rfl
@[simp] theorem setBuf_refs (s : State) (u : Buf) : (s.setBuf u).refs = s.refs := rfl
@[simp] theorem setBuf_leftFails (s : State) (u : Buf) : (s.setBuf u).leftFails = s.leftFails := rfl
@[simp] theorem setBuf_lastPass (s : State) (u : Buf) : (s.setBuf u).lastPass = s.lastPass := rfl
@[simp] theorem setBuf_lastReconcile (s : State) (u : Buf) : (s.setBuf u).lastReconcile = s.lastReconcile := rfl
@[simp] theorem setBuf_launchMeans (s : State) (u : Buf) : (s.setBuf u).launchMeans = s.launchMeans := rfl
@[simp] theorem setBuf_ports (s : State) (u : Buf) : (s.setBuf u).ports = s.ports := rfl
@[simp] theorem setBuf_linkDown (s : State) (u : Buf) : (s.setBuf u).linkDown = s.linkDown := rfl
@[simp] theorem setBuf_unsent (s : State) (u : Buf) : (s.setBuf u).unsent = s.unsent := rfl
@[simp] theorem setBuf_pkgNo (s : State) (u : Buf) : (s.setBuf u).pkgNo = s.pkgNo := rfl
@[simp] theorem setBuf_cxlDown (s : State) (u : Buf) : (s.setBuf u).cxlDown = s.cxlDown := rfl
@[simp] theorem setBuf_wins (s : State) (u : Buf) : (s.setBuf u).wins = s.wins := rfl
@[simp] theorem setBuf_bootstat (s : State) (u : Buf) : (s.setBuf u).bootstat = s.bootstat := rfl
@[simp] theorem setBuf_mr (s : State) (u : Buf) : (s.setBuf u).mr = s.mr := rfl
@[simp] theorem setBuf_fwsv (s : State) (u : Buf) : (s.setBuf u).fwsv = s.fwsv := rfl
@[simp] theorem setBuf_codesv (s : State) (u : Buf) : (s.setBuf u).codesv = s.codesv := rfl
@[simp] theorem setBuf_fuseFw (s : State) (u : Buf) : (s.setBuf u).fuseFw = s.fuseFw := rfl
@[simp] theorem setBuf_fuseCode (s : State) (u : Buf) : (s.setBuf u).fuseCode = s.fuseCode := rfl
@[simp] theorem setBuf_owner (s : State) (u : Buf) : (s.setBuf u).owner = s.owner := rfl
@[simp] theorem setBuf_handover (s : State) (u : Buf) : (s.setBuf u).handover = s.handover := rfl
@[simp] theorem setBuf_masters (s : State) (u : Buf) : (s.setBuf u).masters = s.masters := rfl
@[simp] theorem setBuf_heldCmds (s : State) (u : Buf) : (s.setBuf u).heldCmds = s.heldCmds := rfl
@[simp] theorem setBuf_tenants (s : State) (u : Buf) : (s.setBuf u).tenants = s.tenants := rfl
@[simp] theorem setBuf_pwrcap (s : State) (u : Buf) : (s.setBuf u).pwrcap = s.pwrcap := rfl
@[simp] theorem setBuf_pwrnow (s : State) (u : Buf) : (s.setBuf u).pwrnow = s.pwrnow := rfl
@[simp] theorem setBuf_dvfs (s : State) (u : Buf) : (s.setBuf u).dvfs = s.dvfs := rfl
@[simp] theorem setBuf_temp (s : State) (u : Buf) : (s.setBuf u).temp = s.temp := rfl
@[simp] theorem setBuf_coolSince (s : State) (u : Buf) : (s.setBuf u).coolSince = s.coolSince := rfl
@[simp] theorem setBuf_thermal (s : State) (u : Buf) : (s.setBuf u).thermal = s.thermal := rfl
@[simp] theorem setBuf_misses (s : State) (u : Buf) : (s.setBuf u).misses = s.misses := rfl
@[simp] theorem setBuf_logHead (s : State) (u : Buf) : (s.setBuf u).logHead = s.logHead := rfl
@[simp] theorem setBuf_log (s : State) (u : Buf) : (s.setBuf u).log = s.log := rfl

/-! ## setHq -/

@[simp] theorem setHq_pkg (s : State) (q : HQueue) : (s.setHq q).pkg = s.pkg := rfl
@[simp] theorem setHq_cc (s : State) (q : HQueue) : (s.setHq q).cc = s.cc := rfl
@[simp] theorem setHq_ct (s : State) (q : HQueue) : (s.setHq q).ct = s.ct := rfl
@[simp] theorem setHq_ctFrac (s : State) (q : HQueue) : (s.setHq q).ctFrac = s.ctFrac := rfl
@[simp] theorem setHq_free (s : State) (q : HQueue) : (s.setHq q).free = s.free := rfl
@[simp] theorem setHq_uid (s : State) (q : HQueue) : (s.setHq q).uid = s.uid := rfl
@[simp] theorem setHq_inbox (s : State) (q : HQueue) : (s.setHq q).inbox = s.inbox := rfl
@[simp] theorem setHq_cur (s : State) (q : HQueue) : (s.setHq q).cur = s.cur := rfl
@[simp] theorem setHq_quarter (s : State) (q : HQueue) : (s.setHq q).quarter = s.quarter := rfl
@[simp] theorem setHq_rr (s : State) (q : HQueue) : (s.setHq q).rr = s.rr := rfl
@[simp] theorem setHq_stewards (s : State) (q : HQueue) : (s.setHq q).stewards = s.stewards := rfl
@[simp] theorem setHq_turns (s : State) (q : HQueue) : (s.setHq q).turns = s.turns := rfl
@[simp] theorem setHq_bgens (s : State) (q : HQueue) : (s.setHq q).bgens = s.bgens := rfl
@[simp] theorem setHq_mem (s : State) (q : HQueue) : (s.setHq q).mem = s.mem := rfl
@[simp] theorem setHq_poison (s : State) (q : HQueue) : (s.setHq q).poison = s.poison := rfl
@[simp] theorem setHq_granKey (s : State) (q : HQueue) : (s.setHq q).granKey = s.granKey := rfl
@[simp] theorem setHq_keySlots (s : State) (q : HQueue) : (s.setHq q).keySlots = s.keySlots := rfl
@[simp] theorem setHq_tlb (s : State) (q : HQueue) : (s.setHq q).tlb = s.tlb := rfl
@[simp] theorem setHq_pools (s : State) (q : HQueue) : (s.setHq q).pools = s.pools := rfl
@[simp] theorem setHq_dirtyFrames (s : State) (q : HQueue) : (s.setHq q).dirtyFrames = s.dirtyFrames := rfl
@[simp] theorem setHq_pages (s : State) (q : HQueue) : (s.setHq q).pages = s.pages := rfl
@[simp] theorem setHq_ap (s : State) (q : HQueue) : (s.setHq q).ap = s.ap := rfl
@[simp] theorem setHq_hqPoison (s : State) (q : HQueue) : (s.setHq q).hqPoison = s.hqPoison := rfl
@[simp] theorem setHq_migs (s : State) (q : HQueue) : (s.setHq q).migs = s.migs := rfl
@[simp] theorem setHq_ceCnt (s : State) (q : HQueue) : (s.setHq q).ceCnt = s.ceCnt := rfl
@[simp] theorem setHq_poisCnt (s : State) (q : HQueue) : (s.setHq q).poisCnt = s.poisCnt := rfl
@[simp] theorem setHq_ctxs (s : State) (q : HQueue) : (s.setHq q).ctxs = s.ctxs := rfl
@[simp] theorem setHq_kernels (s : State) (q : HQueue) : (s.setHq q).kernels = s.kernels := rfl
@[simp] theorem setHq_nextKobj (s : State) (q : HQueue) : (s.setHq q).nextKobj = s.nextKobj := rfl
@[simp] theorem setHq_blocks (s : State) (q : HQueue) : (s.setHq q).blocks = s.blocks := rfl
@[simp] theorem setHq_bufs (s : State) (q : HQueue) : (s.setHq q).bufs = s.bufs := rfl
@[simp] theorem setHq_items (s : State) (q : HQueue) : (s.setHq q).items = s.items := rfl
@[simp] theorem setHq_tcbs (s : State) (q : HQueue) : (s.setHq q).tcbs = s.tcbs := rfl
@[simp] theorem setHq_phases (s : State) (q : HQueue) : (s.setHq q).phases = s.phases := rfl
@[simp] theorem setHq_cancelled (s : State) (q : HQueue) : (s.setHq q).cancelled = s.cancelled := rfl
@[simp] theorem setHq_uqs (s : State) (q : HQueue) : (s.setHq q).uqs = s.uqs := rfl
@[simp] theorem setHq_nodes (s : State) (q : HQueue) : (s.setHq q).nodes = s.nodes := rfl
@[simp] theorem setHq_refs (s : State) (q : HQueue) : (s.setHq q).refs = s.refs := rfl
@[simp] theorem setHq_leftFails (s : State) (q : HQueue) : (s.setHq q).leftFails = s.leftFails := rfl
@[simp] theorem setHq_lastPass (s : State) (q : HQueue) : (s.setHq q).lastPass = s.lastPass := rfl
@[simp] theorem setHq_lastReconcile (s : State) (q : HQueue) : (s.setHq q).lastReconcile = s.lastReconcile := rfl
@[simp] theorem setHq_launchMeans (s : State) (q : HQueue) : (s.setHq q).launchMeans = s.launchMeans := rfl
@[simp] theorem setHq_ports (s : State) (q : HQueue) : (s.setHq q).ports = s.ports := rfl
@[simp] theorem setHq_linkDown (s : State) (q : HQueue) : (s.setHq q).linkDown = s.linkDown := rfl
@[simp] theorem setHq_unsent (s : State) (q : HQueue) : (s.setHq q).unsent = s.unsent := rfl
@[simp] theorem setHq_pkgNo (s : State) (q : HQueue) : (s.setHq q).pkgNo = s.pkgNo := rfl
@[simp] theorem setHq_cxlDown (s : State) (q : HQueue) : (s.setHq q).cxlDown = s.cxlDown := rfl
@[simp] theorem setHq_wins (s : State) (q : HQueue) : (s.setHq q).wins = s.wins := rfl
@[simp] theorem setHq_bootstat (s : State) (q : HQueue) : (s.setHq q).bootstat = s.bootstat := rfl
@[simp] theorem setHq_mr (s : State) (q : HQueue) : (s.setHq q).mr = s.mr := rfl
@[simp] theorem setHq_fwsv (s : State) (q : HQueue) : (s.setHq q).fwsv = s.fwsv := rfl
@[simp] theorem setHq_codesv (s : State) (q : HQueue) : (s.setHq q).codesv = s.codesv := rfl
@[simp] theorem setHq_fuseFw (s : State) (q : HQueue) : (s.setHq q).fuseFw = s.fuseFw := rfl
@[simp] theorem setHq_fuseCode (s : State) (q : HQueue) : (s.setHq q).fuseCode = s.fuseCode := rfl
@[simp] theorem setHq_owner (s : State) (q : HQueue) : (s.setHq q).owner = s.owner := rfl
@[simp] theorem setHq_handover (s : State) (q : HQueue) : (s.setHq q).handover = s.handover := rfl
@[simp] theorem setHq_masters (s : State) (q : HQueue) : (s.setHq q).masters = s.masters := rfl
@[simp] theorem setHq_heldCmds (s : State) (q : HQueue) : (s.setHq q).heldCmds = s.heldCmds := rfl
@[simp] theorem setHq_tenants (s : State) (q : HQueue) : (s.setHq q).tenants = s.tenants := rfl
@[simp] theorem setHq_pwrcap (s : State) (q : HQueue) : (s.setHq q).pwrcap = s.pwrcap := rfl
@[simp] theorem setHq_pwrnow (s : State) (q : HQueue) : (s.setHq q).pwrnow = s.pwrnow := rfl
@[simp] theorem setHq_dvfs (s : State) (q : HQueue) : (s.setHq q).dvfs = s.dvfs := rfl
@[simp] theorem setHq_temp (s : State) (q : HQueue) : (s.setHq q).temp = s.temp := rfl
@[simp] theorem setHq_coolSince (s : State) (q : HQueue) : (s.setHq q).coolSince = s.coolSince := rfl
@[simp] theorem setHq_thermal (s : State) (q : HQueue) : (s.setHq q).thermal = s.thermal := rfl
@[simp] theorem setHq_misses (s : State) (q : HQueue) : (s.setHq q).misses = s.misses := rfl
@[simp] theorem setHq_logHead (s : State) (q : HQueue) : (s.setHq q).logHead = s.logHead := rfl
@[simp] theorem setHq_log (s : State) (q : HQueue) : (s.setHq q).log = s.log := rfl

/-! ## setUq -/

@[simp] theorem setUq_pkg (s : State) (q : UQueue) : (s.setUq q).pkg = s.pkg := rfl
@[simp] theorem setUq_cc (s : State) (q : UQueue) : (s.setUq q).cc = s.cc := rfl
@[simp] theorem setUq_ct (s : State) (q : UQueue) : (s.setUq q).ct = s.ct := rfl
@[simp] theorem setUq_ctFrac (s : State) (q : UQueue) : (s.setUq q).ctFrac = s.ctFrac := rfl
@[simp] theorem setUq_free (s : State) (q : UQueue) : (s.setUq q).free = s.free := rfl
@[simp] theorem setUq_uid (s : State) (q : UQueue) : (s.setUq q).uid = s.uid := rfl
@[simp] theorem setUq_inbox (s : State) (q : UQueue) : (s.setUq q).inbox = s.inbox := rfl
@[simp] theorem setUq_cur (s : State) (q : UQueue) : (s.setUq q).cur = s.cur := rfl
@[simp] theorem setUq_quarter (s : State) (q : UQueue) : (s.setUq q).quarter = s.quarter := rfl
@[simp] theorem setUq_rr (s : State) (q : UQueue) : (s.setUq q).rr = s.rr := rfl
@[simp] theorem setUq_stewards (s : State) (q : UQueue) : (s.setUq q).stewards = s.stewards := rfl
@[simp] theorem setUq_turns (s : State) (q : UQueue) : (s.setUq q).turns = s.turns := rfl
@[simp] theorem setUq_bgens (s : State) (q : UQueue) : (s.setUq q).bgens = s.bgens := rfl
@[simp] theorem setUq_mem (s : State) (q : UQueue) : (s.setUq q).mem = s.mem := rfl
@[simp] theorem setUq_poison (s : State) (q : UQueue) : (s.setUq q).poison = s.poison := rfl
@[simp] theorem setUq_granKey (s : State) (q : UQueue) : (s.setUq q).granKey = s.granKey := rfl
@[simp] theorem setUq_keySlots (s : State) (q : UQueue) : (s.setUq q).keySlots = s.keySlots := rfl
@[simp] theorem setUq_tlb (s : State) (q : UQueue) : (s.setUq q).tlb = s.tlb := rfl
@[simp] theorem setUq_pools (s : State) (q : UQueue) : (s.setUq q).pools = s.pools := rfl
@[simp] theorem setUq_dirtyFrames (s : State) (q : UQueue) : (s.setUq q).dirtyFrames = s.dirtyFrames := rfl
@[simp] theorem setUq_pages (s : State) (q : UQueue) : (s.setUq q).pages = s.pages := rfl
@[simp] theorem setUq_ap (s : State) (q : UQueue) : (s.setUq q).ap = s.ap := rfl
@[simp] theorem setUq_hqPoison (s : State) (q : UQueue) : (s.setUq q).hqPoison = s.hqPoison := rfl
@[simp] theorem setUq_migs (s : State) (q : UQueue) : (s.setUq q).migs = s.migs := rfl
@[simp] theorem setUq_ceCnt (s : State) (q : UQueue) : (s.setUq q).ceCnt = s.ceCnt := rfl
@[simp] theorem setUq_poisCnt (s : State) (q : UQueue) : (s.setUq q).poisCnt = s.poisCnt := rfl
@[simp] theorem setUq_ctxs (s : State) (q : UQueue) : (s.setUq q).ctxs = s.ctxs := rfl
@[simp] theorem setUq_kernels (s : State) (q : UQueue) : (s.setUq q).kernels = s.kernels := rfl
@[simp] theorem setUq_nextKobj (s : State) (q : UQueue) : (s.setUq q).nextKobj = s.nextKobj := rfl
@[simp] theorem setUq_blocks (s : State) (q : UQueue) : (s.setUq q).blocks = s.blocks := rfl
@[simp] theorem setUq_bufs (s : State) (q : UQueue) : (s.setUq q).bufs = s.bufs := rfl
@[simp] theorem setUq_hqs (s : State) (q : UQueue) : (s.setUq q).hqs = s.hqs := rfl
@[simp] theorem setUq_items (s : State) (q : UQueue) : (s.setUq q).items = s.items := rfl
@[simp] theorem setUq_tcbs (s : State) (q : UQueue) : (s.setUq q).tcbs = s.tcbs := rfl
@[simp] theorem setUq_phases (s : State) (q : UQueue) : (s.setUq q).phases = s.phases := rfl
@[simp] theorem setUq_cancelled (s : State) (q : UQueue) : (s.setUq q).cancelled = s.cancelled := rfl
@[simp] theorem setUq_nodes (s : State) (q : UQueue) : (s.setUq q).nodes = s.nodes := rfl
@[simp] theorem setUq_refs (s : State) (q : UQueue) : (s.setUq q).refs = s.refs := rfl
@[simp] theorem setUq_leftFails (s : State) (q : UQueue) : (s.setUq q).leftFails = s.leftFails := rfl
@[simp] theorem setUq_lastPass (s : State) (q : UQueue) : (s.setUq q).lastPass = s.lastPass := rfl
@[simp] theorem setUq_lastReconcile (s : State) (q : UQueue) : (s.setUq q).lastReconcile = s.lastReconcile := rfl
@[simp] theorem setUq_launchMeans (s : State) (q : UQueue) : (s.setUq q).launchMeans = s.launchMeans := rfl
@[simp] theorem setUq_ports (s : State) (q : UQueue) : (s.setUq q).ports = s.ports := rfl
@[simp] theorem setUq_linkDown (s : State) (q : UQueue) : (s.setUq q).linkDown = s.linkDown := rfl
@[simp] theorem setUq_unsent (s : State) (q : UQueue) : (s.setUq q).unsent = s.unsent := rfl
@[simp] theorem setUq_pkgNo (s : State) (q : UQueue) : (s.setUq q).pkgNo = s.pkgNo := rfl
@[simp] theorem setUq_cxlDown (s : State) (q : UQueue) : (s.setUq q).cxlDown = s.cxlDown := rfl
@[simp] theorem setUq_wins (s : State) (q : UQueue) : (s.setUq q).wins = s.wins := rfl
@[simp] theorem setUq_bootstat (s : State) (q : UQueue) : (s.setUq q).bootstat = s.bootstat := rfl
@[simp] theorem setUq_mr (s : State) (q : UQueue) : (s.setUq q).mr = s.mr := rfl
@[simp] theorem setUq_fwsv (s : State) (q : UQueue) : (s.setUq q).fwsv = s.fwsv := rfl
@[simp] theorem setUq_codesv (s : State) (q : UQueue) : (s.setUq q).codesv = s.codesv := rfl
@[simp] theorem setUq_fuseFw (s : State) (q : UQueue) : (s.setUq q).fuseFw = s.fuseFw := rfl
@[simp] theorem setUq_fuseCode (s : State) (q : UQueue) : (s.setUq q).fuseCode = s.fuseCode := rfl
@[simp] theorem setUq_owner (s : State) (q : UQueue) : (s.setUq q).owner = s.owner := rfl
@[simp] theorem setUq_handover (s : State) (q : UQueue) : (s.setUq q).handover = s.handover := rfl
@[simp] theorem setUq_masters (s : State) (q : UQueue) : (s.setUq q).masters = s.masters := rfl
@[simp] theorem setUq_heldCmds (s : State) (q : UQueue) : (s.setUq q).heldCmds = s.heldCmds := rfl
@[simp] theorem setUq_tenants (s : State) (q : UQueue) : (s.setUq q).tenants = s.tenants := rfl
@[simp] theorem setUq_pwrcap (s : State) (q : UQueue) : (s.setUq q).pwrcap = s.pwrcap := rfl
@[simp] theorem setUq_pwrnow (s : State) (q : UQueue) : (s.setUq q).pwrnow = s.pwrnow := rfl
@[simp] theorem setUq_dvfs (s : State) (q : UQueue) : (s.setUq q).dvfs = s.dvfs := rfl
@[simp] theorem setUq_temp (s : State) (q : UQueue) : (s.setUq q).temp = s.temp := rfl
@[simp] theorem setUq_coolSince (s : State) (q : UQueue) : (s.setUq q).coolSince = s.coolSince := rfl
@[simp] theorem setUq_thermal (s : State) (q : UQueue) : (s.setUq q).thermal = s.thermal := rfl
@[simp] theorem setUq_misses (s : State) (q : UQueue) : (s.setUq q).misses = s.misses := rfl
@[simp] theorem setUq_logHead (s : State) (q : UQueue) : (s.setUq q).logHead = s.logHead := rfl
@[simp] theorem setUq_log (s : State) (q : UQueue) : (s.setUq q).log = s.log := rfl

/-! ## updUq -/

@[simp] theorem updUq_pkg (s : State) (n : Nat) (f : UQueue → UQueue) : (s.updUq n f).pkg = s.pkg := rfl
@[simp] theorem updUq_cc (s : State) (n : Nat) (f : UQueue → UQueue) : (s.updUq n f).cc = s.cc := rfl
@[simp] theorem updUq_ct (s : State) (n : Nat) (f : UQueue → UQueue) : (s.updUq n f).ct = s.ct := rfl
@[simp] theorem updUq_ctFrac (s : State) (n : Nat) (f : UQueue → UQueue) : (s.updUq n f).ctFrac = s.ctFrac := rfl
@[simp] theorem updUq_free (s : State) (n : Nat) (f : UQueue → UQueue) : (s.updUq n f).free = s.free := rfl
@[simp] theorem updUq_uid (s : State) (n : Nat) (f : UQueue → UQueue) : (s.updUq n f).uid = s.uid := rfl
@[simp] theorem updUq_inbox (s : State) (n : Nat) (f : UQueue → UQueue) : (s.updUq n f).inbox = s.inbox := rfl
@[simp] theorem updUq_cur (s : State) (n : Nat) (f : UQueue → UQueue) : (s.updUq n f).cur = s.cur := rfl
@[simp] theorem updUq_quarter (s : State) (n : Nat) (f : UQueue → UQueue) : (s.updUq n f).quarter = s.quarter := rfl
@[simp] theorem updUq_rr (s : State) (n : Nat) (f : UQueue → UQueue) : (s.updUq n f).rr = s.rr := rfl
@[simp] theorem updUq_stewards (s : State) (n : Nat) (f : UQueue → UQueue) : (s.updUq n f).stewards = s.stewards := rfl
@[simp] theorem updUq_turns (s : State) (n : Nat) (f : UQueue → UQueue) : (s.updUq n f).turns = s.turns := rfl
@[simp] theorem updUq_bgens (s : State) (n : Nat) (f : UQueue → UQueue) : (s.updUq n f).bgens = s.bgens := rfl
@[simp] theorem updUq_mem (s : State) (n : Nat) (f : UQueue → UQueue) : (s.updUq n f).mem = s.mem := rfl
@[simp] theorem updUq_poison (s : State) (n : Nat) (f : UQueue → UQueue) : (s.updUq n f).poison = s.poison := rfl
@[simp] theorem updUq_granKey (s : State) (n : Nat) (f : UQueue → UQueue) : (s.updUq n f).granKey = s.granKey := rfl
@[simp] theorem updUq_keySlots (s : State) (n : Nat) (f : UQueue → UQueue) : (s.updUq n f).keySlots = s.keySlots := rfl
@[simp] theorem updUq_tlb (s : State) (n : Nat) (f : UQueue → UQueue) : (s.updUq n f).tlb = s.tlb := rfl
@[simp] theorem updUq_pools (s : State) (n : Nat) (f : UQueue → UQueue) : (s.updUq n f).pools = s.pools := rfl
@[simp] theorem updUq_dirtyFrames (s : State) (n : Nat) (f : UQueue → UQueue) : (s.updUq n f).dirtyFrames = s.dirtyFrames := rfl
@[simp] theorem updUq_pages (s : State) (n : Nat) (f : UQueue → UQueue) : (s.updUq n f).pages = s.pages := rfl
@[simp] theorem updUq_ap (s : State) (n : Nat) (f : UQueue → UQueue) : (s.updUq n f).ap = s.ap := rfl
@[simp] theorem updUq_hqPoison (s : State) (n : Nat) (f : UQueue → UQueue) : (s.updUq n f).hqPoison = s.hqPoison := rfl
@[simp] theorem updUq_migs (s : State) (n : Nat) (f : UQueue → UQueue) : (s.updUq n f).migs = s.migs := rfl
@[simp] theorem updUq_ceCnt (s : State) (n : Nat) (f : UQueue → UQueue) : (s.updUq n f).ceCnt = s.ceCnt := rfl
@[simp] theorem updUq_poisCnt (s : State) (n : Nat) (f : UQueue → UQueue) : (s.updUq n f).poisCnt = s.poisCnt := rfl
@[simp] theorem updUq_ctxs (s : State) (n : Nat) (f : UQueue → UQueue) : (s.updUq n f).ctxs = s.ctxs := rfl
@[simp] theorem updUq_kernels (s : State) (n : Nat) (f : UQueue → UQueue) : (s.updUq n f).kernels = s.kernels := rfl
@[simp] theorem updUq_nextKobj (s : State) (n : Nat) (f : UQueue → UQueue) : (s.updUq n f).nextKobj = s.nextKobj := rfl
@[simp] theorem updUq_blocks (s : State) (n : Nat) (f : UQueue → UQueue) : (s.updUq n f).blocks = s.blocks := rfl
@[simp] theorem updUq_bufs (s : State) (n : Nat) (f : UQueue → UQueue) : (s.updUq n f).bufs = s.bufs := rfl
@[simp] theorem updUq_hqs (s : State) (n : Nat) (f : UQueue → UQueue) : (s.updUq n f).hqs = s.hqs := rfl
@[simp] theorem updUq_items (s : State) (n : Nat) (f : UQueue → UQueue) : (s.updUq n f).items = s.items := rfl
@[simp] theorem updUq_tcbs (s : State) (n : Nat) (f : UQueue → UQueue) : (s.updUq n f).tcbs = s.tcbs := rfl
@[simp] theorem updUq_phases (s : State) (n : Nat) (f : UQueue → UQueue) : (s.updUq n f).phases = s.phases := rfl
@[simp] theorem updUq_cancelled (s : State) (n : Nat) (f : UQueue → UQueue) : (s.updUq n f).cancelled = s.cancelled := rfl
@[simp] theorem updUq_nodes (s : State) (n : Nat) (f : UQueue → UQueue) : (s.updUq n f).nodes = s.nodes := rfl
@[simp] theorem updUq_refs (s : State) (n : Nat) (f : UQueue → UQueue) : (s.updUq n f).refs = s.refs := rfl
@[simp] theorem updUq_leftFails (s : State) (n : Nat) (f : UQueue → UQueue) : (s.updUq n f).leftFails = s.leftFails := rfl
@[simp] theorem updUq_lastPass (s : State) (n : Nat) (f : UQueue → UQueue) : (s.updUq n f).lastPass = s.lastPass := rfl
@[simp] theorem updUq_lastReconcile (s : State) (n : Nat) (f : UQueue → UQueue) : (s.updUq n f).lastReconcile = s.lastReconcile := rfl
@[simp] theorem updUq_launchMeans (s : State) (n : Nat) (f : UQueue → UQueue) : (s.updUq n f).launchMeans = s.launchMeans := rfl
@[simp] theorem updUq_ports (s : State) (n : Nat) (f : UQueue → UQueue) : (s.updUq n f).ports = s.ports := rfl
@[simp] theorem updUq_linkDown (s : State) (n : Nat) (f : UQueue → UQueue) : (s.updUq n f).linkDown = s.linkDown := rfl
@[simp] theorem updUq_unsent (s : State) (n : Nat) (f : UQueue → UQueue) : (s.updUq n f).unsent = s.unsent := rfl
@[simp] theorem updUq_pkgNo (s : State) (n : Nat) (f : UQueue → UQueue) : (s.updUq n f).pkgNo = s.pkgNo := rfl
@[simp] theorem updUq_cxlDown (s : State) (n : Nat) (f : UQueue → UQueue) : (s.updUq n f).cxlDown = s.cxlDown := rfl
@[simp] theorem updUq_wins (s : State) (n : Nat) (f : UQueue → UQueue) : (s.updUq n f).wins = s.wins := rfl
@[simp] theorem updUq_bootstat (s : State) (n : Nat) (f : UQueue → UQueue) : (s.updUq n f).bootstat = s.bootstat := rfl
@[simp] theorem updUq_mr (s : State) (n : Nat) (f : UQueue → UQueue) : (s.updUq n f).mr = s.mr := rfl
@[simp] theorem updUq_fwsv (s : State) (n : Nat) (f : UQueue → UQueue) : (s.updUq n f).fwsv = s.fwsv := rfl
@[simp] theorem updUq_codesv (s : State) (n : Nat) (f : UQueue → UQueue) : (s.updUq n f).codesv = s.codesv := rfl
@[simp] theorem updUq_fuseFw (s : State) (n : Nat) (f : UQueue → UQueue) : (s.updUq n f).fuseFw = s.fuseFw := rfl
@[simp] theorem updUq_fuseCode (s : State) (n : Nat) (f : UQueue → UQueue) : (s.updUq n f).fuseCode = s.fuseCode := rfl
@[simp] theorem updUq_owner (s : State) (n : Nat) (f : UQueue → UQueue) : (s.updUq n f).owner = s.owner := rfl
@[simp] theorem updUq_handover (s : State) (n : Nat) (f : UQueue → UQueue) : (s.updUq n f).handover = s.handover := rfl
@[simp] theorem updUq_masters (s : State) (n : Nat) (f : UQueue → UQueue) : (s.updUq n f).masters = s.masters := rfl
@[simp] theorem updUq_heldCmds (s : State) (n : Nat) (f : UQueue → UQueue) : (s.updUq n f).heldCmds = s.heldCmds := rfl
@[simp] theorem updUq_tenants (s : State) (n : Nat) (f : UQueue → UQueue) : (s.updUq n f).tenants = s.tenants := rfl
@[simp] theorem updUq_pwrcap (s : State) (n : Nat) (f : UQueue → UQueue) : (s.updUq n f).pwrcap = s.pwrcap := rfl
@[simp] theorem updUq_pwrnow (s : State) (n : Nat) (f : UQueue → UQueue) : (s.updUq n f).pwrnow = s.pwrnow := rfl
@[simp] theorem updUq_dvfs (s : State) (n : Nat) (f : UQueue → UQueue) : (s.updUq n f).dvfs = s.dvfs := rfl
@[simp] theorem updUq_temp (s : State) (n : Nat) (f : UQueue → UQueue) : (s.updUq n f).temp = s.temp := rfl
@[simp] theorem updUq_coolSince (s : State) (n : Nat) (f : UQueue → UQueue) : (s.updUq n f).coolSince = s.coolSince := rfl
@[simp] theorem updUq_thermal (s : State) (n : Nat) (f : UQueue → UQueue) : (s.updUq n f).thermal = s.thermal := rfl
@[simp] theorem updUq_misses (s : State) (n : Nat) (f : UQueue → UQueue) : (s.updUq n f).misses = s.misses := rfl
@[simp] theorem updUq_logHead (s : State) (n : Nat) (f : UQueue → UQueue) : (s.updUq n f).logHead = s.logHead := rfl
@[simp] theorem updUq_log (s : State) (n : Nat) (f : UQueue → UQueue) : (s.updUq n f).log = s.log := rfl

/-! ## setMaster -/

@[simp] theorem setMaster_pkg (s : State) (m : MasterSt) : (s.setMaster m).pkg = s.pkg := rfl
@[simp] theorem setMaster_cc (s : State) (m : MasterSt) : (s.setMaster m).cc = s.cc := rfl
@[simp] theorem setMaster_ct (s : State) (m : MasterSt) : (s.setMaster m).ct = s.ct := rfl
@[simp] theorem setMaster_ctFrac (s : State) (m : MasterSt) : (s.setMaster m).ctFrac = s.ctFrac := rfl
@[simp] theorem setMaster_free (s : State) (m : MasterSt) : (s.setMaster m).free = s.free := rfl
@[simp] theorem setMaster_uid (s : State) (m : MasterSt) : (s.setMaster m).uid = s.uid := rfl
@[simp] theorem setMaster_inbox (s : State) (m : MasterSt) : (s.setMaster m).inbox = s.inbox := rfl
@[simp] theorem setMaster_cur (s : State) (m : MasterSt) : (s.setMaster m).cur = s.cur := rfl
@[simp] theorem setMaster_quarter (s : State) (m : MasterSt) : (s.setMaster m).quarter = s.quarter := rfl
@[simp] theorem setMaster_rr (s : State) (m : MasterSt) : (s.setMaster m).rr = s.rr := rfl
@[simp] theorem setMaster_stewards (s : State) (m : MasterSt) : (s.setMaster m).stewards = s.stewards := rfl
@[simp] theorem setMaster_turns (s : State) (m : MasterSt) : (s.setMaster m).turns = s.turns := rfl
@[simp] theorem setMaster_bgens (s : State) (m : MasterSt) : (s.setMaster m).bgens = s.bgens := rfl
@[simp] theorem setMaster_mem (s : State) (m : MasterSt) : (s.setMaster m).mem = s.mem := rfl
@[simp] theorem setMaster_poison (s : State) (m : MasterSt) : (s.setMaster m).poison = s.poison := rfl
@[simp] theorem setMaster_granKey (s : State) (m : MasterSt) : (s.setMaster m).granKey = s.granKey := rfl
@[simp] theorem setMaster_keySlots (s : State) (m : MasterSt) : (s.setMaster m).keySlots = s.keySlots := rfl
@[simp] theorem setMaster_tlb (s : State) (m : MasterSt) : (s.setMaster m).tlb = s.tlb := rfl
@[simp] theorem setMaster_pools (s : State) (m : MasterSt) : (s.setMaster m).pools = s.pools := rfl
@[simp] theorem setMaster_dirtyFrames (s : State) (m : MasterSt) : (s.setMaster m).dirtyFrames = s.dirtyFrames := rfl
@[simp] theorem setMaster_pages (s : State) (m : MasterSt) : (s.setMaster m).pages = s.pages := rfl
@[simp] theorem setMaster_ap (s : State) (m : MasterSt) : (s.setMaster m).ap = s.ap := rfl
@[simp] theorem setMaster_hqPoison (s : State) (m : MasterSt) : (s.setMaster m).hqPoison = s.hqPoison := rfl
@[simp] theorem setMaster_migs (s : State) (m : MasterSt) : (s.setMaster m).migs = s.migs := rfl
@[simp] theorem setMaster_ceCnt (s : State) (m : MasterSt) : (s.setMaster m).ceCnt = s.ceCnt := rfl
@[simp] theorem setMaster_poisCnt (s : State) (m : MasterSt) : (s.setMaster m).poisCnt = s.poisCnt := rfl
@[simp] theorem setMaster_ctxs (s : State) (m : MasterSt) : (s.setMaster m).ctxs = s.ctxs := rfl
@[simp] theorem setMaster_kernels (s : State) (m : MasterSt) : (s.setMaster m).kernels = s.kernels := rfl
@[simp] theorem setMaster_nextKobj (s : State) (m : MasterSt) : (s.setMaster m).nextKobj = s.nextKobj := rfl
@[simp] theorem setMaster_blocks (s : State) (m : MasterSt) : (s.setMaster m).blocks = s.blocks := rfl
@[simp] theorem setMaster_bufs (s : State) (m : MasterSt) : (s.setMaster m).bufs = s.bufs := rfl
@[simp] theorem setMaster_hqs (s : State) (m : MasterSt) : (s.setMaster m).hqs = s.hqs := rfl
@[simp] theorem setMaster_items (s : State) (m : MasterSt) : (s.setMaster m).items = s.items := rfl
@[simp] theorem setMaster_tcbs (s : State) (m : MasterSt) : (s.setMaster m).tcbs = s.tcbs := rfl
@[simp] theorem setMaster_phases (s : State) (m : MasterSt) : (s.setMaster m).phases = s.phases := rfl
@[simp] theorem setMaster_cancelled (s : State) (m : MasterSt) : (s.setMaster m).cancelled = s.cancelled := rfl
@[simp] theorem setMaster_uqs (s : State) (m : MasterSt) : (s.setMaster m).uqs = s.uqs := rfl
@[simp] theorem setMaster_nodes (s : State) (m : MasterSt) : (s.setMaster m).nodes = s.nodes := rfl
@[simp] theorem setMaster_refs (s : State) (m : MasterSt) : (s.setMaster m).refs = s.refs := rfl
@[simp] theorem setMaster_leftFails (s : State) (m : MasterSt) : (s.setMaster m).leftFails = s.leftFails := rfl
@[simp] theorem setMaster_lastPass (s : State) (m : MasterSt) : (s.setMaster m).lastPass = s.lastPass := rfl
@[simp] theorem setMaster_lastReconcile (s : State) (m : MasterSt) : (s.setMaster m).lastReconcile = s.lastReconcile := rfl
@[simp] theorem setMaster_launchMeans (s : State) (m : MasterSt) : (s.setMaster m).launchMeans = s.launchMeans := rfl
@[simp] theorem setMaster_ports (s : State) (m : MasterSt) : (s.setMaster m).ports = s.ports := rfl
@[simp] theorem setMaster_linkDown (s : State) (m : MasterSt) : (s.setMaster m).linkDown = s.linkDown := rfl
@[simp] theorem setMaster_unsent (s : State) (m : MasterSt) : (s.setMaster m).unsent = s.unsent := rfl
@[simp] theorem setMaster_pkgNo (s : State) (m : MasterSt) : (s.setMaster m).pkgNo = s.pkgNo := rfl
@[simp] theorem setMaster_cxlDown (s : State) (m : MasterSt) : (s.setMaster m).cxlDown = s.cxlDown := rfl
@[simp] theorem setMaster_wins (s : State) (m : MasterSt) : (s.setMaster m).wins = s.wins := rfl
@[simp] theorem setMaster_bootstat (s : State) (m : MasterSt) : (s.setMaster m).bootstat = s.bootstat := rfl
@[simp] theorem setMaster_mr (s : State) (m : MasterSt) : (s.setMaster m).mr = s.mr := rfl
@[simp] theorem setMaster_fwsv (s : State) (m : MasterSt) : (s.setMaster m).fwsv = s.fwsv := rfl
@[simp] theorem setMaster_codesv (s : State) (m : MasterSt) : (s.setMaster m).codesv = s.codesv := rfl
@[simp] theorem setMaster_fuseFw (s : State) (m : MasterSt) : (s.setMaster m).fuseFw = s.fuseFw := rfl
@[simp] theorem setMaster_fuseCode (s : State) (m : MasterSt) : (s.setMaster m).fuseCode = s.fuseCode := rfl
@[simp] theorem setMaster_owner (s : State) (m : MasterSt) : (s.setMaster m).owner = s.owner := rfl
@[simp] theorem setMaster_handover (s : State) (m : MasterSt) : (s.setMaster m).handover = s.handover := rfl
@[simp] theorem setMaster_heldCmds (s : State) (m : MasterSt) : (s.setMaster m).heldCmds = s.heldCmds := rfl
@[simp] theorem setMaster_tenants (s : State) (m : MasterSt) : (s.setMaster m).tenants = s.tenants := rfl
@[simp] theorem setMaster_pwrcap (s : State) (m : MasterSt) : (s.setMaster m).pwrcap = s.pwrcap := rfl
@[simp] theorem setMaster_pwrnow (s : State) (m : MasterSt) : (s.setMaster m).pwrnow = s.pwrnow := rfl
@[simp] theorem setMaster_dvfs (s : State) (m : MasterSt) : (s.setMaster m).dvfs = s.dvfs := rfl
@[simp] theorem setMaster_temp (s : State) (m : MasterSt) : (s.setMaster m).temp = s.temp := rfl
@[simp] theorem setMaster_coolSince (s : State) (m : MasterSt) : (s.setMaster m).coolSince = s.coolSince := rfl
@[simp] theorem setMaster_thermal (s : State) (m : MasterSt) : (s.setMaster m).thermal = s.thermal := rfl
@[simp] theorem setMaster_misses (s : State) (m : MasterSt) : (s.setMaster m).misses = s.misses := rfl
@[simp] theorem setMaster_logHead (s : State) (m : MasterSt) : (s.setMaster m).logHead = s.logHead := rfl
@[simp] theorem setMaster_log (s : State) (m : MasterSt) : (s.setMaster m).log = s.log := rfl

end Sys2Proof.Laws
end

