-- ==== Sys2Proof/Tests/Slice0.lean ====
section
/-!
SUPPORT. Tests: words written out in the spec decode to the instructions they stand for, ill-formed words are refused, and
single steps of small states.
-/
namespace Sys2Proof.Tests

/-- Whether a word decodes in a class to an instruction that satisfies a test. -/
def reads (c : Cls) (w : W32) (x : Option W32) (p : Instr → Bool) : Bool :=
  match decode c w x with | .ok i => p i | .error _ => false
/-- The subcode that refuses a word; 0 where it decodes. -/
def refusedAs (c : Cls) (w : W32) (x : Option W32) : Nat :=
  match decode c w x with | .ok _ => 0 | .error e => e.code

/-! ## Encodings written out in the spec -/

/-- Table ASM: `add v5, v6:rot1, v7~`. -/
theorem test_add_word : decode .alu 0x0114643C none =
    .ok (.add { s := false, u := false, d := 5, a := 0x032, b := 0x03C, ext := none }) := by decide
/-- `(!p2) add v5, v6:rot3, v7~`. -/
theorem test_add_long : decode .alu 0x0114643C (some 0x50006000) =
    .ok (.add { s := false, u := false, d := 5, a := 0x032, b := 0x03C,
                ext := some { gp := 2, gi := true, c := 0, pa := 3, pb := 0, rm := 0, sat := false, sub := 0 } }) := by
  decide
/-- `ld.b32.acq.die v2, [g5 + v7 + 64]`. -/
theorem test_ld_word : decode .mem 0x0008702C (some 0xE5200040) =
    .ok (.ld { s := false, u := false, d := 2, a := 0x038, base := 5, w := 4,
               ext := some { gp := 7, gi := false, scope := 5, order := 1, imm := 64 } }) := by decide
/-- `(p3) bra skip`. -/
theorem test_bra_word : decode .ctl 0x0030000F none =
    .ok (.bra { s := false, u := false, sel := 3, inv := false, off := 15, ext := none }) := by decide
/-- Table MAP-5. -/
theorem test_cmp_word : decode .alu 0x20283020 (some 0xE2400000) =
    .ok (.cmp { s := false, u := false, pd1 := 1, pd2 := 2, a := 0x018, b := 0x020,
                ext := some { gp := 7, gi := false, ct := 1, cond := 2, typ := 0, pa := 0, pb := 0, z := 0 } }) := by
  decide
/-- `mma.die a1, t2, t3, e2, e3, g25, wait c4:1, arrive c5`. -/
theorem test_mma_word : decode .eng 0x054234D9 (some 0xE5382028) =
    .ok (.mma { s := false, u := false, acc := 1, clr := false, ser := false, ta := 2, tb := 3, er := 2, ec := 3,
                gk := 25, ext := some { gp := 7, gi := false, scope := 5, af := 0, we := true, wpar := true,
                                        ae := true, wcl := 4, acl := 5, z := 0 } }) := by decide
/-- `cpy.g2s g30, g8, c0+g20`. -/
theorem test_cpy_word : decode .eng 0x0A7880A0 (some 0xE3800000) =
    .ok (.cpy { s := false, u := false, d := 30, a := 0x040, b := 0x0A0,
                ext := some { gp := 7, gi := false, scope := 3, ce := true, clasp := 0, mode := 0, z := 0 } }) := by
  decide
/-- `fdiv.f64.rup v2.w, v4.w, v6.w`. -/
theorem test_fdiv_word : decode .flt 0x12084030 (some 0xE0000031) =
    .ok (.fdiv { s := false, u := false, d := 2, a := 0x020, b := 0x030,
                 ext := some { gp := 7, gi := false, c := 0, pa := 0, pb := 0, rm := 3, sat := false, sub := 1 } }) := by
  decide
/-- `samo.add.b32 v6, [g9 + v1], v2`. -/
theorem test_samo_word : decode .loc 0x0618104C (some 0xE3010000) =
    .ok (.samo { s := false, u := false, d := 6, a := 0x008, base := 9, w := 4,
                 ext := some { gp := 7, gi := false, scope := 3, order := 0, data := 0x010, cmp := 0, typ := 0 } }) := by
  decide
/-- `csrw trapnest, g60`. -/
theorem test_csrw_word : decode .sys 0x0303C004 none =
    .ok (.csrw { s := false, u := false, d := 0, a := 0x1E0, imm := 4, ext := none }) := by decide
/-- Words of the spec's tables that decode, class by class. -/
theorem test_words_decode :
    (reads .alu 0x0A24A000 none fun _ => true) = true ∧
    (reads .loc 0x11143011 none fun i => match i with | .qpopSat _ => true | _ => false) = true ∧
    (reads .eng 0x04018001 none fun i => match i with | .emaskCnt _ => true | _ => false) = true ∧
    (reads .eng 0x0701A001 none fun i => match i with | .mcontDiscard _ => true | _ => false) = true ∧
    (reads .ctl 0x0E19E060 (some 0xE7000000) fun i => match i with | .wtl _ => true | _ => false) = true ∧
    (reads .ctl 0x14A1E840 none fun i => match i with | .suspend _ => true | _ => false) = true ∧
    (reads .eng 0x06020104 (some 0xE512000C) fun i => match i with | .drain _ => true | _ => false) = true := by
  decide

/-! ## A word of every row of the opcode table that has one

Each word is built from the row's bits and the layouts of R38 to R46, R217, R268 and R271 to R273. -/

/-- Whether words of a class decode to the instructions beside them. -/
def reading (c : Cls) (ws : List (W32 × Option W32 × Instr)) : Bool := ws.all fun x => decode c x.1 x.2.1 == .ok x.2.2
theorem test_alu_words_1 : reading .alu [
    (0x00A43000, none, .mov { s := false, u := false, d := 0x29, a := 0x018, b := 0x000, ext := none }),
    (0x012EA89C, none, .add { s := false, u := false, d := 0x0b, a := 0x154, b := 0x09c, ext := none }),
    (0x82CA26A2, some 0x40000000,
      .sub { s := true, u := false, d := 0x32, a := 0x113, b := 0x0a2, ext := some { gp := 0x2, gi := false, c := 0x000, pa := 0x00, pb := 0x00, rm := 0x0, sat := false, sub := 0x0 } }),
    (0x83ED78AC, none, .mul { s := true, u := false, d := 0x3b, a := 0x0bc, b := 0x0ac, ext := none }),
    (0x842B6046, some 0xE0000000,
      .mulhi { s := true, u := false, d := 0x0a, a := 0x1b0, b := 0x046, ext := some { gp := 0x7, gi := false, c := 0x000, pa := 0x00, pb := 0x00, rm := 0x0, sat := false, sub := 0x0 } }),
    (0x8612EBF4, none, .addw { s := true, u := false, d := 0x04, a := 0x175, b := 0x1f4, ext := none }),
    (0x075A2FD6, some 0x80000000,
      .subw { s := false, u := false, d := 0x16, a := 0x117, b := 0x1d6, ext := some { gp := 0x4, gi := false, c := 0x000, pa := 0x00, pb := 0x00, rm := 0x0, sat := false, sub := 0x0 } }),
    (0x0829814C, some 0xD0000000,
      .mulw { s := false, u := false, d := 0x0a, a := 0x0c0, b := 0x14c, ext := some { gp := 0x6, gi := true, c := 0x000, pa := 0x00, pb := 0x00, rm := 0x0, sat := false, sub := 0x0 } }),
    (0x09B2DC00, some 0xC0000000,
      .abs { s := false, u := false, d := 0x2c, a := 0x16e, b := 0x000, ext := some { gp := 0x6, gi := false, c := 0x000, pa := 0x00, pb := 0x00, rm := 0x0, sat := false, sub := 0x0 } }),
    (0x0A457C2A, some 0xD0000000,
      .andR { s := false, u := false, d := 0x11, a := 0x0be, b := 0x02a, ext := some { gp := 0x6, gi := true, c := 0x000, pa := 0x00, pb := 0x00, rm := 0x0, sat := false, sub := 0x0 } }),
    (0x0B1D24FB, some 0xE0000000,
      .orR { s := false, u := false, d := 0x07, a := 0x092, b := 0x0fb, ext := some { gp := 0x7, gi := false, c := 0x000, pa := 0x00, pb := 0x00, rm := 0x0, sat := false, sub := 0x0 } }),
    (0x8CF9DDFF, some 0x40000000,
      .xorR { s := true, u := false, d := 0x3e, a := 0x0ee, b := 0x1ff, ext := some { gp := 0x2, gi := false, c := 0x000, pa := 0x00, pb := 0x00, rm := 0x0, sat := false, sub := 0x0 } }),
    (0x0D60EA02, some 0x00000000,
      .andn { s := false, u := false, d := 0x18, a := 0x075, b := 0x002, ext := some { gp := 0x0, gi := false, c := 0x000, pa := 0x00, pb := 0x00, rm := 0x0, sat := false, sub := 0x0 } }),
    (0x8EBF3A70, none, .orn { s := true, u := false, d := 0x2f, a := 0x19d, b := 0x070, ext := none }),
    (0x0F003826, none, .shl { s := false, u := false, d := 0x00, a := 0x01c, b := 0x026, ext := none }),
    (0x901730E1, none, .shr { s := true, u := false, d := 0x05, a := 0x198, b := 0x0e1, ext := none })] = true := by decide +kernel
theorem test_alu_words_2 : reading .alu [
    (0x51BF7878, none, .sar { s := false, u := true, d := 0x2f, a := 0x1bc, b := 0x078, ext := none }),
    (0x12B03A13, none, .rotl { s := false, u := false, d := 0x2c, a := 0x01d, b := 0x013, ext := none }),
    (0x93EA279C, some 0xE0000000,
      .min { s := true, u := false, d := 0x3a, a := 0x113, b := 0x19c, ext := some { gp := 0x7, gi := false, c := 0x000, pa := 0x00, pb := 0x00, rm := 0x0, sat := false, sub := 0x0 } }),
    (0x1472F8A7, some 0x30000000,
      .max { s := false, u := false, d := 0x1c, a := 0x17c, b := 0x0a7, ext := some { gp := 0x1, gi := true, c := 0x000, pa := 0x00, pb := 0x00, rm := 0x0, sat := false, sub := 0x0 } }),
    (0x154F7C11, none, .adds { s := false, u := false, d := 0x13, a := 0x1be, b := 0x011, ext := none }),
    (0x1645D2A1, none, .subs { s := false, u := false, d := 0x11, a := 0x0e9, b := 0x0a1, ext := none }),
    (0x97800000, some 0x50000000,
      .clz { s := true, u := false, d := 0x20, a := 0x000, b := 0x000, ext := some { gp := 0x2, gi := true, c := 0x000, pa := 0x00, pb := 0x00, rm := 0x0, sat := false, sub := 0x0 } }),
    (0x98B6AA00, some 0xE0000000,
      .ctz { s := true, u := false, d := 0x2d, a := 0x155, b := 0x000, ext := some { gp := 0x7, gi := false, c := 0x000, pa := 0x00, pb := 0x00, rm := 0x0, sat := false, sub := 0x0 } }),
    (0x99F3EA00, some 0xE0000000,
      .popc { s := true, u := false, d := 0x3c, a := 0x1f5, b := 0x000, ext := some { gp := 0x7, gi := false, c := 0x000, pa := 0x00, pb := 0x00, rm := 0x0, sat := false, sub := 0x0 } }),
    (0x9A022400, none, .brev { s := true, u := false, d := 0x00, a := 0x112, b := 0x000, ext := none }),
    (0xA070A088, some 0xE2000000,
      .cmp { s := true, u := false, pd1 := 0x3, pd2 := 0x4, a := 0x050, b := 0x088, ext := some { gp := 0x7, gi := false, ct := 0x1, cond := 0x0, typ := 0x0, pa := 0x00, pb := 0x00, z := 0x00 } }),
    (0x22624800, none, .plog { s := false, u := false, pd := 0x3, pa := 0x1, pb := 0x2, tt := 0x4, z := 0x000, ext := none }),
    (0xA36C0000, none, .laneid { s := true, u := false, d := 0x1b, a := 0x000, b := 0x000, ext := none }),
    (0x64C85000, some 0x10000000,
      .ballot { s := false, u := true, d := 0x32, a := 0x028, b := 0x000, ext := some { gp := 0x0, gi := true, c := 0x000, pa := 0x00, pb := 0x00, rm := 0x0, sat := false, sub := 0x0 } }),
    (0xA5002600, some 0x90000000,
      .mkpred { s := true, u := false, d := 0x00, a := 0x013, b := 0x000, ext := some { gp := 0x4, gi := true, c := 0x000, pa := 0x00, pb := 0x00, rm := 0x0, sat := false, sub := 0x0 } }),
    (0xA60C2000, some 0xE0000000,
      .vote { s := true, u := false, d := 0x03, a := 0x010, b := 0x000, ext := some { gp := 0x7, gi := false, c := 0x000, pa := 0x00, pb := 0x00, rm := 0x0, sat := false, sub := 0x0 } })] = true := by decide +kernel
theorem test_alu_words_3 : reading .alu [
    (0x673A81B0, none, .rdlane { s := false, u := true, d := 0x0e, a := 0x140, b := 0x1b0, ext := none }),
    (0xA8ECD1D0, some 0xE0000000,
      .wrlane { s := true, u := false, d := 0x3b, a := 0x068, b := 0x1d0, ext := some { gp := 0x7, gi := false, c := 0x000, pa := 0x00, pb := 0x00, rm := 0x0, sat := false, sub := 0x0 } }),
    (0x29F67CF5, none, .perm { s := false, u := false, d := 0x3d, a := 0x13e, b := 0x0f5, ext := none }),
    (0xACB4002B, none, .movi { s := true, u := false, d := 0x2d, a := 0x000, imm := 0x02b, ext := none }),
    (0x2DE90641, none, .addi { s := false, u := false, d := 0x3a, a := 0x083, imm := 0x041, ext := none }),
    (0x2E4C89E9, none, .andi { s := false, u := false, d := 0x13, a := 0x044, imm := 0x1e9, ext := none }),
    (0xAFA34CA4, none, .ori { s := true, u := false, d := 0x28, a := 0x1a6, imm := 0x0a4, ext := none }),
    (0xB09C1B66, none, .xori { s := true, u := false, d := 0x27, a := 0x00d, imm := 0x166, ext := none }),
    (0x31DD6819, none, .shli { s := false, u := false, d := 0x37, a := 0x0b4, imm := 0x019, ext := none }),
    (0x720C983F, none, .shri { s := false, u := true, d := 0x03, a := 0x04c, imm := 0x03f, ext := none }),
    (0xB333C801, none, .sari { s := true, u := false, d := 0x0c, a := 0x1e4, imm := 0x001, ext := none }),
    (0x3488ED23, none, .movhi { s := false, u := false, d := 0x22, a := 0x076, imm := 0x123, ext := none }),
    (0xB697CC00, none, .vget { s := true, u := false, d := 0x25, a := 0x1e6, b := 0x000, ext := none }),
    (0x37012068, some 0xE0000000,
      .vput { s := false, u := false, d := 0x00, a := 0x090, b := 0x068, ext := some { gp := 0x7, gi := false, c := 0x000, pa := 0x00, pb := 0x00, rm := 0x0, sat := false, sub := 0x0 } }),
    (0x387526E5, some 0xA8A80000,
      .bdep { s := false, u := false, d := 0x1d, a := 0x093, b := 0x0e5, ext := some { gp := 0x5, gi := false, c := 0x115, pa := 0x00, pb := 0x00, rm := 0x0, sat := false, sub := 0x0 } }),
    (0xF96E8841, some 0x70000000,
      .bext { s := true, u := true, d := 0x1b, a := 0x144, b := 0x041, ext := some { gp := 0x3, gi := true, c := 0x000, pa := 0x00, pb := 0x00, rm := 0x0, sat := false, sub := 0x0 } })] = true := by decide +kernel
theorem test_flt_words_1 : reading .flt [
    (0x000A244F, none, .fadd { s := false, u := false, d := 0x02, a := 0x112, b := 0x04f, ext := none }),
    (0x0174FF02, none, .fsub { s := false, u := false, d := 0x1d, a := 0x07f, b := 0x102, ext := none }),
    (0x021E7EB7, some 0xE0000000,
      .fmul { s := false, u := false, d := 0x07, a := 0x13f, b := 0x0b7, ext := some { gp := 0x7, gi := false, c := 0x000, pa := 0x00, pb := 0x00, rm := 0x0, sat := false, sub := 0x0 } }),
    (0x04429EF0, some 0x10000000,
      .fmin { s := false, u := false, d := 0x10, a := 0x14f, b := 0x0f0, ext := some { gp := 0x0, gi := true, c := 0x000, pa := 0x00, pb := 0x00, rm := 0x0, sat := false, sub := 0x0 } }),
    (0x8538E7BE, none, .fmax { s := true, u := false, d := 0x0e, a := 0x073, b := 0x1be, ext := none }),
    (0x067A8200, none, .fabs { s := false, u := false, d := 0x1e, a := 0x141, b := 0x000, ext := none }),
    (0x077B7C00, none, .fneg { s := false, u := false, d := 0x1e, a := 0x1be, b := 0x000, ext := none }),
    (0x0816E621, none, .fsign { s := false, u := false, d := 0x05, a := 0x173, b := 0x021, ext := none }),
    (0x0947C221, some 0x70000000,
      .fcmp { s := false, u := false, pd1 := 0x2, pd2 := 0x1, a := 0x1e1, b := 0x021, ext := some { gp := 0x3, gi := true, ct := 0x0, cond := 0x0, typ := 0x0, pa := 0x00, pb := 0x00, z := 0x00 } }),
    (0x4A7D4000, some 0x30000000,
      .frcp { s := false, u := true, d := 0x1f, a := 0x0a0, b := 0x000, ext := some { gp := 0x1, gi := true, c := 0x000, pa := 0x00, pb := 0x00, rm := 0x0, sat := false, sub := 0x0 } }),
    (0x8B044800, none, .frsq { s := true, u := false, d := 0x01, a := 0x024, b := 0x000, ext := none }),
    (0x8CE02E00, none, .fsqrt { s := true, u := false, d := 0x38, a := 0x017, b := 0x000, ext := none }),
    (0x8D666A00, none, .fexp2 { s := true, u := false, d := 0x19, a := 0x135, b := 0x000, ext := none }),
    (0x8EE52E00, some 0xE0000000,
      .flog2 { s := true, u := false, d := 0x39, a := 0x097, b := 0x000, ext := some { gp := 0x7, gi := false, c := 0x000, pa := 0x00, pb := 0x00, rm := 0x0, sat := false, sub := 0x0 } }),
    (0x0FB95A00, some 0x80000000,
      .fsinpi { s := false, u := false, d := 0x2e, a := 0x0ad, b := 0x000, ext := some { gp := 0x4, gi := false, c := 0x000, pa := 0x00, pb := 0x00, rm := 0x0, sat := false, sub := 0x0 } }),
    (0x90414800, none, .fcospi { s := true, u := false, d := 0x10, a := 0x0a4, b := 0x000, ext := none })] = true := by decide +kernel
theorem test_flt_words_2 : reading .flt [
    (0x11A63000, some 0xE0000000,
      .ftanh { s := false, u := false, d := 0x29, a := 0x118, b := 0x000, ext := some { gp := 0x7, gi := false, c := 0x000, pa := 0x00, pb := 0x00, rm := 0x0, sat := false, sub := 0x0 } }),
    (0x12F2A697, some 0xE0000000,
      .fdiv { s := false, u := false, d := 0x3c, a := 0x153, b := 0x097, ext := some { gp := 0x7, gi := false, c := 0x000, pa := 0x00, pb := 0x00, rm := 0x0, sat := false, sub := 0x0 } }),
    (0x93AE3400, none, .frnd { s := true, u := false, d := 0x2b, a := 0x11a, b := 0x000, ext := none }),
    (0x142D0402, none, .fcvt { s := false, u := false, d := 0x0b, a := 0x082, b := 0x002, ext := none }),
    (0xD54A6003, none, .f2i { s := true, u := true, d := 0x12, a := 0x130, b := 0x003, ext := none }),
    (0x9600D600, none, .i2f { s := true, u := false, d := 0x00, a := 0x06b, b := 0x000, ext := none }),
    (0x17128242, none, .cvt8 { s := false, u := false, d := 0x04, a := 0x141, b := 0x042, ext := none }),
    (0x98CAEC1D, none, .exp8 { s := true, u := false, d := 0x32, a := 0x176, b := 0x01d, ext := none }),
    (0x19EF8C3A, none, .fscale { s := false, u := false, d := 0x3b, a := 0x1c6, b := 0x03a, ext := none }),
    (0x1AC32E00, none, .fclass { s := false, u := false, d := 0x30, a := 0x197, b := 0x000, ext := none })] = true := by decide +kernel
theorem test_mem_words : reading .mem [
    (0x00FE00F2, some 0xE0000000,
      .ld { s := false, u := false, d := 0x3f, a := 0x100, base := 0x1e, w := 0x2, ext := some { gp := 0x7, gi := false, scope := 0x0, order := 0x0, imm := 0x000000 } }),
    (0x0101AEF4, some 0xE0000000,
      .st8 { s := false, u := false, base := 0x00, a := 0x0d7, data := 0x0f4, ext := some { gp := 0x7, gi := false, scope := 0x0, order := 0x0, imm := 0x000000 } }),
    (0x82495533, none, .st16 { s := true, u := false, base := 0x12, a := 0x0aa, data := 0x133, ext := none }),
    (0x03F68547, some 0xE798AE4F,
      .st32 { s := false, u := false, base := 0x3d, a := 0x142, data := 0x147, ext := some { gp := 0x7, gi := false, scope := 0x7, order := 0x4, imm := 0x18ae4f } }),
    (0x84E1CA07, some 0x20000000,
      .st64 { s := true, u := false, base := 0x38, a := 0x0e5, data := 0x007, ext := some { gp := 0x1, gi := false, scope := 0x0, order := 0x0, imm := 0x000000 } }),
    (0x05ECB9E2, some 0x14527638,
      .st128 { s := false, u := false, base := 0x3b, a := 0x05c, data := 0x1e2, ext := some { gp := 0x0, gi := true, scope := 0x4, order := 0x2, imm := 0x127638 } }),
    (0x86DA7C47, some 0x70000000,
      .st256 { s := true, u := false, base := 0x36, a := 0x13e, data := 0x047, ext := some { gp := 0x3, gi := true, scope := 0x0, order := 0x0, imm := 0x000000 } }),
    (0x950000E8, some 0xE0000000,
      .pref { s := true, u := false, d := 0x00, a := 0x000, base := 0x1d, w := 0x0, ext := some { gp := 0x7, gi := false, scope := 0x0, order := 0x0, imm := 0x000000 } }),
    (0x9600E418, some 0x00000000,
      .cwb { s := true, u := false, d := 0x00, a := 0x072, base := 0x03, w := 0x0, ext := some { gp := 0x0, gi := false, scope := 0x0, order := 0x0, imm := 0x000000 } }),
    (0x17032278, none, .cinv { s := false, u := false, d := 0x00, a := 0x191, base := 0x0f, w := 0x0, ext := none })] = true := by decide +kernel
theorem test_loc_words_1 : reading .loc [
    (0x8049DBC9, some 0x1C000000,
      .sld { s := true, u := false, d := 0x12, a := 0x0ed, base := 0x39, w := 0x1, ext := some { gp := 0x0, gi := true, scope := 0xc, order := 0x0, imm := 0x000000 } }),
    (0x017CCD12, some 0xC0000000,
      .sst8 { s := false, u := false, base := 0x1f, a := 0x066, data := 0x112, ext := some { gp := 0x6, gi := false, scope := 0x0, order := 0x0, imm := 0x000000 } }),
    (0x020528C5, some 0x00000000,
      .sst16 { s := false, u := false, base := 0x01, a := 0x094, data := 0x0c5, ext := some { gp := 0x0, gi := false, scope := 0x0, order := 0x0, imm := 0x000000 } }),
    (0x03E99379, some 0xE243C783,
      .sst32 { s := false, u := false, base := 0x3a, a := 0x0c9, data := 0x179, ext := some { gp := 0x7, gi := false, scope := 0x2, order := 0x2, imm := 0x03c783 } }),
    (0x04F29952, some 0xEA580000,
      .sst64 { s := false, u := false, base := 0x3c, a := 0x14c, data := 0x152, ext := some { gp := 0x7, gi := false, scope := 0xa, order := 0x2, imm := 0x180000 } }),
    (0x05639B24, some 0x5712A5B8,
      .sst128 { s := false, u := false, base := 0x18, a := 0x1cd, data := 0x124, ext := some { gp := 0x2, gi := true, scope := 0x7, order := 0x0, imm := 0x12a5b8 } }),
    (0x08CB2000, some 0xEE193806,
      .halloc { s := false, u := false, d := 0x32, a := 0x190, base := 0x00, w := 0x0, ext := some { gp := 0x7, gi := false, scope := 0xe, order := 0x0, imm := 0x193806 } }),
    (0x090000F8, none, .hfree { s := false, u := false, d := 0x00, a := 0x000, base := 0x1f, w := 0x0, ext := none }),
    (0x8A00C048, none, .hpass { s := true, u := false, d := 0x00, a := 0x060, base := 0x09, w := 0x0, ext := none }),
    (0x8BD401F8, some 0x10000000,
      .hclaim { s := true, u := false, d := 0x35, a := 0x000, base := 0x3f, w := 0x0, ext := some { gp := 0x0, gi := true, scope := 0x0, order := 0x0, imm := 0x000000 } }),
    (0x8CE00131, none, .hinfo { s := true, u := false, d := 0x38, a := 0x000, base := 0x26, w := 0x1, ext := none }),
    (0x8DFC0150, none, .fmask { s := true, u := false, d := 0x3f, a := 0x000, base := 0x2a, w := 0x0, ext := none }),
    (0x0E01B800, some 0x90000000,
      .fmclr { s := false, u := false, d := 0x00, a := 0x0dc, base := 0x00, w := 0x0, ext := some { gp := 0x4, gi := true, scope := 0x0, order := 0x0, imm := 0x000000 } }),
    (0x1000BA00, some 0x90000000,
      .qpush { s := false, u := false, d := 0x00, a := 0x05d, base := 0x00, w := 0x0, ext := some { gp := 0x4, gi := true, scope := 0x0, order := 0x0, imm := 0x000000 } }),
    (0x11040018, some 0x10000000,
      .qpop { s := false, u := false, d := 0x01, a := 0x000, base := 0x03, w := 0x0, ext := some { gp := 0x0, gi := true, scope := 0x0, order := 0x0, imm := 0x000000 } }),
    (0x11D07029, some 0xC0000000,
      .qpopSat { s := false, u := false, d := 0x34, a := 0x038, base := 0x05, w := 0x1, ext := some { gp := 0x6, gi := false, scope := 0x0, order := 0x0, imm := 0x000000 } })] = true := by decide +kernel
theorem test_loc_words_2 : reading .loc [
    (0x925C001A, none, .qlen { s := true, u := false, d := 0x17, a := 0x000, base := 0x03, w := 0x2, ext := none }),
    (0x94CA9C87, some 0xE2030A71,
      .sfill { s := true, u := false, base := 0x32, a := 0x14e, data := 0x087, ext := some { gp := 0x7, gi := false, scope := 0x2, order := 0x0, imm := 0x030a71 } })] = true := by decide +kernel
theorem test_eng_words_1 : reading .eng [
    (0x00020160, none, .tidset { s := false, u := false, d := 0x00, a := 0x100, b := 0x160, ext := none }),
    (0x81FD9006, none, .tidget { s := true, u := false, d := 0x3f, a := 0x0c8, b := 0x006, ext := none }),
    (0x02018800, none, .tidinv { s := false, u := false, d := 0x00, a := 0x0c4, b := 0x000, ext := none }),
    (0x0336081C, some 0xE0000000,
      .tview { s := false, u := false, d := 0x0d, a := 0x104, b := 0x01c, ext := some { gp := 0x7, gi := false, c := 0x000, pa := 0x00, pb := 0x00, rm := 0x0, sat := false, sub := 0x0 } }),
    (0x8410B000, some 0x50000000,
      .emask { s := true, u := false, d := 0x04, a := 0x058, b := 0x000, ext := some { gp := 0x2, gi := true, c := 0x000, pa := 0x00, pb := 0x00, rm := 0x0, sat := false, sub := 0x0 } }),
    (0x040B9801, none, .emaskCnt { s := false, u := false, d := 0x02, a := 0x1cc, b := 0x001, ext := none }),
    (0x054234D9, some 0xE5382028,
      .mma { s := false, u := false, acc := 0x1, clr := false, ser := false, ta := 0x2, tb := 0x3, er := 0x2, ec := 0x3, gk := 0x19, ext := some { gp := 0x7, gi := false, scope := 0x5, af := 0x0, we := true, wpar := true, ae := true, wcl := 0x04, acl := 0x05, z := 0x0 } }),
    (0x06020104, some 0xE512000C,
      .drain { s := false, u := false, acc := 0x0, add := false, relu := false, td := 0x2, ta := 0x0, tb := 0x1, er := 0x0, ec := 0x1, z := 0x0, ext := some { gp := 0x7, gi := false, scope := 0x5, rm := 0x0, sat := true, we := false, wpar := false, ae := true, wcl := 0x00, acl := 0x06, z := false } }),
    (0x87008800, some 0xE0000000,
      .mcont { s := true, u := false, d := 0x00, a := 0x044, b := 0x000, ext := some { gp := 0x7, gi := false, c := 0x000, pa := 0x00, pb := 0x00, rm := 0x0, sat := false, sub := 0x0 } }),
    (0x87035801, none, .mcontDiscard { s := true, u := false, d := 0x00, a := 0x1ac, b := 0x001, ext := none }),
    (0x08D04000, none, .mzero { s := false, u := false, acc := 0x3, af := 0x1, er := 0x0, ec := 0x1, z := 0x0000, ext := none }),
    (0x8A68C800, some 0xE3000000,
      .cpy { s := true, u := false, d := 0x1a, a := 0x064, b := 0x000, ext := some { gp := 0x7, gi := false, scope := 0x3, ce := false, clasp := 0x00, mode := 0x0, z := 0x000 } }),
    (0x8B7BC000, none, .cpyp { s := true, u := false, d := 0x1e, a := 0x1e0, b := 0x000, ext := none }),
    (0x8C838800, some 0xE2F80000,
      .gath { s := true, u := false, d := 0x20, a := 0x1c4, b := 0x000, ext := some { gp := 0x7, gi := false, scope := 0x2, ce := true, clasp := 0xf0, mode := 0x0, z := 0x000 } }),
    (0x0D004800, some 0x03000000,
      .put { s := false, u := false, d := 0x00, a := 0x024, b := 0x000, ext := some { gp := 0x0, gi := false, scope := 0x3, ce := false, clasp := 0x00, mode := 0x0, z := 0x000 } }),
    (0x908CF020, none, .tlrd { s := true, u := false, d := 0x23, a := 0x078, b := 0x020, ext := none })] = true := by decide +kernel
theorem test_eng_words_2 : reading .eng [
    (0x91008800, some 0xE0000000,
      .tlsig { s := true, u := false, d := 0x00, a := 0x044, b := 0x000, ext := some { gp := 0x7, gi := false, scope := 0x0, order := 0x0, imm := 0x000000 } }),
    (0x1400E9F8, some 0xE0000000,
      .spawn { s := false, u := false, d := 0x00, a := 0x074, b := 0x1f8, ext := some { gp := 0x7, gi := false, c := 0x000, pa := 0x00, pb := 0x00, rm := 0x0, sat := false, sub := 0x0 } }),
    (0x9500C0D5, some 0x90000000,
      .emit { s := true, u := false, d := 0x00, a := 0x060, b := 0x0d5, ext := some { gp := 0x4, gi := true, c := 0x000, pa := 0x00, pb := 0x00, rm := 0x0, sat := false, sub := 0x0 } })] = true := by decide +kernel
theorem test_ctl_words_1 : reading .ctl [
    (0x00A9E8F8, none, .bra { s := false, u := false, sel := 0xa, inv := true, off := 0x1e8f8, ext := none }),
    (0x01C79863, none, .jmp { s := false, u := false, sel := 0xc, inv := false, off := 0x79863, ext := none }),
    (0x82DD5468, none, .call { s := true, u := false, sel := 0xd, inv := true, off := 0x55468, ext := none }),
    (0x0333C000, some 0xC0000000,
      .callr { s := false, u := false, d := 0x0c, a := 0x1e0, b := 0x000, ext := some { gp := 0x6, gi := false, c := 0x000, pa := 0x00, pb := 0x00, rm := 0x0, sat := false, sub := 0x0 } }),
    (0x041001EA, none, .callb { s := false, u := false, d := 0x04, a := 0x000, imm := 0x1ea, ext := none }),
    (0x05039000, none, .ret { s := false, u := false, d := 0x00, a := 0x1c8, b := 0x000, ext := none }),
    (0x0603E800, some 0x30000000,
      .jmpr { s := false, u := false, d := 0x00, a := 0x1f4, b := 0x000, ext := some { gp := 0x1, gi := true, c := 0x000, pa := 0x00, pb := 0x00, rm := 0x0, sat := false, sub := 0x0 } }),
    (0x870627E7, none, .jset { s := true, u := false, token := 0x06, off := 0x27e7, ext := none }),
    (0x08020000, none, .join { s := false, u := false, token := 0x02, off := 0x0000, ext := none }),
    (0x0A8AE01E, none, .cinit { s := false, u := false, d := 0x22, a := 0x170, imm := 0x01e, ext := none }),
    (0x0B3FC000, none, .arrive { s := false, u := false, d := 0x0f, a := 0x1e0, b := 0x000, ext := none }),
    (0x8CC33018, none, .expect { s := true, u := false, d := 0x30, a := 0x198, b := 0x018, ext := none }),
    (0x0D8A5000, none, .wclasp { s := false, u := false, d := 0x22, a := 0x128, imm := 0x000, ext := none }),
    (0x8E113024, none, .wtl { s := true, u := false, d := 0x04, a := 0x098, b := 0x024, ext := none }),
    (0x0F008048, some 0xE3000000,
      .nap { s := false, u := false, d := 0x00, a := 0x040, b := 0x048, ext := some { gp := 0x7, gi := false, scope := 0x3, order := 0x0, imm := 0x000000 } }),
    (0x90015800, none, .wjoin { s := true, u := false, d := 0x00, a := 0x0ac, b := 0x000, ext := none })] = true := by decide +kernel
theorem test_ctl_words_2 : reading .ctl [
    (0x91000000, none, .yield { s := true, u := false, d := 0x00, a := 0x000, b := 0x000, ext := none }),
    (0x92000000, none, .exit { s := true, u := false, d := 0x00, a := 0x000, b := 0x000, ext := none }),
    (0x949BF0E0, none, .suspend { s := true, u := false, d := 0x26, a := 0x1f8, b := 0x0e0, ext := none }),
    (0x95036000, some 0xE0000000,
      .resume { s := true, u := false, d := 0x00, a := 0x1b0, b := 0x000, ext := some { gp := 0x7, gi := false, c := 0x000, pa := 0x00, pb := 0x00, rm := 0x0, sat := false, sub := 0x0 } }),
    (0x1626D054, some 0xC0000000,
      .lkcopy { s := false, u := false, d := 0x09, a := 0x168, b := 0x054, ext := some { gp := 0x6, gi := false, c := 0x000, pa := 0x00, pb := 0x00, rm := 0x0, sat := false, sub := 0x0 } }),
    (0x97030000, none, .lkdrop { s := true, u := false, d := 0x00, a := 0x180, b := 0x000, ext := none }),
    (0x18018860, some 0xE0000000,
      .rqpush { s := false, u := false, d := 0x00, a := 0x0c4, b := 0x060, ext := some { gp := 0x7, gi := false, c := 0x000, pa := 0x00, pb := 0x00, rm := 0x0, sat := false, sub := 0x0 } }),
    (0x9A000000, some 0xE0000000,
      .lower { s := true, u := false, d := 0x00, a := 0x000, imm := 0x000, ext := some { gp := 0x7, gi := false, imm := 0x0000000 } }),
    (0x1B021800, some 0x20000000,
      .cancel { s := false, u := false, d := 0x00, a := 0x10c, b := 0x000, ext := some { gp := 0x1, gi := false, c := 0x000, pa := 0x00, pb := 0x00, rm := 0x0, sat := false, sub := 0x0 } }),
    (0x1C000000, none, .nop { s := false, u := false, d := 0x00, a := 0x000, b := 0x000, ext := none })] = true := by decide +kernel
theorem test_sys_words : reading .sys [
    (0x80000042, none, .trap { s := true, u := false, d := 0x00, a := 0x000, imm := 0x042, ext := none }),
    (0x01000000, none, .rfe { s := false, u := false, d := 0x00, a := 0x000, b := 0x000, ext := none }),
    (0x82F80003, none, .csrr { s := true, u := false, d := 0x3e, a := 0x000, imm := 0x003, ext := none }),
    (0x83036803, none, .csrw { s := true, u := false, d := 0x00, a := 0x1b4, imm := 0x003, ext := none }),
    (0x04600000, none, .ctc { s := false, u := false, d := 0x18, a := 0x000, b := 0x000, ext := none }),
    (0x85000004, none, .icsync { s := true, u := false, d := 0x00, a := 0x000, imm := 0x004, ext := none }),
    (0x06000056, none, .brk { s := false, u := false, d := 0x00, a := 0x000, imm := 0x056, ext := none }),
    (0x08022800, some 0xA0000000,
      .pgmap { s := false, u := false, d := 0x00, a := 0x114, b := 0x000, ext := some { gp := 0x5, gi := false, c := 0x000, pa := 0x00, pb := 0x00, rm := 0x0, sat := false, sub := 0x0 } }),
    (0x8903D1DC, none, .pginv { s := true, u := false, d := 0x00, a := 0x1e8, b := 0x1dc, ext := none }),
    (0x8A039000, some 0xE0000000,
      .accsv { s := true, u := false, d := 0x00, a := 0x1c8, b := 0x000, ext := some { gp := 0x7, gi := false, c := 0x000, pa := 0x00, pb := 0x00, rm := 0x0, sat := false, sub := 0x0 } }),
    (0x8B039800, none, .accld { s := true, u := false, d := 0x00, a := 0x1cc, b := 0x000, ext := none })] = true := by decide +kernel

/-! ## Ill-formed words (R54) -/

/-- OP 25 of CTL is not assigned. -/
theorem test_unassigned : refusedAs .ctl 0x19000000 none = 1 := by decide
/-- `resume` with U = 1. -/
theorem test_u_form : refusedAs .ctl 0x55145030 none = 3 := by decide
/-- A short `fence`, and a short `mad` with a field that must be 0. -/
theorem test_long_only : refusedAs .mem 0x14000000 none = 4 ∧ refusedAs .alu 0x051C1010 none = 4 := by decide
/-- A long `fence.rlx`. -/
theorem test_reserved_code : refusedAs .mem 0x14000000 (some 0xE7000000) = 5 := by decide
/-- A pattern on an operand of a U = 1 form. -/
theorem test_pattern_u : refusedAs .alu 0x41145031 none = 6 := by decide
/-- A guard with gp = 7 and gi = 1. -/
theorem test_nonzero : refusedAs .alu 0x0114643C (some 0xF0002000) = 7 := by decide
/-- `ld.b64 v9.w`. -/
theorem test_reg_align : refusedAs .mem 0x0024100D none = 8 := by decide
/-- A term for each check that WellFormed refuses. -/
theorem test_ill_formed :
    ¬ (Instr.mov { s := false, u := false, d := 0, a := 0, b := 8, ext := none }).WellFormed ∧
    ¬ (Instr.join { s := false, u := false, token := 16, off := 0, ext := none }).WellFormed ∧
    ¬ (Instr.perm { s := false, u := true, d := 0, a := 0, b := 0, ext := none }).WellFormed := by decide

end Sys2Proof.Tests
end

