-- ==== Sys2Proof/Tests/Witnesses.lean ====
section
/-!
SUPPORT. Concrete states and operands that meet the hypotheses of the statements, clause by clause, and single steps with the
results that the spec gives.
-/
open Sys2Proof Sys2Proof.Machine Sys2Proof.Safety Sys2Proof.Claims

namespace Sys2Proof.Tests
set_option Elab.async false

/-! ## States -/

/-- Every register mapped and live: lane l of vn holds 4 n + 64 l, and gn holds 64 n. -/
def full (g : Group) : Group :=
  { g with
    v := (List.range 64).map fun n => some { val := (List.range 32).map fun l => BitVec.ofNat 32 (4 * n + 64 * l), dead := 0 }
    g := none :: (List.range 63).map fun n => some (BitVec.ofNat 64 (64 * (n + 1))) }
/-- A package about to issue, whose group has a role and every register; `f` changes the group. -/
def base (role : Nat) (f : Group → Group := id) : State :=
  let s := State.reset.aboutToIssue .ctl 0x1C000000 none
  { s with
    cur := some { ref := { blk := 0, grp := 0, slot := 0 }, words := { hdr := 0xA200001F, iw0 := 0x1C000000 } }
    blocks := s.blocks.map fun b => { b with id := 0, groups := b.groups.map fun g => f { full g with role := role } } }
/-- The same, with a change of the block, the context and the state. -/
def baseB (role : Nat) (h : Block → Block) (k : Ctx → Ctx := id) : State :=
  let s := base role
  { s with blocks := s.blocks.map h, ctxs := s.ctxs.map k }

/-- A state's issuing path meets what a statement asks of it. -/
theorem meets {s : State} {P : Cur → Prop} [d : ∀ c, Decidable (P c)]
    (h : (match s.cursor with | some c => decide (P c) | none => false) = true) : ∃ c, s.cursor = some c ∧ P c := by
  cases hc : s.cursor with
  | none => rw [hc] at h; cases h
  | some c => rw [hc] at h; exact ⟨c, rfl, of_decide_eq_true h⟩
/-- The path issues with these registers and operands, and finds nv vector and ng group registers. -/
def can (s : State) (c : Cur) (role : Option Nat) (uses srcs : List Src) (mask : Cur → Mask) (nv ng : Nat) : Bool :=
  decide (Issues s c role uses srcs mask ∧ Room s c (mask c) srcs nv ng)

/-- A V3 word: d 6, A v8, B v10, C v12, the last with L. -/
def v3 (u : Bool) (sub : Nat := 0) (rm : Nat := 0) : V3 :=
  { s := true, u := u, d := 6, a := 64, b := 80,
    ext := some { gp := 7, gi := false, c := 100, pa := 0, pb := 0, rm := BitVec.ofNat 3 rm, sat := false, sub := BitVec.ofNat 3 sub } }

/-- A VI word: d 6, A v8; a compare word of v8 and v10; its immediate form; a `plog` word. -/
def vi (u : Bool) (imm : Int := 3) : VI :=
  { s := true, u := u, d := 6, a := 64, imm := 0, ext := some { gp := 7, gi := false, imm := BitVec.ofInt 28 imm } }
def cmpW (u : Bool) (typ : Nat) (cond : Nat := 5) : Cmp :=
  { s := true, u := u, pd1 := 1, pd2 := 7, a := 64, b := 80,
    ext := some { gp := 7, gi := false, ct := 5, cond := BitVec.ofNat 4 cond, typ := BitVec.ofNat 3 typ, pa := 0, pb := 0, z := 0 } }
def cmpiW (u : Bool) (typ : Nat) : Cmpi :=
  { s := true, u := u, pd1 := 1, pd2 := 7, a := 64, b := 0,
    ext := some { gp := 7, gi := false, ct := 5, cond := 5, typ := BitVec.ofNat 3 typ, imm := 0x20000 } }
def plogW (u : Bool) : Plog := { s := true, u := u, pd := 1, pa := 8, pb := 15, tt := 9, z := 0, ext := none }

/-- A group register takes a value. -/
def setG (n v : Nat) (g : Group) : Group := { g with g := g.g.set n (some (BitVec.ofNat 64 v)) }
/-- A class MEM or LOC word: d 16, A v8, base g1; a store of v16; an atomic of v16 with v24. -/
def mW (u : Bool) (w : Nat) (imm : Int := 0) (d : Nat := 16) : M :=
  { s := true, u := u, d := BitVec.ofNat 6 d, a := 64, base := 1, w := BitVec.ofNat 3 w,
    ext := some { gp := 7, gi := false, scope := 3, order := 0, imm := BitVec.ofInt 21 imm } }
def msW (u : Bool) (imm : Int := 0) : MS :=
  { s := true, u := u, base := 1, a := 64, data := 128,
    ext := some { gp := 7, gi := false, scope := 3, order := 0, imm := BitVec.ofInt 21 imm } }
def atW (u : Bool) (w typ : Nat) : At :=
  { s := true, u := u, d := 16, a := 64, base := 1, w := BitVec.ofNat 3 w,
    ext := some { gp := 7, gi := false, scope := 3, order := 0, data := 128, cmp := 192, typ := BitVec.ofNat 3 typ } }
/-- Every lane passes the checks of R157. -/
def passes (s : State) (c : Cur) (u : Bool) (e : Mask) (addr : Nat → Nat) (n : Nat) (a : Acs) (scope : Nat) : Bool :=
  (s.checkLanes c addr n a scope (accessors u e)).1.1.isEmpty
/-- What a statement asks as `Reaches` then holds of the result. -/
theorem passes_reaches {s : State} {c : Cur} {u : Bool} {e : Mask} {addr : Nat → Nat} {n : Nat} {a : Acs} {scope : Nat}
    (h : passes s c u e addr n a scope = true) : ∃ x, Reaches s c u e addr n a scope x := by
  refine ⟨((s.checkLanes c addr n a scope (accessors u e)).1.2, (s.checkLanes c addr n a scope (accessors u e)).2), ?_⟩
  unfold passes at h
  rw [List.isEmpty_iff] at h
  unfold Reaches
  rw [← h]


/-- A path whose g8 is `a` and g9 is `b`, with bytes in memory. -/
def twoG (a b : Nat) (ws : List (Nat × List Nat)) (role : Nat := 0) : State :=
  let s := base role fun g => setG 8 a (setG 9 b g)
  { s with mem := ws.foldl (fun m w => Memory.writeN m w.1 (w.2.map (BitVec.ofNat 8))) s.mem }

/-- A tenant within whose budgets the package stays, whatever its traffic and its power are. -/
def budgetS (s : State) : State :=
  { s with tenants := [{ num := 0, cores := 3584, bw := Config.traffic 0 s.ct + 1, power := Config.power 0 s.ct + 1 }] }
/-- What a core asks of an item, its tenant's budgets aside. -/
def fitsHere (s : State) (i : Item) (die core : Nat) : Bool := match s.ctx? i.ctx, s.kernel? i.kobj with
  | some c, some k =>
    let used := ((s.blocks.filter fun b => (s.ctx? b.ctx).any (·.tenant == 0)).map fun b => (b.groups.filter (·.isResident)).length).sum
    c.tenant == 0 && decide (used + (i.shape k).1 ≤ 3584) && (i.queued && c.st == .running && !(s.itemClass i == 0 && s.evtAway i.ctx) &&
      (s.freeRecord c).isSome) && i.hdie.all (· == die) &&
      s.coreFits die core k (i.shape k).1 (i.own == 2) (i.shape k).2 k.scratch 0 i.holds.1 i.holds.2 && s.hqFree die core i.hqEn i.launchNo &&
      s.pkg.cores.contains (die, core) && s.mayTake i (die, core)
  | _, _ => false
/-- A core that the item fits may place its next block. -/
theorem may_place {s : State} {i : Item} {die core : Nat} (h : fitsHere (budgetS s) i die core = true) :
    (die, core) ∈ (budgetS s).coresFor i := by
  unfold fitsHere at h
  split at h
  · rename_i c k hc hk
    simp only [Bool.and_eq_true, beq_iff_eq, decide_eq_true_eq, List.contains_iff_mem] at h
    obtain ⟨⟨⟨⟨⟨⟨⟨ht, hu⟩, hm⟩, hd⟩, hf⟩, hq⟩, hp⟩, hn⟩ := h
    refine List.mem_filter.2 ⟨hp, ?_⟩
    have hb : (budgetS s).budgetOk 0 (i.shape k).1 = true := by
      simp only [State.budgetOk]
      show (decide _ && decide (Config.traffic 0 s.ct < Config.traffic 0 s.ct + 1) && decide (Config.power 0 s.ct < Config.power 0 s.ct + 1)) = true
      simp only [Nat.lt_add_one, decide_true, Bool.and_true, decide_eq_true_eq]
      exact hu
    simp only [hn, State.admits, hc, hk, State.mayPlace, ht, hb, hm, hd, hf, hq, Bool.true_or]
    rfl
  · cases h
/-! ## Class ALU -/

theorem witness_integer_ops : ∃ c, (base 0).cursor = some c ∧ ∀ p ∈ intOps ++ logicOps ++ fieldOps, ∀ u ∈ [false, true],
    can (base 0) c none ((v3 u).srcs 1 p.nb p.nc ++ [(v3 u).dst 1]) ((v3 u).srcs 1 p.nb p.nc) (v3 u).mask (needV u 1) (needG u 6) :=
  meets (by decide +kernel)
theorem witness_integer_forms :
    (Instr.abs { v3 false with ext := some { gp := 7, gi := false, c := 0, pa := 0, pb := 0, rm := 0, sat := true, sub := 0 }, b := 0 }).WellFormed ∧
    (Instr.lea { v3 true 7 with ext := some { gp := 7, gi := false, c := 0, pa := 0, pb := 0, rm := 0, sat := false, sub := 7 } }).WellFormed ∧
    (Instr.popc { v3 false with b := 0, ext := none }).WellFormed ∧ (Instr.bfx { v3 false 1 with b := 0 }).WellFormed ∧
    (Instr.prmt (v3 true)).WellFormed ∧ (Instr.movi { vi false with a := 0 }).WellFormed ∧ (Instr.sari (vi true 63)).WellFormed := by
  decide
theorem witness_wide_ops : ∃ c, (base 0).cursor = some c ∧ ∀ p ∈ wideOps,
    can (base 0) c none ((v3 false).srcs p.na p.nb 0 ++ [(v3 false).dst 2]) ((v3 false).srcs p.na p.nb 0) (v3 false).mask 2 0 :=
  meets (by decide +kernel)
theorem witness_immediates : ∃ c, (base 0).cursor = some c ∧ ∀ p ∈ immOps, ∀ u ∈ [false, true],
    let srcs := if p.reads then [usrc u (vi u).a (paramShort (vi u).a) 1 1] else []
    can (base 0) c none (srcs ++ [{ grp := u, num := 6 }]) srcs (fun c => c.mask u (vi u).gp (vi u).gi) (needV u 1) (needG u 6) :=
  meets (by decide +kernel)
theorem witness_compares : ∃ c, (base 0).cursor = some c ∧ ∀ u ∈ [false, true], ∀ typ ∈ [0, 1, 2, 3, 4],
    let f := cmpW u typ
    let n := cmpRegs f.x.typ
    let a := usrc u f.a f.x.pa n 1
    let b := usrc u f.b f.x.pb n 2
    f.x.cond.toNat ≤ 5 ∧ can (base 0) c none [a, b] [a, b] (·.p.mask) 0 0 ∧
      (cmpiW u typ).x.cond.toNat ≤ 5 ∧ can (base 0) c none [a] [a] (·.p.mask) 0 0 := meets (by decide +kernel)
theorem witness_transfers : ∃ c, (base 0).cursor = some c ∧ ∀ u ∈ [false, true],
    can (base 0) c none [] [] (fun (c : Cur) => c.mask u (plogW u).x.gp (plogW u).x.gi) 0 0 ∧
    can (base 0) c none ((v3 u).srcs 1 0 0) ((v3 u).srcs 1 0 0) (v3 u).mask 0 0 ∧ (v3 u 2).x.sub.toNat ≤ 2 ∧
    can (base 0) c none [] [] (v3 u 2).mask 0 0 ∧
    can (base 0) c none [(v3 u).dst 1] [] (v3 u).mask (needV u 1) (needG u 6) := meets (by decide +kernel)
theorem witness_sel_and_perm : ∃ c, (base 0).cursor = some c ∧
    (∀ u ∈ [false, true], can (base 0) c none ((v3 u).srcs 1 1 0 ++ [(v3 u).dst 1]) ((v3 u).srcs 1 1 0) (·.p.mask) (needV u 1) (needG u 6)) ∧
    ∀ pa ∈ [0, 1, 7],
      let f := { v3 false with ext := some { gp := 7, gi := false, c := 100, pa := pa, pb := 0, rm := 0, sat := false, sub := 0 } }
      let srcs := [{ f.srcA 1 with map := (List.range 32).map fun l => (f.srcA 1).lane (c.g.read (f.srcB 1) l % 32) }, f.srcB 1]
      can (base 0) c none (srcs ++ [f.dst 1]) srcs f.mask 1 0 := meets (by decide +kernel)
theorem witness_rdlane_and_wrlane : ∃ c, (base 0).cursor = some c ∧
    (let f := v3 true
     let a : Src := { grp := false, num := opReg f.a, l := opL f.a, field := 1, map := List.replicate 32 (c.g.gval (opReg f.b) % 32) }
     can (base 0) c none [a, f.srcB 1, f.dst 1] [a, f.srcB 1] f.mask 0 (needG true f.d)) ∧
    (let f := v3 false
     can (base 0) c none [gsrc f.a 1 1, gsrc f.b 1 2, f.dst 1] [gsrc f.a 1 1, gsrc f.b 1 2] f.mask 1 0) := meets (by decide +kernel)
theorem witness_reductions : ∃ c, (base 0).cursor = some c ∧ ∀ u ∈ [false, true], ∀ sub ∈ [0, 5, 6],
    let f := v3 u sub
    let srcs := [vsrc f.a f.x.pa 1 1]
    can (base 0) c none (srcs ++ [f.dst 1]) srcs f.mask (needV u 1) (needG u f.d) := meets (by decide +kernel)
/-- v8 holds indexes up to 63; the kernel has 64 registers, or in the second state 32. -/
theorem witness_indirection :
    (∃ c, (base 0).cursor = some c ∧
      let f := v3 false
      let e := f.mask c
      let ix := fun l => c.g.read (f.srcA 1) l % 64
      can (base 0) c none (f.srcs 1 0 0 ++ [f.dst 1]) (f.srcs 1 0 0) f.mask 1 0 ∧
      (∀ l ∈ lanesOf e, ix l < c.k.vregs ∧ (c.g.lane? (ix l) l).isSome = true) ∧
      can (base 0) c none (f.srcs 1 1 0) (f.srcs 1 1 0) f.mask ((List.range 64).filter fun n => (lanesOf e).any fun l => ix l == n).length 0) ∧
    let s := { base 0 with kernels := (base 0).kernels.map fun k => { k with vregs := 32 } }
    ∃ c, s.cursor = some c ∧
      let f := v3 false
      can s c none (f.srcs 1 0 0 ++ [f.dst 1]) (f.srcs 1 0 0) f.mask 0 0 ∧ can s c none (f.srcs 1 1 0) (f.srcs 1 1 0) f.mask 0 0 ∧
      lanesWhere (fun l => (f.mask c).getLsbD l && decide (c.k.vregs ≤ c.g.read (f.srcA 1) l % 64)) ≠ 0 :=
  ⟨meets (by decide +kernel), meets (by decide +kernel)⟩
theorem witness_newer : ∃ c, (base 0).cursor = some c ∧ can (base 0) c none [] [] (·.p.mask) 0 0 := meets (by decide +kernel)

/-! ## Class FLT -/

theorem witness_elementwise : ∃ c, (base 0).cursor = some c ∧ ∀ p ∈ fltOps, ∀ u ∈ [false, true], ∀ sub ∈ [0, 1, 3],
    let f := v3 u sub
    let n := fltRegs f.fmt
    let srcs := f.srcs n (if p.useB then n else 0) (if p.useC then n else 0) ++ f.srSrc
    can (base 0) c none (srcs ++ [f.dst n]) srcs f.mask (needV u n) (needG u 6) := meets (by decide +kernel)
/-- The stochastic rounding mode, whose bits v12 or the hardware sequence gives. -/
theorem witness_stochastic : ∃ c, (base 0).cursor = some c ∧ ∀ u ∈ [false, true],
    let f := v3 u 0 5
    let srcs := f.srcs 1 1 0 ++ f.srSrc
    can (base 0) c none (srcs ++ [f.dst 1]) srcs f.mask (needV u 1) (needG u 6) := meets (by decide +kernel)
theorem witness_special : ∃ c, (base 0).cursor = some c ∧ ∀ u ∈ [false, true], ∀ sub ∈ [0, 2],
    let f := v3 u sub
    let srcs := f.srcs (fltRegs f.fmt) 0 0 ++ f.srSrc
    can (base 0) c none (srcs ++ [f.dst (fltRegs f.fmt)]) srcs f.mask (needV u (fltRegs f.fmt)) (needG u 6) := meets (by decide +kernel)
/-- `fcvt` from and to the wide formats, `f2i`, `i2f`, and the packed byte formats. -/
theorem witness_conversions : ∃ c, (base 0).cursor = some c ∧ (∀ u ∈ [false, true], ∀ sub ∈ [0, 1, 2], ∀ other ∈ [0, 1, 2, 3],
    let f := { v3 u sub with b := BitVec.ofNat 9 other }
    let n := fltRegs f.fmt
    let k := fltRegs (otherCode f)
    let w := if typeW f = 64 then 2 else 1
    can (base 0) c none (f.srcs n 0 0 ++ f.srSrc ++ [f.dst k]) (f.srcs n 0 0 ++ f.srSrc) f.mask (needV u k) (needG u 6) ∧
    can (base 0) c none (f.srcs n 0 0 ++ f.srSrc ++ [f.dst w]) (f.srcs n 0 0 ++ f.srSrc) f.mask (needV u w) (needG u 6) ∧
    can (base 0) c none (f.srcs w 0 0 ++ f.srSrc ++ [f.dst n]) (f.srcs w 0 0 ++ f.srSrc) f.mask (needV u n) (needG u 6)) :=
  meets (by decide +kernel)
theorem witness_packed_bytes : ∃ c, (base 0).cursor = some c ∧ ∀ rm ∈ [0, 5],
    let f := v3 false 0 rm
    can (base 0) c none (f.srcs 1 0 0 ++ f.srSrc ++ [f.dst 1]) (f.srcs 1 0 0 ++ f.srSrc) f.mask 1 0 ∧
    can (base 0) c none (f.srcs 1 0 0 ++ [f.dst 1]) (f.srcs 1 0 0) f.mask 1 0 := meets (by decide +kernel)
theorem witness_scale_and_class : ∃ c, (base 0).cursor = some c ∧ ∀ u ∈ [false, true], ∀ sub ∈ [0, 1, 3],
    let f := v3 u sub
    let n := fltRegs f.fmt
    can (base 0) c none (f.srcs n 1 0 ++ f.srSrc ++ [f.dst n]) (f.srcs n 1 0 ++ f.srSrc) f.mask (needV u n) (needG u 6) ∧
    can (base 0) c none (f.srcs n 0 0 ++ [f.dst 1]) (f.srcs n 0 0) f.mask (needV u 1) (needG u 6) := meets (by decide +kernel)
theorem witness_dots_and_fcmp : ∃ c, (base 0).cursor = some c ∧
    can (base 0) c none ((v3 false 2).srcs 1 1 1 ++ [(v3 false 2).dst 1]) ((v3 false 2).srcs 1 1 1) (v3 false 2).mask 1 0 ∧
    ∀ u ∈ [false, true], ∀ typ ∈ [0, 1, 2, 3],
      let f := cmpW u typ 13
      let n := if f.x.typ.toNat = 1 then 2 else 1
      let ops := [usrc u f.a f.x.pa n 1, usrc u f.b f.x.pb n 2]
      f.x.cond.toNat ≤ 13 ∧ can (base 0) c none ops ops (·.p.mask) 0 0 := meets (by decide +kernel)
theorem witness_formats : 0x7C00 < 2 ^ Num.f16.w ∧ 2 ^ 64 - 1 < 2 ^ Num.f64.w := by decide

/-! ## Classes MEM and LOC -/

theorem witness_loads : ∃ c, (base 0).cursor = some c ∧ ∀ u ∈ [false, true], ∀ w ∈ [0, 4, 5, 7],
    let f := mW u w
    let a := usrc u f.a (paramShort f.a) 1 1
    let n := if u then 1 else wRegs f.w
    can (base 0) c none ([a, gfld f.base] ++ [{ grp := u, num := 16, n := n }]) [a, gfld f.base]
      (fun c => c.mask u f.x.gp f.x.gi) (needV u n) (needG u 16) ∧
    passes (base 0) c u allLanes (addrOf c f.base a f.x.imm.toInt) (widthOf f.w.toNat) .read f.x.scope.toNat :=
  meets (by decide +kernel)
theorem witness_stores : ∃ c, (base 0).cursor = some c ∧ ∀ u ∈ [false, true], ∀ n ∈ [1, 32],
    let f := msW u
    let a := usrc u f.a (paramShort f.a) 1 1
    let srcs := [a, usrc u f.data (paramShort f.data) (dataRegs n) 4, gfld f.base]
    can (base 0) c none srcs srcs (fun c => c.mask u f.x.gp f.x.gi) 0 0 ∧
    passes (base 0) c u allLanes (addrOf c f.base a f.x.imm.toInt) n .write f.x.scope.toNat := meets (by decide +kernel)
theorem witness_atomics : ∃ c, (base 0).cursor = some c ∧ ∀ u ∈ [false, true], ∀ w ∈ [4, 5],
    let f := atW u w 0
    let a := usrc u f.a (paramShort f.a) 1 1
    let n := if u then 1 else wRegs f.w
    let srcs := [a, usrc u f.x.data (paramShort f.x.data) n 4, gfld f.base, usrc u f.x.cmp (paramShort f.x.cmp) n 4]
    can (base 0) c none (srcs ++ [{ grp := u, num := 16, n := n }]) srcs (fun c => c.mask u f.x.gp f.x.gi) (needV u n) (needG u 16) ∧
    passes (base 0) c u allLanes (addrOf c f.base a 0) (widthOf f.w.toNat) .both f.x.scope.toNat := meets (by decide +kernel)
theorem witness_fences : ∃ c, (base 0).cursor = some c ∧
    let f := mW false 0
    can (base 0) c none [] [] (fun c => c.maskP f.x.gp f.x.gi) 0 0 ∧
    can (base 0) c none [vsrc f.a (paramShort f.a) 1 1, gfld f.base] [vsrc f.a (paramShort f.a) 1 1, gfld f.base]
      (fun c => c.maskP f.x.gp f.x.gi) 0 0 := meets (by decide +kernel)
/-- An address is at 2^57, or is no multiple of 16. -/
theorem witness_lane_faults : (2 ^ 57 ≤ 2 ^ 57 ∧ 8 < 2 ^ 57 ∧ 8 % (if 32 = 32 then 16 else 32) ≠ 0) ∧
    ∃ c, (base 0).cursor = some c ∧ ∃ m ∈ (base 0).checkLane c (2 ^ 57) 4 .read 3 |>.1.getLeft?, m.cause = 9 :=
  ⟨by decide, meets (by decide +kernel)⟩
/-- Every lane of a load, of a store of every width but one byte, and of an atomic is misaligned at an odd base. -/
def oddS : State := base 0 (setG 1 65)
theorem witness_access_faults : ∃ c, oddS.cursor = some c ∧ ∀ u ∈ [false, true],
    (let f := mW u 4
     let a := usrc u f.a (paramShort f.a) 1 1
     can oddS c none ([a, gfld f.base] ++ [{ grp := u, num := 16, n := if u then 1 else wRegs f.w }]) [a, gfld f.base]
       (fun c => c.mask u f.x.gp f.x.gi) 0 0 ∧
     !passes oddS c u (c.mask u f.x.gp f.x.gi) (addrOf c f.base a f.x.imm.toInt) (widthOf f.w.toNat) .read f.x.scope.toNat) ∧
    (∀ n ∈ [2, 4, 8, 16, 32], let f := msW u
     let a := usrc u f.a (paramShort f.a) 1 1
     let srcs := [a, usrc u f.data (paramShort f.data) (dataRegs n) 4, gfld f.base]
     can oddS c none srcs srcs (fun c => c.mask u f.x.gp f.x.gi) 0 0 ∧
     !passes oddS c u (c.mask u f.x.gp f.x.gi) (addrOf c f.base a f.x.imm.toInt) n .write f.x.scope.toNat) ∧
    ∀ w ∈ [4, 5], let f := atW u w 0
     let a := usrc u f.a (paramShort f.a) 1 1
     let n := if u then 1 else wRegs f.w
     let srcs := [a, usrc u f.x.data (paramShort f.x.data) n 4, gfld f.base, usrc u f.x.cmp (paramShort f.x.cmp) n 4]
     can oddS c none (srcs ++ [{ grp := u, num := 16, n := n }]) srcs (fun c => c.mask u f.x.gp f.x.gi) 0 0 ∧
     !passes oddS c u (c.mask u f.x.gp f.x.gi) (addrOf c f.base a 0) (widthOf f.w.toNat) .both f.x.scope.toNat :=
  meets (by decide +kernel)
/-- A store of one byte has no alignment; at 2^57 - 2^57 + 2^57 it is beyond the address space. -/
theorem witness_byte_store_fault : ∃ c, (base 0 (setG 1 (2 ^ 57))).cursor = some c ∧ ∀ u ∈ [false, true],
    !passes (base 0 (setG 1 (2 ^ 57))) c u (c.mask u (msW u).x.gp (msW u).x.gi)
      (addrOf c (msW u).base (usrc u (msW u).a (paramShort (msW u).a) 1 1) (msW u).x.imm.toInt) 1 .write (msW u).x.scope.toNat :=
  meets (by decide +kernel)
/-- Addresses that the page tables map to the domain aperture: a load, a store and an atomic ask another package. -/
def farS : State :=
  let s := base 0 (setG 1 (2 ^ 34))
  { s with mem := (List.range 16).foldl (fun m i => Memory.writeN m (progTable + 8192 + 128 + 8 * i) (leBytes 8 (2 ^ 51 + progLeaf))) s.mem }
theorem witness_far_accesses : ∃ c, farS.cursor = some c ∧ ∀ a ∈ [Acs.read, .write, .both],
    let f := mW false 4
    let r := farS.checkLanes c (addrOf c f.base (usrc false f.a (paramShort f.a) 1 1) 0) 4 a 9 (accessors false allLanes)
    r.1.1.isEmpty && !(r.2.apParts (fun _ => {}) r.1.2).isEmpty := meets (by decide +kernel)
/-- A region of HBM with no migration, a byte below the bytes written and one in another granule, and a CXL port that is down. -/
theorem witness_bytes : MemOk State.reset ∧ State.reset.migs = [] ∧ State.reset.cxlIsDown 0x20 = false ∧ State.reset.cxlIsDown 0 = false ∧ (0x1F < 0x20 ∧ 0x20 + 8 ≤ 0x40) ∧
    (0x20 + 8 - 1) / 64 < 0x40 / 64 ∧ State.reset.granuleKey 0x1F = none ∧
    { State.reset with cxlDown := [0] }.cxlIsDown (2 ^ 48) = true := by decide +kernel

/-- A buffer of 4,096 bytes, whose handle g1 holds, two queues that the block's launch configured, and the holder's number in g8. -/
def bufG (g : Group) : Group := setG 1 65600 (setG 8 0 g)
def theBuf : Buf :=
  { die := 0, slice := 0, index := 1, gen := 64, st := .held, size := 4096, valid := List.range 64 }
def scratch (owner : Nat := 0) : State :=
  { base 0 bufG with bufs := [{ theBuf with holder := owner }], hqs := [{ die := 0, core := 0, num := 1, launch := 0, cls := 1, ents := [7, 8, 9] }]
                     blocks := (base 0 bufG).blocks.map fun b => { b with hqLaunch := 0, core := 0, die := 0, bslot := 0, bgen := 0 } }

theorem witness_scratch_loads : ∃ c, (scratch).cursor = some c ∧ ∀ u ∈ [false, true], ∀ w ∈ [0, 5],
    let f := mW u w
    let a := usrc u f.a (paramShort f.a) 1 1
    let n := widthOf f.w.toNat
    let regs := if u then 1 else wRegs f.w
    can scratch c none ([a, gfld f.base] ++ [{ grp := u, num := 16, n := regs }]) [a, gfld f.base]
      (fun c => c.mask u f.x.gp f.x.gi) (needV u regs) (needG u 16) ∧
    scratch.handle c.b.die (c.g.gval f.base.toNat) = .buf theBuf ∧
    passing (scratch.laneKinds c u allLanes (c.g.gval f.base.toNat) (offOf c a f.x.imm.toInt) n n true) ≠ 0 := meets (by decide +kernel)
theorem witness_scratch_stores : ∃ c, (scratch).cursor = some c ∧ ∀ p ∈ scratchStores,
    let f := msW false
    let a := usrc false f.a (paramShort f.a) 1 1
    let srcs := [a, usrc false f.data (paramShort f.data) (if p.2.2 then 1 else dataRegs p.2.1) 4, gfld f.base]
    can scratch c none srcs srcs (fun c => c.mask false f.x.gp f.x.gi) 0 0 ∧
    scratch.handle c.b.die (c.g.gval f.base.toNat) = .buf theBuf ∧
    passing (scratch.laneKinds c false allLanes (c.g.gval f.base.toNat) (offOf c a (if p.2.2 then 32 else 0)) p.2.1 p.2.1 false) ≠ 0 :=
  meets (by decide +kernel)
theorem witness_scratch_atomics : ∃ c, (scratch).cursor = some c ∧ ∀ u ∈ [false, true], ∀ typ ∈ [0, 5],
    let f := atW u 5 typ
    let a := usrc u f.a (paramShort f.a) 1 1
    let regs := if u then 1 else wRegs f.w
    let srcs := [a, usrc u f.x.data (paramShort f.x.data) regs 4, gfld f.base] ++
      if typ = 5 then [usrc u f.x.cmp (paramShort f.x.cmp) regs 4] else []
    can scratch c none (srcs ++ [{ grp := u, num := 16, n := regs }]) srcs (fun c => c.mask u f.x.gp f.x.gi)
      (needV u regs) (needG u 16) ∧
    passing (scratch.laneKinds c u allLanes (c.g.gval f.base.toNat) (offOf c a 0) 8 8 true) ≠ 0 := meets (by decide +kernel)
theorem witness_switched_off : ∃ c, (scratch).cursor = some c ∧ c.g.exited ||| lanesWhere (fun l => [(31, 2)].any (·.1 == l)) ≠ allLanes ∧
    c.g.stack.all (fun x => x.mask &&& lanesWhere (fun l => [(31, 2)].any (·.1 == l)) == 0) = true ∧
    c.g.toks.all (fun t => t.parked &&& lanesWhere (fun l => [(31, 2)].any (·.1 == l)) == 0) = true := meets (by decide +kernel)
/-- The checks of an access of 4 bytes at the ends of the buffer, of whose granules the last is not written, and of another's. -/
def halfBuf : State := { scratch with bufs := [{ theBuf with valid := List.range 63 }] }
theorem witness_lane_kinds : ∃ c, halfBuf.cursor = some c ∧ halfBuf.handle c.b.die 65600 = .buf { theBuf with valid := List.range 63 } ∧
    halfBuf.handle c.b.die 0 = .bad ∧ halfBuf.handle c.b.die 65601 = .stale ∧
    ({ theBuf with valid := List.range 63 } : Buf).heldBy c.b = true ∧ ({ theBuf with holder := 1 } : Buf).heldBy c.b = false ∧
    (([(0, true), (4028, true), (4032, true), (4032, false), (4092, false), (4096, false), (-4, true), (2, true)] : List (Int × Bool)).map fun x =>
      halfBuf.laneKind c.b 65600 x.1 4 4 x.2) = [0, 0, 3, 0, 0, 2, 2, 6] := meets (by decide +kernel)
theorem witness_buffers : ∃ c, (scratch).cursor = some c ∧
    let f := mW false 0
    let a := gsrc f.a 1 1
    let mask := fun (c : Cur) => c.maskP f.x.gp f.x.gi
    can scratch c none [gfld f.base, gfld f.d] [gfld f.base] mask 0 (needG true f.d) ∧ can scratch c none [a] [a] mask 0 0 ∧
    can scratch c none [a, gfld f.d] [a] mask 0 (needG true f.d) ∧
    can scratch c none [gfld f.base, a] [a, gfld f.base] mask 0 0 ∧
    scratch.handle c.b.die (c.g.gval f.base.toNat) = .buf theBuf ∧ theBuf.heldBy c.b = true ∧
    scratch.holderBlock c.b.die (c.g.read a 0) = some (c.b, 0) := meets (by decide +kernel)
/-- A handle that names nothing, a stale one, a buffer of another block, and holders that are dead or of another context. -/
theorem witness_handle_faults : ∃ c, (scratch).cursor = some c ∧ scratch.handle c.b.die 0 = .bad ∧
    scratch.handle c.b.die 65601 = .stale ∧ theBuf.heldBy { c.b with id := 1 } = false ∧ scratch.holderBlock 0 (3 * 1024) = none :=
  meets (by decide +kernel)
/-- The same with a block of another context beside it. -/
def otherCtx : State := { scratch with blocks := scratch.blocks ++ scratch.blocks.map fun b => { b with id := 1, core := 1, ctx := 1 } }
theorem witness_other_context : (otherCtx.holderBlock 0 1).map (·.1.ctx) = some 1 := by decide +kernel

theorem witness_hardware_queues : ∃ c, (scratch).cursor = some c ∧
    let f := mW false 0 0
    let mask := fun (c : Cur) => c.maskP f.x.gp f.x.gi
    can scratch c none [vsrc f.a (paramShort f.a) 1 1] [vsrc f.a (paramShort f.a) 1 1] mask 0 0 ∧
    can scratch c none [{ grp := false, num := 16 }] [] mask 1 0 ∧ can scratch c none [gfld 16] [] mask 0 1 ∧
    (scratch.hq? c.b 1).isSome = true ∧ scratch.hq? c.b 7 = none := meets (by decide +kernel)

/-! ## Class ENG -/

/-- Tile views 2, 3 and 4 that are not empty. -/
def withViews (g : Group) : Group := { g with t := g.t.mapIdx fun i x => if i = 2 ∨ i = 3 ∨ i = 4 then 0x0001_0005 else x }
/-- A block with a matrix context whose ring is empty, or full. -/
def mtxS (tail : Nat := 0) : State :=
  let s := base 1 withViews
  { s with blocks := s.blocks.map fun b => { b with mtx := { b.mtx with present := true, tail := tail } } }
def idW : V3 := v3 false

theorem witness_identifiers : ∃ c, (base 1).cursor = some c ∧
    let f := idW
    let id := c.g.gval (opReg f.a)
    can (base 1) c (some 1) [f.ga, f.gb] [f.ga, f.gb] f.maskP 0 0 ∧ can (base 1) c (some 1) [f.ga, gfld f.d] [f.ga] f.maskP 0 1 ∧
    id < 4096 ∧ f.b.toNat / 8 % 9 < 9 ∧ passes (base 1) c true allLanes (fun _ => c.g.gval (opReg f.b)) 64 .read 7 ∧
    passes (base 1) c true allLanes (fun _ => entryOf c id) 64 .both 7 := meets (by decide +kernel)
theorem witness_identifier_range : ∃ c, (base 1 (setG 8 4096)).cursor = some c ∧
    can (base 1 (setG 8 4096)) c (some 1) [idW.ga, idW.gb] [idW.ga, idW.gb] idW.maskP 0 0 ∧ 4096 ≤ c.g.gval (opReg idW.a) :=
  meets (by decide +kernel)
theorem witness_identifier_ack :
    (({ base 1 with ctxs := [{ progCtx with tidPend := [(9, 0, 0, 0)] }] } : State).ctx? 0).map (·.tidPend.map (·.1)) = some [9] := by
  decide +kernel
/-- A name of ID 64, and one with a bit that must be 0. -/
theorem witness_views :
    (∃ c, (base 1).cursor = some c ∧ can (base 1) c (some 1) [idW.ga, idW.gb] [idW.ga, idW.gb] idW.maskP 0 0 ∧
      let n := c.g.gval (opReg idW.a)
      n / 2 ^ 12 % 2 ^ 4 = 0 ∧ n / 2 ^ 32 = 0) ∧
    ∃ c, (base 1 (setG 8 4096)).cursor = some c ∧ c.g.gval (opReg idW.a) / 2 ^ 12 % 2 ^ 4 ≠ 0 :=
  ⟨meets (by decide +kernel), meets (by decide +kernel)⟩
def mmaW (k : Nat) (wcl : Nat := 3) : Mma :=
  { s := true, u := false, acc := 1, clr := false, ser := false, ta := 2, tb := 3, er := 0, ec := 7, gk := BitVec.ofNat 6 k,
    ext := some { gp := 7, gi := false, scope := 3, af := 0, we := true, wpar := false, ae := true, wcl := BitVec.ofNat 8 wcl, acl := 0, z := 0 } }
def drainW : Drain :=
  { s := true, u := false, acc := 1, add := false, relu := false, td := 2, ta := 3, tb := 4, er := 0, ec := 7, z := 0,
    ext := some { gp := 7, gi := false, scope := 3, rm := 0, sat := false, we := false, wpar := false, ae := true, wcl := 0, acl := 4, z := false } }
def mzeroW : Mzero := { s := true, u := false, acc := 1, af := 0, er := 0, ec := 7, z := 0, ext := none }
theorem witness_beads : ∃ c, (mtxS).cursor = some c ∧
    can mtxS c (some 1) [gfld (mmaW 1).gk] [gfld (mmaW 1).gk] (·.maskP (mmaW 1).x.gp (mmaW 1).x.gi) 0 0 ∧
    viewGenOf c 2 ≠ 0 ∧ viewGenOf c 3 ≠ 0 ∧ viewGenOf c 4 ≠ 0 ∧ viewGenOf c 5 = 0 ∧ 0 < c.g.gval 1 ∧ c.g.gval 0 = 0 ∧
    (mmaBead c (mmaW 1)).wcl < c.b.clasps.length ∧ (mmaBead c (mmaW 1)).acl < c.b.clasps.length ∧
    c.b.clasps.length ≤ (mmaBead c (mmaW 1 4)).wcl ∧ c.b.clasps.length ≤ (drainBead c drainW).acl ∧
    c.b.mtx.tail + 1 ≤ c.b.mtxTl + 64 ∧
    (mtxS.vwrite c.c c.b.die c.b.core (nextBeadAt c) (mmaBead c (mmaW 1)).bytes).1.isSome = true := meets (by decide +kernel)
theorem witness_drain_and_mzero : ∃ c, (mtxS).cursor = some c ∧
    can mtxS c (some 1) [] [] (·.maskP drainW.x.gp drainW.x.gi) 0 0 ∧ can mtxS c (some 1) [] [] (·.maskP mzeroW.x.gp mzeroW.x.gi) 0 0 ∧
    mzeroW.x.we = false ∧ mzeroW.x.ae = false := meets (by decide +kernel)
theorem witness_full_ring : ∃ c, (mtxS 64).cursor = some c ∧ c.b.mtxTl + 64 < c.b.mtx.tail + 1 := meets (by decide +kernel)

/-- The four words of a descriptor in g8 to g11, and an import window of index 5. -/
def descS (q : List Nat) : State :=
  let s := base 2 fun g => ([0, 1, 2, 3].foldl (fun g i => setG (8 + i) (q.getD i 0) g) g)
  { s with wins := [{ ctx := 0, index := 5, kind := 2, base := 0, size := 4096, peer := 1, pexp := 1, cls := 1, exp := 0 }] }
def cpyW (mode : Nat) (clasp : Nat := 3) : Cpy :=
  { s := true, u := false, d := 30, a := 64, b := 0,
    ext := some { gp := 7, gi := false, scope := 3, ce := true, clasp := BitVec.ofNat 8 clasp, mode := BitVec.ofNat 3 mode, z := 0 } }
/-- A descriptor of each request: 64 bytes, a panel row, one gathered row, 64 bytes of a `put`. -/
def goodDesc : List ((Cpy → Instr) × Nat × List Nat) :=
  [(.cpy, 10, [0x1000, 65600, 64 + 2 ^ 32, 0]), (.cpyp, 11, [0x1000, 65600, 64 + 16 * 2 ^ 32 + 2 ^ 48 + 2 ^ 55, 0]),
   (.gath, 12, [0x1000, 65600, 4 + 4 * 2 ^ 32 + 2 ^ 52, 65600]), (.put, 13, [0x1000, 5, 64, 0])]
theorem witness_copies : ∀ p ∈ goodDesc, ∃ c, (descS p.2.2).cursor = some c ∧
    let f := cpyW 0
    let quad : Src := { grp := true, num := opReg f.a, n := 4, l := opL f.a, field := 1 }
    let ops := [quad, gsrc f.b 1 2]
    can (descS p.2.2) c (some 2) (ops ++ [{ grp := true, num := 30, n := 2 }]) ops (·.maskP f.x.gp f.x.gi) 0 2 ∧
    cpyDescBad p.2.1 0 (descOf c f) = none ∧ cpyRangeBad p.2.1 0 (descOf c f) = false ∧
    ((descS p.2.2).win? c.b.ctx 5).map (·.kind) = some 2 ∧ c.g.gval (opReg f.b) + f.x.clasp.toNat < c.b.clasps.length ∧
    ¬ c.g.gval (opReg f.b) + (cpyW 0 4).x.clasp.toNat < c.b.clasps.length ∧ c.b.reqs.length < 64 := by
  intro p hp
  simp only [goodDesc, List.mem_cons, List.not_mem_nil, or_false] at hp
  obtain rfl | rfl | rfl | rfl := hp <;> exact meets (by decide +kernel)
/-- Descriptors that fail: no bytes; an address that leaves the address space; and a window that is no import. -/
theorem witness_bad_copies : cpyDescBad 10 0 [0x1000, 65600, 0, 0] = some 0x21 ∧
    cpyDescBad 10 0 [2 ^ 57 - 4, 65600, 64 + 2 ^ 32, 0] = none ∧ cpyRangeBad 10 0 [2 ^ 57 - 4, 65600, 64 + 2 ^ 32, 0] = true ∧
    (descS []).win? 0 6 = none := by decide +kernel

/-! ## Class CTL -/

/-- A BR word of selector `sel`, 8 words ahead; a JS word of token 3; a TL word of a kind, with A g8 and B g9. -/
def br (sel : Nat) (inv : Bool := false) : Br := { s := true, u := false, sel := BitVec.ofNat 4 sel, inv := inv, off := 8, ext := none }
def js : Js := { s := true, u := false, token := 3, off := 0, ext := none }
def tl (kind : Nat) : Tl :=
  { s := true, u := false, d := BitVec.ofNat 6 kind, a := 64, b := 72, ext := some { gp := 7, gi := false, scope := 3, order := 0, imm := 0 } }
/-- p1 holds lanes 0 to 7; the first path has 20 lanes, and the second slot may hold the rest. -/
def split (two : Bool) (stack : Nat := 0) (board : List Nat := []) : State :=
  base 0 fun g => { g with
    p := g.p.set 1 0xFF
    slot0 := g.slot0.map fun p => { p with mask := 0xFFFFF, board := board }
    slot1 := if two then g.slot0.map fun p => { p with mask := 0xFFF00000 } else none
    flights := if board = [] then [] else [{ id := 77, slot := 0, due := none, board := true }]
    stack := List.replicate stack { clause := progBase, index := 0, mask := 0 } }

theorem witness_uniform_branches : ∃ c, (base 0).cursor = some c ∧ can (base 0) c none [] [] (·.p.mask) 0 0 ∧
    7 ≤ (br 7).sel.toNat ∧ groupCond c (br 7) = true ∧ groupCond c (br 7 true) = false := meets (by decide +kernel)
theorem witness_divergent_branches :
    (∃ c, (split false).cursor = some c ∧ can (split false) c none [] [] (·.p.mask) 0 0 ∧ (br 1).sel.toNat < 7 ∧
      taken c (br 0) = 0 ∧ taken c (br 0 true) = c.p.mask ∧ taken c (br 1) ≠ 0 ∧ taken c (br 1) ≠ c.p.mask ∧
      c.ref.slot < 2 ∧ c.g.slot1 = none) ∧
    (∃ c, (split true).cursor = some c ∧ can (split true) c none [] [] (·.p.mask) 0 0 ∧ c.g.slot1 ≠ none ∧ Settled c ∧
      c.g.stack.length < 64 ∧ taken c (br 1) ≠ 0) ∧
    (∃ c, (split true 64).cursor = some c ∧ can (split true 64) c none [] [] (·.p.mask) 0 0 ∧ Settled c ∧ 64 ≤ c.g.stack.length) ∧
    ∃ c, (split true 0 [77]).cursor = some c ∧ can (split true 0 [77]) c none [] [] (·.p.mask) 0 0 ∧ ¬ Settled c :=
  ⟨meets (by decide +kernel), meets (by decide +kernel), meets (by decide +kernel), meets (by decide +kernel)⟩
theorem witness_calls : ∃ c, (base 0).cursor = some c ∧ can (base 0) c none [gfld 62] [] (·.p.mask) 0 1 ∧
    groupCond c (br 7) = true ∧ groupCond c (br 7 true) = false ∧
    can (base 0) c none [(v3 true).ga, gfld (v3 true).d] [(v3 true).ga] (v3 true).maskQ 0 1 ∧
    can (base 0) c none [(v3 true).ga] [(v3 true).ga] (v3 true).maskQ 0 0 ∧ c.g.gval (opReg (v3 true).a) % 4 = 0 ∧
    c.g.gval (opReg (v3 true).a) < 2 ^ 57 := meets (by decide +kernel)
/-- Targets that are no multiple of 4, and at 2^57. -/
theorem witness_bad_targets : (∃ c, (base 0 (setG 8 513)).cursor = some c ∧ can (base 0 (setG 8 513)) c none [(v3 true).ga] [(v3 true).ga] (v3 true).maskQ 0 0 ∧
      c.g.gval (opReg (v3 true).a) % 4 ≠ 0) ∧
    ∃ c, (base 0 (setG 8 (2 ^ 57))).cursor = some c ∧ c.g.gval (opReg (v3 true).a) % 4 = 0 ∧ 2 ^ 57 ≤ c.g.gval (opReg (v3 true).a) :=
  ⟨meets (by decide +kernel), meets (by decide +kernel)⟩
/-- Token 3 open for 24 lanes, of which 4 have arrived, with its header at `jaddr`. -/
def tokS (jaddr : Nat) : State :=
  base 0 fun g => { g with toks := g.toks.set 3 { isOpen := true, mask := 0xFFFFFF, arrived := 0xF, parked := 0xF, jaddr := jaddr } }
theorem witness_tokens :
    (∃ c, (base 0).cursor = some c ∧ can (base 0) c none [] [] (·.p.mask) 0 0 ∧ (c.g.toks.getD js.token.toNat {}).isOpen = false ∧
      c.g.mayMerge js.token.toNat = true ∧ (Instr.jset js).WellFormed ∧ (Instr.join js).WellFormed) ∧
    (∃ c, (tokS progBase).cursor = some c ∧ can (tokS progBase) c none [] [] (·.p.mask) 0 0 ∧
      (c.g.toks.getD js.token.toNat {}).isOpen = true ∧ (c.g.toks.getD js.token.toNat {}).jaddr = c.p.clause) ∧
    ∃ c, (tokS 0x2000).cursor = some c ∧ can (tokS 0x2000) c none [] [] (·.p.mask) 0 0 ∧
      (c.g.toks.getD js.token.toNat {}).jaddr ≠ c.p.clause :=
  ⟨meets (by decide +kernel), meets (by decide +kernel), meets (by decide +kernel)⟩
/-- A group whose slots are free, with a token whose lanes have all arrived, or not. -/
def merging (arrived : Mask) : Group :=
  { Group.start 0 0 0 1 1 0 0 1 progBase allLanes with
    slot0 := none, toks := (List.replicate 16 ({} : Tok)).set 3 { isOpen := true, mask := 0xFF, arrived := arrived, parked := arrived } }
/-- One of its arrivals had S = 1, and brought a result that has not returned. -/
theorem witness_parked_merge : ((merging 0xFF).toks.map fun (t : Tok) => { t with sbit := true, board := [77] })[3]?.any (fun t =>
    t.isOpen && t.sbit && !t.board.isEmpty && t.mask == t.arrived) = true := by decide
/-- A handler may not use a token that its trapped code holds. -/
theorem witness_held_token :
    let h : TrapSt :=
      { frame := 0, bank := 0, nest := false, cause := 8, amask := 0xFF, start := 0, guarded := false, sdepth := 0, tokOpen := 8,
        slot := 0, other := none, otherAt := none, trapped := { clause := 0, index := 0, mask := 0xFF } }
    ({ merging 0xFF with traps := [h] } : Group).mayMerge 3 = false := by decide
theorem witness_merge : (merging 0xFF).toks.length = 16 ∧ ((merging 0xFF).toks.getD 3 {}).isOpen = true ∧
    ((merging 0xFF).toks.getD 3 {}).parked = 0xFF ∧ ((merging 0xFF).toks.getD 3 {}).arrived = 0xFF ∧
    ((merging 0xF).toks.getD 3 {}).arrived = 0xF ∧ ((merging 0xF).toks.getD 3 {}).mask = 0xFF ∧
    ((merging 0xFF).toks.eraseIdx 3).all (· == {}) = true ∧ (merging 0xFF).traps = [] ∧ (merging 0xFF).stack = [] ∧
    (merging 0xFF).slot0 = none ∧ ((merging 0xF).toks.getD 3 {}).held = false :=
  ⟨rfl, rfl, rfl, rfl, rfl, rfl, rfl, rfl, rfl, rfl, rfl⟩
theorem witness_exit_lower_and_yield : ∃ c, (base 0).cursor = some c ∧ can (base 0) c none [] [] (v3 false).maskP 0 0 ∧
    can (base 0) c none [] [] (·.p.mask) 0 0 ∧ (vi false 0).val.toNat ≤ c.b.clsL ∧ c.b.clsL < (vi false 2).val.toNat ∧
    c.g.exited ||| (v3 false).maskP c = allLanes := meets (by decide +kernel)
theorem witness_cancel : ∃ c, (base 0).cursor = some c ∧ can (base 0) c none [(v3 true).ga] [(v3 true).ga] (v3 true).maskQ 0 0 ∧
    ((base 0).checkLane c (c.g.gval (opReg (v3 true).a)) 64 .both 9).1.isRight := meets (by decide +kernel)

/-- g8 is n, g9 is t; the first clasp is `k`. -/
def claspS (n t : Nat) (k : Clasp := {}) : State :=
  let s := base 0 fun g => setG 8 n (setG 9 t g)
  { s with blocks := s.blocks.map fun b => { b with clasps := b.clasps.set 0 k } }
def viD (imm : Int) : VI := { vi false imm with d := 0 }
def v3D (sub : Nat) : V3 := { v3 false sub with d := 0, b := 72 }
def armed : Clasp := { cycle := 1, mode := 1, bytes := true, expected := 1, pending := 1 }
theorem witness_cinit : ∃ c, (claspS 0 0).cursor = some c ∧
    can (claspS 0 0) c none [gsrc (viD 1).a 1 1] [gsrc (viD 1).a 1 1] (·.maskP (viD 1).gp (viD 1).gi) 0 0 ∧
    c.b.clasps[c.g.gval (opReg (viD 1).a) + (viD 1).d.toNat]? = some {} ∧ (viD 1).val.toNat % 2048 = 1 ∧
    (viD 1024).val.toNat % 2048 = 1024 ∧ (viD 0).val.toNat % 2048 < 1 ∧ 1024 < (viD 1025).val.toNat % 2048 := meets (by decide +kernel)
theorem witness_arrive_and_expect : ∃ c, (claspS 0 64 armed).cursor = some c ∧
    let f := v3D 0
    can (claspS 0 64 armed) c none [gsrc f.a 1 1] [gsrc f.a 1 1] f.maskP 0 0 ∧
    can (claspS 0 64 armed) c none [gsrc f.a 1 1, gsrc f.b 1 2] [gsrc f.a 1 1, gsrc f.b 1 2] f.maskP 0 0 ∧
    f.x.sub.getLsbD 1 = false ∧ c.b.clasps[c.g.gval (opReg f.a) + f.d.toNat]? = some armed ∧
    armed.pending < (lanesOf (f.maskP c)).length ∧ (v3D 2).x.sub.getLsbD 1 = true ∧ mayPost armed (c.g.gval (opReg f.b)) ∧
    armed.rem + c.g.gval (opReg f.b) ≥ 0 ∧ mayPost { armed with rem := -100 } (c.g.gval (opReg f.b)) ∧
    (-100 : Int) + c.g.gval (opReg f.b) < 0 := meets (by decide +kernel)
/-- A path that waits for the clasp to leave the parity of its CYCLE, which is 1. -/
def claspWaiter (k : Clasp) : State :=
  let s := claspS 0 0 k
  { s with blocks := s.blocks.map fun b => { b with groups := b.groups.map fun g =>
      { g with slot0 := g.slot0.map fun p => { p with cond := .wait (.clasp 0 true false) {} } } } }
/-- Its phase flips to 2, or it goes to ERROR; and it stays as it is. -/
theorem witness_clasp_wakes : ∀ y ∈ [{ armed with cycle := 2 }, { armed with mode := 2, why := 3 }, armed],
    ((claspWaiter y).block? 0).any (fun b => b.clasps[0]? == some y) = true ∧
    (claspWaiter y).blocks[0]?.any (fun b => b.id == 0 && b.groups[0]?.any fun g => (g.path? 0).any fun p =>
      p.cond == .wait (.clasp 0 true false) {}) = true := by decide +kernel
theorem witness_clasp_turns : (({ armed with cycle := 2 } : Clasp).cycle ≠ armed.cycle ∧ ({ armed with cycle := 2 } : Clasp).mode ≠ 2 ∧
    (({ armed with cycle := 2 } : Clasp).cycle % 2 == 1) ≠ true) ∧ ({ armed with mode := 2 } : Clasp).mode = 2 ∧
    ((armed.cycle % 2 == 1) = true ∧ armed.mode ≠ 2) := by decide
theorem witness_clasp_traps :
    (∃ c, (claspS 4 0).cursor = some c ∧ c.b.clasps[c.g.gval (opReg (viD 1).a) + (viD 1).d.toNat]? = none) ∧
    (∃ c, (claspS 0 0).cursor = some c ∧ c.b.clasps[c.g.gval (opReg (v3D 0).a)]?.map (·.mode) = some 0) ∧
    ∃ c, (claspS 0 0 { mode := 2 }).cursor = some c ∧ c.b.clasps[c.g.gval (opReg (v3D 0).a)]?.map (·.mode) = some 2 :=
  ⟨meets (by decide +kernel), meets (by decide +kernel), meets (by decide +kernel)⟩
/-- A post to a clasp without byte mode; posts of 2^23 bytes, and of one that passes the limit by one. -/
theorem witness_post_traps : (Instr.arrive (v3D 2) = .arrive (v3D 2) ∧ (v3D 2).x.sub.getLsbD 1 = true ∧ (v3D 0).x.sub.getLsbD 1 = false) ∧
    ({ armed with bytes := false } : Clasp).mode = 1 ∧ ¬ mayPost armed (2 ^ 23) ∧ ¬ mayPost { armed with rem := 1 } (2 ^ 23 - 1) ∧
    mayPost armed (2 ^ 23 - 1) := by decide
theorem witness_waits : ∃ c, (claspS 0 (2 ^ 40) armed).cursor = some c ∧
    let f := viD 1
    can (claspS 0 (2 ^ 40) armed) c none [gsrc f.a 1 1] [gsrc f.a 1 1] (·.maskP f.gp f.gi) 0 0 ∧ c.ref.slot < 2 ∧ c.g.cancelDue c.p = none ∧
    (armed.cycle % 2 == 1) = (f.val == 1) ∧ (armed.cycle % 2 == 1) ≠ ((viD 0).val == 1) ∧
    (∀ kind ∈ [0, 1, 2, 7], can (claspS 0 (2 ^ 40) armed) c none [gsrc (tl kind).a 1 1] [gsrc (tl kind).a 1 1] (·.maskP (tl kind).x.gp (tl kind).x.gi) 0 0 ∧
      haltFault c.c c.b kind 0 = none) ∧
    (claspS 0 0 armed).counter c.b 0 0 = some 0 ∧ MayWait (claspS 0 0 armed) c ((claspS 0 0 armed).tlTarget c.b 0 0) := meets (by decide +kernel)
theorem witness_naps : ∃ c, (claspS 0 (2 ^ 40) armed).cursor = some c ∧
    let f := tl 0
    can (claspS 0 (2 ^ 40) armed) c none [gsrc f.a 1 1, gsrc f.b 1 2] [gsrc f.a 1 1, gsrc f.b 1 2] (·.maskP f.x.gp f.x.gi) 0 0 ∧
    haltFault c.c c.b f.d.toNat 0 = none ∧ c.ref.slot < 2 ∧ c.g.cancelDue c.p = none ∧ (claspS 0 0 armed).ct < c.g.gval (opReg f.b) ∧
    c.g.gval (opReg f.a) ≤ c.b.userTl := meets (by decide +kernel)
/-- A path that naps for value 5 until chip time 0. -/
def napS (n : Nat) : State :=
  base 0 fun g => { g with slot0 := g.slot0.map fun p => { p with cond := .wait (.nap 0 n 0 3) {} } }
theorem witness_nap_wake : ∃ w, (napS 5).waiter? { blk := 0, grp := 0, slot := 0 } = some w ∧ w.on = .nap 0 5 0 3 ∧
    w.fin = none ∧ (0 : Nat) ≤ (napS 5).ct ∧ haltFault w.c w.b 0 5 = none ∧ w.b.userTl < 5 := by
  have h : (match (napS 5).waiter? { blk := 0, grp := 0, slot := 0 } with
      | some w => decide (w.on = .nap 0 5 0 3 ∧ w.fin = none ∧ (0 : Nat) ≤ (napS 5).ct ∧ haltFault w.c w.b 0 5 = none ∧ w.b.userTl < 5)
      | none => false) = true := by decide +kernel
  cases hw : (napS 5).waiter? { blk := 0, grp := 0, slot := 0 } with
  | none => rw [hw] at h; cases h
  | some w => rw [hw] at h; exact ⟨w, rfl, of_decide_eq_true h⟩
theorem witness_timeline_read : ∃ c, (claspS 0 0 armed).cursor = some c ∧
    (∀ kind ∈ [0, 3, 7], let f : V3 := { v3 true with b := BitVec.ofNat 9 (8 * kind) }
      let srcs := if 3 ≤ f.b.toNat / 8 ∧ f.b.toNat / 8 ≤ 6 then [f.ga] else []
      can (claspS 0 0 armed) c none (srcs ++ [gfld f.d]) srcs f.maskP 0 (needG true f.d)) ∧
    (claspS 0 0 armed).counter c.b 3 77 = none ∧ (claspS 0 0 armed).counter c.b 0 0 = some 0 ∧
    can (claspS 0 0 armed) c none [gsrc (tl 0).a 1 1] [gsrc (tl 0).a 1 1] (·.maskP (tl 0).x.gp (tl 0).x.gi) 0 0 := meets (by decide +kernel)
theorem witness_wjoin : ∃ c, (base 0).cursor = some c ∧ can (base 0) c none [(v3 true).ga] [(v3 true).ga] (v3 true).maskQ 0 0 ∧
    c.g.gval (opReg (v3 true).a) % 16 = 0 ∧ passes (base 0) c true allLanes (fun _ => c.g.gval (opReg (v3 true).a)) 16 .read 7 ∧
    c.g.cancelDue c.p = none ∧ (base 0).vword c.c c.b.die c.b.core (c.g.gval (opReg (v3 true).a)) 8 = 0 := meets (by decide +kernel)
/-- Join records of class evt at 0x3000: one whose children have finished, and one with a child. -/
theorem witness_wjoin_class : ∀ n ∈ [0, 1], ∃ c, (twoG 0x3000 0 [(0x3000, [n]), (0x3008, [1, 0])]).cursor = some c ∧
    let s := twoG 0x3000 0 [(0x3000, [n]), (0x3008, [1, 0])]
    s.vword c.c c.b.die c.b.core 0x3000 8 = n ∧ MayWait s c { kind := 6, cls := 1, clsL := 1, prom := false, name := 0x3000, join := some (c.b.ctx, 0x3000) } := by
  intro n h
  simp only [List.mem_cons, List.not_mem_nil, or_false] at h
  obtain rfl | rfl := h <;> exact meets (by decide +kernel)
/-- A buffer that another block holds, and one in transfer to this block. -/
def claimS (st : BufSt) : State :=
  let s := base 0 bufG
  { s with
    blocks := s.blocks ++ s.blocks.map fun b => { b with id := 1, groups := [] }
    bufs := [{ theBuf with holder := 1, st := st }] }
theorem witness_hclaim : ∀ st ∈ [BufSt.held, .transfer], ∃ c, (claimS st).cursor = some c ∧
    let f := mW true 0
    can (claimS st) c none [gfld f.base, gfld f.d] [gfld f.base] (·.maskP f.x.gp f.x.gi) 0 1 ∧
    (claimS st).handle c.b.die (c.g.gval f.base.toNat) = .buf { theBuf with holder := 1, st := st } ∧
    ((claimS st).block? 1).map (fun o => (claimS st).blockTarget 8 (c.g.gval f.base.toNat) o |>.fault ((claimS st).curClass c.b)) = some none ∧
    c.g.cancelDue c.p = none ∧ c.ref.slot < 2 := by
  intro st h
  simp only [List.mem_cons, List.not_mem_nil, or_false] at h
  obtain rfl | rfl := h <;> exact meets (by decide +kernel)
/-- A queue of 40 entries pops for 32 lanes; one of 3 does not. -/
def popS (n : Nat) : State :=
  { scratch with hqs := [{ die := 0, core := 0, num := 1, launch := 0, cls := 1, ents := List.replicate n 7 }] }
theorem witness_qpop : ∀ n ∈ [3, 40], ∃ c, (popS n).cursor = some c ∧
    let f := mW false 0
    can (popS n) c none [{ grp := false, num := f.d.toNat }] [] (·.maskP f.x.gp f.x.gi) 1 0 ∧
    ((popS n).hq? c.b f.base.toNat).map (·.ents.length) = some n ∧ (lanesOf (c.maskP f.x.gp f.x.gi)).length = 32 ∧
    MayWait (popS n) c { kind := 7, cls := 1, clsL := 1, fixed := true, name := f.base.toNat } := by
  intro n h
  simp only [List.mem_cons, List.not_mem_nil, or_false] at h
  obtain rfl | rfl := h <;> exact meets (by decide +kernel)
/-- A kernel of two binding slots at 0x1000: the first holds 0, the second an address. -/
def bindS : State :=
  let s := base 0
  { s with kernels := s.kernels.map fun k => { k with nbind := 2, bindBase := 0x1000 }
           mem := Memory.writeN s.mem 0x1008 (leBytes 8 0x2000) }
theorem witness_bound_calls : ∃ c, bindS.cursor = some c ∧
    (∀ i ∈ [0, 1, 2], can bindS c none [gfld (vi false i).d] [] (·.maskQ (vi false i).gp (vi false i).gi) 0 (needG true (vi false i).d)) ∧
    (∀ i ∈ [0, 1], passes bindS c true allLanes (fun _ => c.k.bindBase + 8 * i) 8 .both 7) ∧
    bindS.vword c.c c.b.die c.b.core c.k.bindBase 8 = 0 ∧ bindS.vword c.c c.b.die c.b.core (c.k.bindBase + 8) 8 = 0x2000 ∧
    (c.k.nbind : Int) ≤ (vi false 2).val ∧ (vi false (-1)).val < 0 ∧ c.ref.slot < 2 := meets (by decide +kernel)
/-- The slot holds a failed binding, no value of a slot, an address of 2^57, the group's own BINDING value, or that of a second
group, on which the path may wait. -/
def boundS (v : Nat) : State :=
  let s := { bindS with mem := Memory.writeN bindS.mem 0x1000 (leBytes 8 v) }
  { s with blocks := s.blocks.map fun b => { b with groups := b.groups ++ b.groups.map fun g => { g with index := 1, tag := g.tag + 1 } } }
theorem witness_bound_slots : ∀ v ∈ [2, 3, 2 ^ 57], ∃ c, (boundS v).cursor = some c ∧
    passes (boundS v) c true allLanes (fun _ => c.k.bindBase) 8 .both 7 ∧ (boundS v).vword c.c c.b.die c.b.core c.k.bindBase 8 = v := by
  intro v h
  simp only [List.mem_cons, List.not_mem_nil, or_false] at h
  obtain rfl | rfl | rfl := h <;> exact meets (by decide +kernel)
theorem witness_own_slot : ∃ c, (boundS 5).cursor = some c ∧ (boundS 5).vword c.c c.b.die c.b.core c.k.bindBase 8 = 4 * c.g.tag + 1 :=
  meets (by decide +kernel)
theorem witness_bind_wait : ∃ c, (boundS 9).cursor = some c ∧ passes (boundS 9) c true allLanes (fun _ => c.k.bindBase) 8 .both 7 ∧
    9 ≠ 4 * c.g.tag + 1 ∧ MayWait (boundS 9) c ((boundS 9).bindTarget c.b c.k.bindBase 9) := meets (by decide +kernel)
/-- The check of R238 at its edges: a target of a class below the waiter's that is promotable, but fixed or not, or not promotable. -/
theorem witness_wait_class_check : ([(1, false, false), (0, true, false), (0, true, true), (0, false, false)] : List (Nat × Bool × Bool)).map
      (fun x => (({ kind := 4, cls := x.1, clsL := 0, prom := x.2.1, fixed := x.2.2 } : Target).fault 1).isSome) = [false, false, true, true] := by decide
/-- Timelines that have reached 5, of which copy 3 or put 9 has failed, and a window of class evt. -/
def reachedS (n t cls fail : Nat) : State :=
  let s := claspS n t
  { s with
    blocks := s.blocks.map fun b => { b with
      userTl := 5, copyTl := 5, mtxTl := 5, clsL := cls, failv := if fail = 0 then [] else [(fail, 1, 0x1000)] }
    wins := [{ ctx := 0, index := 0, kind := 2, base := 0, size := 4096, peer := 1, pexp := 1, cls := 1, exp := 0, wsrc := 5, wtgt := 5,
               fails := if fail = 0 then [] else [(fail, 7, 16)] }] }
/-- A wait on each of these counters from below, at and above its value, with a failed value at or below it or beyond it. -/
theorem witness_timeline_ends : ∀ n ∈ [5, 6], ∀ fail ∈ [0, 3, 9], ∃ c, (reachedS n 0 1 fail).cursor = some c ∧ c.ref.slot < 2 ∧ c.g.cancelDue c.p = none ∧
    ∀ kind ∈ [0, 1, 2, 3, 4],
      let srcs := if 3 ≤ kind then [gsrc (tl kind).a 1 1, gsrc (tl kind).b 1 2] else [gsrc (tl kind).a 1 1]
      can (reachedS n 0 1 fail) c none srcs srcs (·.maskP (tl kind).x.gp (tl kind).x.gi) 0 0 ∧ haltFault c.c c.b kind n = none ∧
      (reachedS n 0 1 fail).counter c.b kind 0 = some 5 ∧ ((reachedS n 0 1 fail).tlTarget c.b kind 0).fault ((reachedS n 0 1 fail).curClass c.b) = none ∧
      (failedAt (reachedS n 0 1 fail) c.b kind 0 5).isSome = (fail == 3 && (kind == 1 || decide (3 ≤ kind))) := by
  intro n hn fail hf
  simp only [List.mem_cons, List.not_mem_nil, or_false] at hn hf
  obtain rfl | rfl := hn <;> obtain rfl | rfl | rfl := hf <;> exact meets (by decide +kernel)
/-- A res block whose `wtl` names a window of class evt. -/
theorem witness_timeline_class : ∃ c, (reachedS 5 0 2 0).cursor = some c ∧
    can (reachedS 5 0 2 0) c none [gsrc (tl 3).a 1 1, gsrc (tl 3).b 1 2] [gsrc (tl 3).a 1 1, gsrc (tl 3).b 1 2] (·.maskP (tl 3).x.gp (tl 3).x.gi) 0 0 ∧
    (reachedS 5 0 2 0).counter c.b 3 0 = some 5 ∧ ((reachedS 5 0 2 0).tlTarget c.b 3 0).fault ((reachedS 5 0 2 0).curClass c.b) ≠ none :=
  meets (by decide +kernel)
/-- Naps of each kind whose time has come, on a counter at its value and below it. -/
theorem witness_nap_ends : ∀ n ∈ [5, 6], ∃ c, (reachedS n 0 1 3).cursor = some c ∧ c.ref.slot < 2 ∧ c.g.cancelDue c.p = none ∧
    c.g.gval (opReg (tl 0).b) ≤ (reachedS n 0 1 3).ct ∧ ∀ kind ∈ [0, 1, 2],
      can (reachedS n 0 1 3) c none [gsrc (tl kind).a 1 1, gsrc (tl kind).b 1 2] [gsrc (tl kind).a 1 1, gsrc (tl kind).b 1 2]
        (·.maskP (tl kind).x.gp (tl kind).x.gi) 0 0 ∧ haltFault c.c c.b kind n = none ∧ ((reachedS n 0 1 3).counter c.b kind 0).getD 0 = 5 := by
  intro n hn
  simp only [List.mem_cons, List.not_mem_nil, or_false] at hn
  obtain rfl | rfl := hn <;> exact meets (by decide +kernel)
/-- Waits of a res block on a join record, a holder and a queue of class evt that cannot be promoted. -/
def resS (s : State) : State := { s with blocks := s.blocks.map fun b => if b.id = 0 then { b with clsL := 2 } else { b with clsL := 1, prom := false } }
def joinRes : State := resS (twoG 0x3000 0 [(0x3000, [1]), (0x3008, [1, 0])])
theorem witness_join_class : ∃ c, joinRes.cursor = some c ∧ can joinRes c none [(v3 true).ga] [(v3 true).ga] (v3 true).maskQ 0 0 ∧
    passes joinRes c true allLanes (fun _ => 0x3000) 16 .read 7 ∧ joinRes.curClass c.b = 2 ∧ joinRes.vword c.c c.b.die c.b.core 0x3008 2 = 1 ∧
    ({ kind := 6, cls := 1, clsL := 1, prom := false, name := 0x3000, join := some (c.b.ctx, 0x3000) } : Target).fault 2 ≠ none :=
  meets (by decide +kernel)
theorem witness_holder_class : ∀ st ∈ [BufSt.held, .transfer], ∃ c, (resS (claimS st)).cursor = some c ∧
    can (resS (claimS st)) c none [gfld (mW true 0).base, gfld (mW true 0).d] [gfld (mW true 0).base] (·.maskP (mW true 0).x.gp (mW true 0).x.gi) 0 0 ∧
    ((resS (claimS st)).handle c.b.die 65600 matches .buf _) ∧
    ((resS (claimS st)).block? 1).any (fun o => ((resS (claimS st)).blockTarget 8 65600 o).fault ((resS (claimS st)).curClass c.b) != none) := by
  intro st h
  simp only [List.mem_cons, List.not_mem_nil, or_false] at h
  obtain rfl | rfl := h <;> exact meets (by decide +kernel)
theorem witness_queue_class : ∃ c, (resS (popS 3)).cursor = some c ∧
    can (resS (popS 3)) c none [{ grp := false, num := (mW false 0).d.toNat }] [] (·.maskP (mW false 0).x.gp (mW false 0).x.gi) 0 0 ∧
    ((resS (popS 3)).hq? c.b (mW false 0).base.toNat).map (·.cls) = some 1 ∧ (resS (popS 3)).curClass c.b = 2 ∧
    ({ kind := 7, cls := 1, clsL := 1, fixed := true, name := 1 } : Target).fault 2 ≠ none := meets (by decide +kernel)

/-! ## Tasks and copies -/

/-- A block with a bead of kind MZERO in slot 1 of its ring, at 0x101040, and with copies. -/
def beadS (st : BeadSt) (fault : Option Nat := none) (bank : Option Nat := some 0) (we : Bool := false) : State :=
  let s := baseB 1 fun b => { b with mtx := { b.mtx with present := true, tail := 1, bank := bank, beads := [{ num := 1, st := st, fault := fault }] } }
  { s with mem := Memory.writeN (Memory.writeN s.mem 0x101040 [3]) 0x101043 [if we then 2 else 0] }
def haltedAt (a : Nat) : State :=
  baseB 1 (fun b => { b with mtx := { b.mtx with present := true, tail := 1, beads := [{ num := 1, st := .halted }] },
                             groups := b.groups.map (setG 8 a) })
theorem witness_continuations : (∃ c, (haltedAt 0x101040).cursor = some c ∧
      can (haltedAt 0x101040) c (some 1) [(v3 false).ga] [(v3 false).ga] (v3 false).maskP 0 0 ∧
      ((c.b.mtx.beads.find? fun x => x.st = .halted ∧ beadOf c.c c.b x.num = c.g.gval (opReg (v3 false).a)).map (·.num)) = some 1) ∧
    ∃ c, (haltedAt 0x101080).cursor = some c ∧ can (haltedAt 0x101080) c (some 1) [(v3 false).ga] [(v3 false).ga] (v3 false).maskP 0 0 ∧
      c.b.mtx.beads.all (fun x => beadOf c.c c.b x.num != c.g.gval (opReg (v3 false).a)) = true :=
  ⟨meets (by decide +kernel), meets (by decide +kernel)⟩
theorem witness_bead_events : ((beadS .running).bead? 0 1).any (fun x => x.2.2.st = .running) = true ∧
    ((beadS .queued).bead? 0 1).any (fun x => x.2.2.st = .queued) = true ∧
    ((beadS .queued (some 0x3000)).bead? 0 1).any (fun x => x.2.2.fault = some 0x3000) = true := by decide +kernel
/-- An MZERO bead starts; one that waits for an IDLE clasp halts; a block without a bank wants one. -/
theorem witness_bead_starts : ((beadS .queued).nextBead 0 0 .matrix).any (fun x => x.2.2.2 = .start &&
      (startReason (fieldsOf (beadS .queued) x.2.1 x.1 1) 0 []).isNone && (fieldsOf (beadS .queued) x.2.1 x.1 1).names = []) = true ∧
    ((beadS .queued none (some 0) true).nextBead 0 0 .matrix).any (fun x => x.2.2.2 = .halt 11) = true ∧
    ((beadS .queued none none).block? 0).any (fun b => (beadS .queued none none).wantsBank b &&
      ((beadS .queued none none).bankFor b).any fun x => x.1 == 0 && x.2.isNone) = true := by decide +kernel
theorem witness_start_refused : startReason { BeadW.ofNat 1 with v0 := 0x10000, v1 := 0x10000 } 0 [Ent.ofBytes (List.replicate 64 0), Ent.ofBytes (List.replicate 64 0)] =
    some 1 := by decide +kernel
/-- The block's image lies in its record, and a bank is free. -/
def bankStored : State :=
  let s := beadS .queued none none
  { s with blocks := s.blocks.map fun b => { b with mtx := { b.mtx with stored := true } } }
theorem witness_bank_loaded : (bankStored.block? 0).any (fun b => b.mtx.stored && bankStored.wantsBank b && (bankStored.bankFor b == some (0, none)) &&
    (bankStored.ctx? 0).any fun c => match bankStored.reach c b.die b.core (c.savebase + 0x90000 * b.recNo + 0x2000) imageSize .read with
      | (.inr ps, t) => match t.readPieces ps with
        | ((bs, false), _) => decide (bs.length = imageSize)
        | _ => false
      | _ => false) = true := by decide +kernel
theorem witness_empty_image : (accsOf [] []).isSome = true := by decide +kernel
/-- Two other blocks hold the core's banks: the first loses its own. -/
def banksTaken : State :=
  let s := beadS .queued none none
  { s with blocks := s.blocks ++ [1, 2].flatMap fun n => s.blocks.map fun b =>
      { b with id := n, groups := [], mtx := { b.mtx with beads := [], bank := some (n - 1) } } }
theorem witness_bank_taken : (banksTaken.block? 0).any (fun b => banksTaken.wantsBank b &&
    !b.mtx.stored && (banksTaken.bankFor b).any fun x => x.1 == 0 && x.2.any fun v => v.id == 1 &&
      (banksTaken.ctx? v.ctx).any fun c => (banksTaken.reach c v.die v.core (c.savebase + 0x2000) 0x20040 .write).1.isRight) = true := by
  decide +kernel

/-- A block with a request of 64 bytes from global memory to the buffer that it holds, or of a `put` through window 5. -/
def copyS (op : Nat) (st : CpSt) (from' : Nat := 0x1000) : State :=
  let s := descS (goodDesc.getD (if op = 13 then 3 else 0) (.cpy, 0, [])).2.2
  { s with
    bufs := [theBuf], linkDown := some 0, ct := 10000000
    blocks := s.blocks.map fun b => { b with
      reqs := [{ id := 4, op := op, mode := 0, scope := 3, clasp := none, grp := 0, d := 30, flight := 9, st := st, tick := 5,
                 q := ([from', 65600, 64 + 2 ^ 32, 0] : List Nat).map (BitVec.ofNat 64) |> fun q => if op = 13 then q.set 1 5 else q }] } }
theorem witness_copy_events : ((copyS 10 .issued).req? 0 4).any (fun x => x.2.2.op = 10 && x.2.2.st = .issued) = true ∧
    ((copyS 13 .moving).req? 0 4).any (fun x => x.2.2.op = 13 && ((copyS 13 .moving).win? x.1.ctx ((x.2.2.q.getD 1 0).toNat % 4096)).isSome &&
      x.2.2.st = .moving && !(copyS 13 .moving).activePort && (copyS 13 .moving).linkDown = some 0 && 0 + 10000000 ≤ (copyS 13 .moving).ct) = true := by decide +kernel
/-- A request whose bytes lie behind the domain aperture, in the sixteen 1 GiB entries after those that are mapped. -/
def farCopy : State :=
  let s := copyS 10 .moving (2 ^ 34)
  { s with
    linkDown := none
    mem := (List.range 16).foldl (fun m i => Memory.writeN m (progTable + 8192 + 128 + 8 * i) (leBytes 8 (2 ^ 51 + progLeaf))) s.mem
    blocks := s.blocks.map fun b => { b with reqs := b.reqs.map fun r => { r with scope := 9 } } }
/-- What COPY_COMPLETION sees of the request of a state, with some answers there. -/
def movesOf (s : State) (got : List (Nat × List Byte × Bool)) : Option (Moved × CopyReq) := (s.req? 0 4).map fun x =>
  (({ s with ap := { known := got, lost := false } } : State).move x.2.1 { x.1 with reqs := [x.2.2] } x.2.2, x.2.2)
/-- It asks the package for its bytes; with the answer there it completes, as does a request within the package, which asks none. -/
theorem witness_far_copies : (movesOf farCopy []).any (fun m => !m.2.moved && !m.1.state.ap.wanted.isEmpty) = true ∧
    (movesOf farCopy [(2 ^ 51, List.replicate 64 7, false)]).any (fun m => !m.2.moved && m.1.state.ap.wanted.isEmpty &&
      match m.1 with | .done t => decide (t.uid ≤ farCopy.uid) | _ => false) = true ∧
    (movesOf (copyS 10 .moving) []).any (fun m => !m.2.moved && m.1.state.ap.wanted.isEmpty &&
      match m.1 with | .done t => decide (t.uid ≤ (copyS 10 .moving).uid) | _ => false) = true ∧
    (({ id := 4, op := 10, mode := 0, q := [], scope := 3, clasp := none, grp := 0, d := 30, flight := 9, st := .moving, moved := true } : CopyReq).moved) = true := by
  decide +kernel
/-- A request that copies from the buffer to the aperture: what it writes is not answered yet. -/
def farWrite : State :=
  { farCopy with blocks := farCopy.blocks.map fun b => { b with reqs := b.reqs.map fun r =>
      { r with mode := 1, q := ([65600, 2 ^ 34, 64 + 2 ^ 32, 0] : List Nat).map (BitVec.ofNat 64) } } }
theorem witness_far_write : (movesOf farWrite []).any (fun m => !m.2.moved && m.1.state.ap.wanted.isEmpty &&
      match m.1 with | .done t => decide (farWrite.uid < t.uid) | _ => false) = true := by decide +kernel
/-- A DRAIN of one element, in row 63, to the domain aperture, which adds to what stands there or not. -/
def farDrain (add : Bool) (got : List (Nat × List Byte × Bool) := []) (sent : Bool := false) (dst : Nat := 2 ^ 34) : State :=
  let s := farCopy
  let w : BeadW := { BeadW.ofNat 2 with add := add, scope := 9, er := 0x8000000000000000, ec := 1 }
  let e : List Byte := leBytes 8 (dst - 63 * 16) ++ leBytes 8 0 ++ leBytes 4 64 ++ leBytes 4 1 ++ leBytes 8 16 ++ leBytes 8 0 ++ [0x20, 1] ++ List.replicate 22 0
  { s with
    mem := Memory.writeN (Memory.writeN s.mem 0x101040 w.bytes) 0x10104C [63]
    blocks := s.blocks.map fun b => { b with reqs := [], mtx := { b.mtx with
      present := true, tail := 1, bank := some 0,
      beads := [{ num := 1, st := .running, ents := [e, List.replicate 64 0, List.replicate 64 0], got := got, sent := sent }] } } }
def drainOf (s : State) : Option ((Nat × Nat × TaskEnd) × State) := (s.bead? 0 1).map fun x =>
  ({ s with ap := { known := x.2.2.got, lost := x.2.2.lost } } : State).runTask x.2.1 x.1 x.2.2 (fieldsOf s x.2.1 x.1 1)
/-- It asks for what it adds to; with the answer there, or with nothing to add to, it writes its row and awaits the answer. -/
theorem witness_far_tasks : (drainOf (farDrain true)).any (fun x => !x.2.ap.wanted.isEmpty) = true ∧
    (drainOf (farDrain true [(2 ^ 51, [0, 0x3C], false)])).any (fun x => x.2.ap.wanted.isEmpty && x.1.2.2 == .done && decide (farCopy.uid < x.2.uid)) = true ∧
    (drainOf (farDrain false)).any (fun x => x.2.ap.wanted.isEmpty && x.1.2.2 == .done && x.1.1 == 64) = true ∧
    ((farDrain false [] true).bead? 0 1).any (fun x => x.2.2.sent && x.2.2.st == .running) = true := by decide +kernel
/-- One that ends with nothing asked, and one that stops at a page, or halts. -/
theorem witness_task_ends : (drainOf (farDrain false [] false 0x2000)).any (fun x => x.2.ap.wanted.isEmpty && x.1.2.2 == .done &&
      (x.2.tagsSince (farDrain false [] false 0x2000)).isEmpty) = true ∧
    (drainOf (farDrain false [] false (2 ^ 40))).any (fun x => x.2.ap.wanted.isEmpty && x.1.2.2 == .page (2 ^ 40)) = true ∧
    (drainOf (farDrain false [] false (2 ^ 57))).any (fun x => x.2.ap.wanted.isEmpty && (match x.1.2.2 with | .halt _ => true | _ => false)) = true := by
  decide +kernel
/-- A `put` of bytes that are there, and of an address beyond the address space: its window is found. -/
theorem witness_put_completion : (movesOf { copyS 13 .moving with linkDown := none } []).any (fun m => m.2.op == 13 && !m.2.moved &&
      m.1.state.ap.wanted.isEmpty && (match m.1 with | .done _ => true | _ => false)) = true ∧
    (movesOf { copyS 13 .moving (2 ^ 57) with linkDown := none } []).any (fun m => m.2.op == 13 &&
      (match m.1 with | .failed _ _ _ => true | _ => false)) = true ∧
    ((copyS 13 .moving).req? 0 4).any (fun x => ((copyS 13 .moving).win? x.1.ctx ((x.2.2.q.getD 1 0).toNat % 4096)).isSome) = true := by decide +kernel
/-- The request moves its bytes; without its buffer it fails; from an address without a page it waits. -/
theorem witness_moves : ((copyS 10 .moving).req? 0 4).any (fun x =>
      ((copyS 10 .moving).move x.2.1 x.1 x.2.2 matches .done _) &&
      (({ copyS 10 .moving with bufs := [] } : State).move x.2.1 x.1 x.2.2 matches .failed _ _ _)) = true ∧
    ((copyS 10 .moving (2 ^ 40)).req? 0 4).any (fun x => (copyS 10 .moving (2 ^ 40)).move x.2.1 x.1 x.2.2 matches .page _ _) = true := by
  decide +kernel

def f89 : V3 := { v3 true with b := 72 }
/-- A node whose descriptor has NBUF 1, and one without buffers; a node that holds 1,020 records. -/
def nodeS (held : Nat) : State :=
  let s := twoG 0x3000 0 [(0x301C, [1])]
  { s with nodes := [{ ctx := 0, desc := 0x3000, recs := List.replicate held (0, 0), taken := 0, busy := [] }] }
theorem witness_emit : ∃ c, (nodeS 0).cursor = some c ∧
    can (nodeS 0) c none [(v3 false).ga, (v3 false).srcB 1] [(v3 false).ga, (v3 false).srcB 1] (v3 false).maskP 0 0 ∧
    ((nodeS 0).lkRead c.c c.b.die c.b.core allLanes 0x3000 64).1.getRight?.any (fun bs => !(NodeDesc.ofBytes bs).bad) = true ∧
    ((twoG 0x3000 0 []).lkRead c.c c.b.die c.b.core allLanes 0x3000 64).1.getRight?.any (fun bs => (NodeDesc.ofBytes bs).bad) = true ∧
    1024 < (nodeS 1020).nodeHeld 0 0x3000 + (lanesOf ((v3 false).maskP c)).length := meets (by decide +kernel)
/-- A task record at 0x3000: kernel 0, of 1 or of no blocks, and one of kernel 9. -/
def spawnRec (kobj n : Nat) : List (Nat × List Nat) := [(0x3000, [kobj]), (0x3010, [n])]
theorem witness_spawn : ∃ c, (twoG 0x2000 0x3000 (spawnRec 0 1)).cursor = some c ∧
    can (twoG 0x2000 0x3000 (spawnRec 0 1)) c none [f89.ga, f89.gb] [f89.ga, f89.gb] f89.maskQ 0 0 ∧
    c.g.gval (opReg f89.a) = 0x2000 ∧ c.g.gval (opReg f89.b) = 0x3000 ∧
    (([(0, 1), (0, 0), (9, 1)] : List (Nat × Nat)).map fun x =>
      ((twoG 0x2000 0x3000 (spawnRec x.1 x.2)).lkRead c.c c.b.die c.b.core allLanes 0x3000 32).1.getRight?.map fun bs =>
        (((twoG 0x2000 0x3000 []).kernelFor c.b.ctx (fieldAt bs 0 8)).isLeft, fieldAt bs 0x10 4)) = [some (true, 1), some (true, 0), some (false, 1)] ∧
    ((twoG 0x2000 0x3000 []).spanMiss c.c c.b.die c.b.core 0x2000 16 .both).1 = none ∧
    (twoG 0x2000 0x3000 []).spawnCount c.b.die c.b.core < 256 := meets (by decide +kernel)
/-- Core 0 has 256 spawns that no block has taken up. -/
def spawnFull : State := { base 0 with items := (List.range 256).map fun i =>
  { progItem (base 0) with spawnCore := some (0, 0), id := 1000 + i, dist := i, queued := true } }
theorem witness_spawn_full :
    256 ≤ (spawnFull).spawnCount 0 0 ∧ ((spawnFull.cursor).any fun c => (spawnFull.enqueueChildren c (progKernel 0) 0 0x2000 1 1 true).items.any fun i =>
      i.id == spawnFull.uid && !i.queued) = true ∧ ((base 0).items.all fun i => i.id != (base 0).uid) = true := by
  decide +kernel
theorem witness_spawn_misaligned : (0x3008 % 32 ≠ 0 ∧ 0x2008 % 16 ≠ 0) ∧ ∃ c, (twoG 0x2008 0x3008 []).cursor = some c ∧
    can (twoG 0x2008 0x3008 []) c none [f89.ga, f89.gb] [f89.ga, f89.gb] f89.maskQ 0 0 ∧ c.g.gval (opReg f89.a) % 16 ≠ 0 ∧
    c.g.gval (opReg f89.b) % 32 ≠ 0 := ⟨by decide, meets (by decide +kernel)⟩


/-! ## Class SYS, traps and handlers -/

/-- The kernel has a handler of cause 0x0A at 256 bytes into its text; the group may run one, on levels `ls`. -/
def handlerS (trapnest : Nat := 0) (ls : List TrapSt := []) (role : Nat := 0) : State :=
  let s := base role fun g => { g with traps := ls, trapnest := BitVec.ofNat 64 trapnest }
  { s with kernels := s.kernels.map fun k => { k with handlers := k.handlers.set 0x0A 256 } }
def lvl (cause : Nat := 0x0A) : TrapSt :=
  { frame := 0x123000, bank := 0x125C00, nest := false, cause := cause, amask := allLanes, start := 0, guarded := true, sdepth := 0,
    tokOpen := 0, slot := 0, other := none, otherAt := none, trapped := { clause := progBase, index := 0, mask := allLanes } }
def mis : Fault2 := { cause := 0x0A }
theorem witness_entry_target : ∃ c, handlerS.cursor = some c ∧ c.g.traps = [] ∧ c.ref.slot < 2 ∧ c.g.index = c.ref.grp ∧ c.g.v.length = 64 ∧
    c.g.g.length = 64 ∧ handlerOf c.k 0x0A = some (progBase + 256) ∧ handlerOf c.k 0x0B = none ∧ handlerOf c.k 0x22 = none ∧
    handlerOf c.k 8 = some supBase := meets (by decide +kernel)
theorem witness_entry_frame : ∃ c, handlerS.cursor = some c ∧
    ((handlerS.dropRefs c.ref.blk c.ref.grp (some c.ref.slot)).vwriteAll c.c c.b.die c.b.core
      [(frameAt c, frameBytes c.g c.p c.ref.slot mis c.w progBase 0 handlerS.ct (bankAt c) false)]).isSome = true := meets (by decide +kernel)
theorem witness_entry_bank : ∃ c, handlerS.cursor = some c ∧
    ((handlerS.dropRefs c.ref.blk c.ref.grp (some c.ref.slot)).vwriteAll c.c c.b.die c.b.core
      ((frameAt c, frameBytes c.g c.p c.ref.slot mis c.w progBase 0 handlerS.ct (bankAt c) false) :: bankWrites c.g (bankAt c))).isSome = true :=
  meets (by decide +kernel)
/-- The area that `trapnest` names is at 0x3000, and EN is set: a trap of the handler enters another. -/
def nestedS : State := handlerS 0x3001 [lvl]
theorem witness_nested_entry : ∃ c, nestedS.cursor = some c ∧ c.g.traps = [lvl] ∧ c.ref.slot < 2 ∧ c.g.index = c.ref.grp ∧ c.g.v.length = 64 ∧
    c.g.g.length = 64 ∧ handlerOf c.k 0x0A = some (progBase + 256) ∧ c.g.trapnest.getLsbD 0 = true ∧ c.g.trapnest.toNat / 4096 % 2 ^ 45 * 4096 = 0x3000 ∧
    (((nestedS.dropRefs c.ref.blk c.ref.grp (some c.ref.slot)).reach c.c c.b.die c.b.core 0x3000 4096 .write).1.isRight) = true :=
  meets (by decide +kernel)
theorem witness_nested_frame : ∃ c, nestedS.cursor = some c ∧
    ((nestedS.dropRefs c.ref.blk c.ref.grp (some c.ref.slot)).vwriteAll c.c c.b.die c.b.core
      ((0x3000, frameBytes c.g c.p c.ref.slot mis c.w progBase 0 nestedS.ct 0x3800 true) :: bankWrites c.g 0x3800)).isSome = true :=
  meets (by decide +kernel)
/-- Traps without a handler: Kill, NAP_LATE on the user timeline, a failed and another binding, and CANCELLED. -/
def defaultTraps : List Fault2 :=
  [{ cause := 0x0B }, { cause := 0x11, detail := 0, ext := [5, 0, 0] }, { cause := 0x16, faddr := 0x1000 }, { cause := 0x16, sub := 1 }, { cause := 0x22 }]
theorem witness_default_actions : ∃ c, handlerS.cursor = some c ∧ c.g.traps = [] ∧ ∀ f ∈ defaultTraps, handlerOf c.k f.cause = none ∧
    ((handlerS.dropRefs c.ref.blk c.ref.grp (some c.ref.slot)).vwriteAll c.c c.b.die c.b.core
      [(frameAt c, frameBytes c.g c.p c.ref.slot f c.w c.p.clause c.p.index handlerS.ct (bankAt c) false)]).isSome = true := meets (by decide +kernel)
theorem witness_double_trap : (∃ c, (handlerS 0 [lvl]).cursor = some c ∧ c.g.traps = [lvl] ∧ c.g.trapnest.getLsbD 0 = false) ∧
    ∃ c, (handlerS 1 [lvl, lvl]).cursor = some c ∧ c.g.traps = [lvl, lvl] :=
  ⟨meets (by decide +kernel), meets (by decide +kernel)⟩
theorem witness_traps_and_registers : ∃ c, (base 0).cursor = some c ∧ can (base 0) c none [] [] (·.maskQ (vi true).gp (vi true).gi) 0 0 ∧
    can (base 0) c none [gfld (v3 true).d] [] (v3 true).maskQ 0 1 ∧ c.g.index = c.ref.grp ∧ c.g.flights = [] ∧
    can (base 0) c none [gfld (vi true).d] [] (·.maskQ (vi true).gp (vi true).gi) 0 1 ∧
    can (base 0) c none [gsrc (vi true).a 1 1] [gsrc (vi true).a 1 1] (·.maskQ (vi true).gp (vi true).gi) 0 0 ∧
    BitVec.ofNat 64 (c.g.gval (opReg (vi true).a)) &&& ~~~(writable 3) ≠ 0 ∧
    BitVec.ofNat 64 (c.g.gval 0) &&& ~~~(writable 0) = 0 := meets (by decide +kernel)
def storing (s : State) : State :=
  { s with blocks := s.blocks.map fun b => { b with groups := b.groups.map fun g =>
      { g with flights := [{ id := 77, slot := 0, due := some 9, cls := .ds, store := true }] } } }
theorem witness_outstanding_store : ∃ c, (storing (handlerS 0 [lvl])).cursor = some c ∧
    can (storing (handlerS 0 [lvl])) c none [] [] (·.maskQ (vi true).gp (vi true).gi) 0 0 ∧ c.p.mask ≠ 0 ∧ c.g.traps = [lvl] ∧
    c.g.flights.any (fun fl => fl.cls == .ds && !fl.arrived) = true := meets (by decide +kernel)

/-- A handler whose frame in memory is the one that entry wrote, or has a 1 in a reserved bit of its byte 2. -/
def framed (good : Bool) : State :=
  match handlerS.cursor with
  | none => handlerS
  | some c =>
    { handlerS 0 [lvl] with mem := if good then Memory.writeN handlerS.mem (frameAt c) (frameBytes c.g c.p 0 mis c.w progBase 3 0 (bankAt c) false)
                                   else Memory.writeN handlerS.mem (frameAt c + 2) [0xFF] }
theorem witness_bad_frame : ∃ c, (framed false).cursor = some c ∧ c.p.mask ≠ 0 ∧ c.g.traps = [lvl] ∧ c.g.flights = [] ∧
    (((framed false).vread c.c c.b.die c.b.core lvl.frame 0x180).1.any fun bs => (Frame.ofBytes bs).bad lvl c.g) = true :=
  meets (by decide +kernel)
theorem witness_return : ∃ c, (framed true).cursor = some c ∧ c.g.traps = [lvl] ∧ c.g.flights = [] ∧ c.g.exited ≠ allLanes ∧
    c.g.toks.all (fun x => !x.isOpen && !x.held) = true ∧
    (((framed true).vread c.c c.b.die c.b.core lvl.frame 0x180).1.any fun bs =>
      let fr := Frame.ofBytes bs
      !fr.bad lvl c.g && lvl.amask &&& ~~~fr.amask == 0 && fr.amask &&& c.g.exited == 0 && fr.amask != 0 && fr.other.2 % 2 ^ 32 == 0 &&
        fr.sdepth == 0 && fr.slot == 0 && fr.bank == 0x125C00 && fr.mapV == 255 && fr.mapG == 255) = true := meets (by decide +kernel)
theorem witness_returned_bank : ∃ c, (framed false).cursor = some c ∧
    ((framed false).reach c.c c.b.die c.b.core 0x125C00 0x480 .read).1.isRight = true ∧
    (let kept := { c.g with g := c.g.g.take 56, v := c.g.v.take 56 }
     (framed false).allocFor c.b c.k c.ref.grp kept.heldV kept.heldG 8 8 = .ok) := meets (by decide +kernel)

/-- The same handler in a res block whose kernel's max-live is 60 registers, and in a block whose pool others have filled. -/
def returning (res : Bool) : State :=
  let s := framed true
  { s with
    kernels := s.kernels.map fun k => { k with vmax := 60 }
    blocks := (s.blocks.map fun b => { b with clsL := if res then 2 else 1 }) ++ if res then [] else (List.range 64).map fun i =>
      { progBlock s 0 with
        id := i + 1, groups := [{ Group.start 0 0 0 1 1 0 0 1 progBase allLanes with v := List.replicate 64 (some { val := [], dead := 0 }) }] } }
theorem witness_return_registers : ∀ res ∈ [true, false], ∃ c, (returning res).cursor = some c ∧ c.g.traps = [lvl] ∧
    ((returning res).vread c.c c.b.die c.b.core 0x125C00 0x480).1.isSome = true ∧
    (let kept := { c.g with g := c.g.g.take 56, v := c.g.v.take 56 }
     (returning res).allocFor c.b c.k c.ref.grp kept.heldV kept.heldG 8 8 = if res then .maxLive else .stall) := by
  intro res h
  simp only [List.mem_cons, List.not_mem_nil, or_false] at h
  obtain rfl | rfl := h <;> exact meets (by decide +kernel)
/-- The granule that address 0x3000 of a context lies in. -/
def s0x3000 (s : State) (c : Ctx) : Nat := match s.reach c 0 0 0x3000 8 .read 9 with | (.inr (p :: _), _) => p.pa / 64 | _ => 0
/-- A supervisor's handler with a page request record at 0x3000: its address, and a template with V set or clear. -/
def supS (va tmpl : Nat) : State :=
  let s := twoG 0x3000 0x1000 [(0x3000, [va % 256, va / 256]), (0x3008, [tmpl])]
  { s with blocks := s.blocks.map fun b => { b with groups := b.groups.map fun g =>
      { g with traps := [lvl 8], slot0 := g.slot0.map fun p => { p with clause := supBase } } } }
theorem witness_supervisor : (∃ c, (base 0).cursor = some c ∧ c.supervisor = false ∧ can (base 0) c none [f89.ga] [f89.ga] f89.maskQ 0 0 ∧
      can (base 0) c none [f89.ga, f89.gb] [f89.ga, f89.gb] f89.maskQ 0 0) ∧
    (∃ c, (supS 0x4000 1).cursor = some c ∧ c.supervisor = true ∧ can (supS 0x4000 1) c none [f89.ga] [f89.ga] f89.maskQ 0 0 ∧
      passes (supS 0x4000 1) c true allLanes (fun _ => c.g.gval (opReg f89.a)) 32 .both 7 ∧
      (supS 0x4000 1).vword c.c c.b.die c.b.core 0x3008 8 % 2 = 1) ∧
    ∃ c, (supS 0x4000 0).cursor = some c ∧ c.supervisor = true ∧ (supS 0x4000 0).vword c.c c.b.die c.b.core 0x3008 8 % 2 = 0 ∧
      c.ref.slot < 2 ∧ (supS 0x4000 0).curClass c.b ≤ 2 :=
  ⟨meets (by decide +kernel), meets (by decide +kernel), meets (by decide +kernel)⟩
/-- The bytes of a request record: good ones, poisoned ones, and those of a group whose handler holds a cancellation back. -/
def heldBackS : State :=
  let s := supS 0x4000 0
  { s with blocks := s.blocks.map fun b => { b with groups := b.groups.map fun g => { g with cancel := some (0, 0) } } }
def recordOf (s : State) (c : Cur) : Option (List Byte × Bool) := match (s.checkLanes c (fun _ => c.g.gval (opReg f89.a)) 32 .both 7 (accessors true allLanes)) with
  | ((_, xs), t) => some (t.readPieces (xs.headD (0, [])).2).1
theorem witness_request_record : ∃ c, (supS 0x4000 1).cursor = some c ∧
    (recordOf (supS 0x4000 1) c).any (fun x => !x.2 && leVal (x.1.take 8) == 0x4000 && leVal ((x.1.drop 8).take 8) % 2 == 1) = true ∧
    (recordOf { supS 0x4000 1 with poison := [s0x3000 (supS 0x4000 1) c.c] } c).any (·.2) = true := meets (by decide +kernel)
theorem witness_held_back : ∃ c, heldBackS.cursor = some c ∧ c.supervisor = true ∧ can heldBackS c none [f89.ga] [f89.ga] f89.maskQ 0 0 ∧
    (recordOf heldBackS c).any (fun x => !x.2 && leVal ((x.1.drop 8).take 8) % 2 == 0) = true ∧ c.g.cancel ≠ none ∧
    c.g.traps.getLast?.any (fun l => !l.trapped.cancelled) = true ∧ c.ref.slot < 2 ∧ heldBackS.curClass c.b ≤ 2 := meets (by decide +kernel)
/-- A page of the context that is mapped still, and one whose leaf has been cleared. -/
def mappedS : State :=
  let s := base 0
  match (s.walk 0x3000 5 progCtx.ptroot) with
  | .leaf e => { s with pages := [{ ctx := 0, va := 0x3000, size := leafSize e, frame := leafFrame e }] }
  | _ => s
def freedS : State := { State.reset with ctxs := [{ progCtx with ptroot := 0x100000 }], pages := [{ ctx := 0, va := 0x3000, size := 0, frame := 0x8000 }] }
theorem witness_mapped_page : mappedS.pages.any (fun p => (mappedS.ctx? p.ctx).any fun c => mappedS.isMapped c p && decide (p.size < 12) &&
    p.frame % 2 ^ pageLog p.size == 0 && decide (p.va ≤ p.va) && !decide (0x3001 ≤ p.va)) = true := by decide +kernel
theorem witness_freed_page : (0x8000 % 2 ^ pageLog 0 = 0 ∧ 2 ^ pageLog 0 = 4096 ∧ (freedS.ctx? 0).map (·.ptroot) = some 0x100000) ∧
    ∀ off < 4096, ∀ e, freedS.walk (0x3000 + off) 5 0x100000 ≠ .leaf e := by
  refine ⟨by decide +kernel, fun off h e => ?_⟩
  have h0 : (0x3000 + off) / 2 ^ (12 + 9 * 4) % 512 = 0 := by omega
  have h1 : freedS.phys 0x100000 8 = 0 := by decide +kernel
  have h2 : freedS.walk (0x3000 + off) 5 0x100000 = .miss := by
    unfold State.walk
    simp only [h0, Nat.mul_zero, Nat.add_zero, h1]
    rfl
  rw [h2]
  exact Walk.noConfusion
/-- The record's address is not a multiple of 32. -/
def supOdd : State := { supS 0 0 with blocks := (supS 0 0).blocks.map fun b => { b with groups := b.groups.map (setG 8 0x3001) } }
theorem witness_pgmap_misaligned : ∃ c, supOdd.cursor = some c ∧ c.supervisor = true ∧ can supOdd c none [f89.ga] [f89.ga] f89.maskQ 0 0 ∧
    c.g.gval (opReg f89.a) < 2 ^ 57 ∧ c.g.gval (opReg f89.a) % 32 ≠ 0 := meets (by decide +kernel)
/-- A load goes on, and the TLB of a core has an entry of its page, which a migration may have moved away. -/
def usedPage (moved : Bool) : State :=
  let s := supS 0 0
  { s with
    tlb := [{ die := 0, core := some 0, ctx := 0, va := 0x3000, logSize := 12, leaf := 0x3043 }]
    migs := if moved then [{ base := 0x3000, size := 4096, newBase := some 0x8000, wver := 0 }] else []
    blocks := s.blocks.map fun b => { b with groups := b.groups.map fun g => { g with flights := [{ id := 77, slot := 0, due := none, cls := .dl }] } } }
theorem witness_pginv_waits : ∀ moved ∈ [true, false], ∃ c, (usedPage moved).cursor = some c ∧ c.supervisor = true ∧
    can (usedPage moved) c none [f89.ga, f89.gb] [f89.ga, f89.gb] f89.maskQ 0 0 ∧ (usedPage moved).usersOf c.b.ctx = [.flight 77] ∧
    (usedPage moved).tlb.all (usedPage moved).forwarded = moved ∧ c.g.flights.all (fun fl => fl.cls == .dl) = true := by
  intro moved h
  simp only [List.mem_cons, List.not_mem_nil, or_false] at h
  obtain rfl | rfl := h <;> exact meets (by decide +kernel)
theorem witness_pginv : ∃ c, (supS 0 0).cursor = some c ∧ can (supS 0 0) c none [f89.ga, f89.gb] [f89.ga, f89.gb] f89.maskQ 0 0 ∧
    (let va := c.g.gval (opReg f89.a)
     let n := c.g.gval (opReg f89.b)
     va % 4096 = 0 ∧ n % 4096 = 0 ∧ n ≠ 0 ∧ va + n ≤ 2 ^ 57 ∧ c.g.gval 1 % 4096 ≠ 0 ∧ c.g.flights = []) := meets (by decide +kernel)
/-- A path that waits for the host's answer. -/
def hostS : State := base 0 fun g => { g with slot0 := g.slot0.map fun p => { p with cond := .wait (.host 0x4000 0x3010) {} } }
theorem witness_host_wait : (hostS.waiter? { blk := 0, grp := 0, slot := 0 }).any (fun w => w.on = .host 0x4000 0x3010) = true := by
  decide +kernel

/-- A block with a matrix context and a bead in a state, whose g8 names a region of 0x20040 bytes. -/
def accS (st : Option BeadSt) : State :=
  let s := twoG 0x200000 0 []
  { s with blocks := s.blocks.map fun b => { b with mtx := { b.mtx with present := true, beads := st.toList.map fun x => { num := 1, st := x } } } }
theorem witness_accumulators : ∃ c, (accS none).cursor = some c ∧ can (accS none) c none [f89.ga] [f89.ga] f89.maskQ 0 0 ∧ c.b.mtx.present = true ∧
    c.b.mtx.beads = [] ∧ c.g.gval (opReg f89.a) = 0x200000 := meets (by decide +kernel)
theorem witness_image_reached : ((accS none).ctx? 0).any (fun c =>
    (pagesOf 34 0x200000 0x20040).all fun x => ((accS none).reach c 0 0 x.1 x.2 .both).1.isRight) = true := by decide +kernel
theorem witness_accumulators_busy : (∃ c, (base 0).cursor = some c ∧ c.b.mtx.present = false) ∧
    (∃ c, (accS (some .running)).cursor = some c ∧ (c.b.mtx.beads.map (·.st)) = [.running]) ∧
    ∃ c, (accS (some .queued)).cursor = some c ∧ (c.b.mtx.beads.map (·.st)) = [.queued] :=
  ⟨meets (by decide +kernel), meets (by decide +kernel), meets (by decide +kernel)⟩

/-- The image of a block lies in its record, which `witness_bank_loaded` reads; a region holds an image with a reserved byte. -/
theorem witness_stored_image : (bankStored.block? 0).any (fun b => b.mtx.stored) = true ∧ accsOf [] (List.replicate 0x20004 0 ++ [1]) = none := by
  refine ⟨by decide +kernel, ?_⟩
  have h : (List.replicate 0x20004 (0 : Byte) ++ [1]).drop 0x20004 = [1] := List.drop_left' List.length_replicate
  unfold accsOf
  rw [h, if_pos]
  exact Bool.or_eq_true_iff.2 (.inr rfl)
theorem witness_guard_expiry : (({ handlerS 0 [lvl] with ct := 20000 } : State).group? 0 0).any (fun g =>
    g.traps.any fun t => t.guarded && decide (t.start + 20000 ≤ 20000)) = true := by decide +kernel
theorem witness_path_events : ((base 0 fun g => { g with slot0 := g.slot0.map fun p => { p with held := some (mis, {}) } }).group? 0 0).any
      (fun g => (g.slot0.map (·.held)) = some (some (mis, {}))) = true ∧
    ((handlerS 0 [lvl]).group? 0 0).any (fun g => g.traps = [lvl]) = true := by decide +kernel
/-- A path at the program's header, whose DRAIN is 0 and whose CLASPW names no clasp, waits there. -/
def drainS : State := base 0 fun g => { g with slot0 := g.slot0.map fun p => { p with cond := .drain, index := 15 } }
theorem witness_header_drain : ∃ c, drainS.cursor = some c ∧ c.p.cond = .drain ∧
    ((drainS.fetch c.c c.b c.g c.p.clause).1.getRight?.any fun w => (Header.ofWord w).claspw == 31 && drainClasses (Header.ofWord w).drain == []) = true :=
  meets (by decide +kernel)

/-! ## Lockets -/

/-- A sealed locket of kernel 0 with all lanes at the clause, of no registers; `gen` its GEN. -/
def locketBytes : List Byte :=
  patch (lkHeader 0 1 0 0xFF 0 progBase 1 1 0 0 0xFFFFFFFF 352 ++ List.replicate 352 0) 0x38 [26, 60, 65, 88, 53, 73, 230, 105]
/-- A block without clasps whose g8 is 0x3000 and whose g9 is 0x3800, with the locket at 0x3000 in a state. -/
def lkS (st : Nat := 1) (f : Group → Group := id) (la : Nat := 0x3000) (clasps : List Clasp := []) : State :=
  let s := base 0 fun g => f (setG 8 la (setG 9 0x3800 g))
  { s with mem := Memory.writeN (Memory.writeN s.mem 0x3000 locketBytes) 0x3008 (leBytes 4 st)
           blocks := s.blocks.map fun b => { b with clasps := clasps } }
theorem witness_suspend : ∃ c, lkS.cursor = some c ∧ can lkS c none [f89.ga, gfld f89.d] [f89.ga] { f89 with b := 0 }.maskQ 0 0 ∧
    c.g.gval (opReg f89.a) % 128 = 0 ∧ c.g.gval (opReg f89.a) < 2 ^ 57 ∧ c.g.traps = [] ∧ c.b.clasps = [] ∧ c.b.mtx.beads = [] ∧
    c.g.t.all (fun v => viewGen v == 0) = true ∧ opReg { f89 with b := 0 }.b = 0 := meets (by decide +kernel)
theorem witness_suspend_refused :
    (∃ c, (lkS 1 id 0x3001).cursor = some c ∧ c.g.gval (opReg f89.a) % 128 ≠ 0) ∧
    (∃ c, (lkS 1 id (2 ^ 57)).cursor = some c ∧ c.g.gval (opReg f89.a) % 128 = 0 ∧ 2 ^ 57 ≤ c.g.gval (opReg f89.a)) ∧
    (∃ c, (lkS 1 fun g => { g with traps := [lvl] }).cursor = some c ∧ c.g.traps ≠ []) ∧
    ∃ c, (lkS 1 id 0x3000 [{}]).cursor = some c ∧ c.b.clasps ≠ [] :=
  ⟨meets (by decide +kernel), meets (by decide +kernel), meets (by decide +kernel), meets (by decide +kernel)⟩
/-- A block with a bead that is not DONE, one group and a view that names a tensor; a handle that no buffer has. -/
def lkBusy : State :=
  let s := lkS 1 withViews
  { s with blocks := s.blocks.map fun b => { b with mtx := { b.mtx with present := true, beads := [{ num := 1, st := .queued }] } } }
theorem witness_suspend_busy : ∃ c, lkBusy.cursor = some c ∧ c.b.mtx.beads.any (fun x => x.st != .done) = true ∧
    c.b.groups.all (fun g => g.index == c.ref.grp) = true ∧ c.g.t.any (fun v => viewGen v != 0) = true ∧
    handleWrong lkBusy c.b 0x3800 = some 6 := meets (by decide +kernel)
/-- A path that waits to be suspended. -/
def sealing (st : Nat) (la : Nat := 0x3000) (kills : List Nat := []) : State :=
  lkS st fun g => { g with slot0 := g.slot0.map fun p => { p with cond := .suspending 6 la [] kills {} } }
theorem witness_seal : ∃ c, (sealing 4).cursor = some c ∧ c.p.cond = .suspending 6 0x3000 [] [] {} ∧ c.g.flights = [] ∧
    openScopes c.b c.g.index = [] ∧ ((sealing 4).spanMiss c.c c.b.die c.b.core 0x3000 416 .both).1 = none ∧
    (sealing 4).vword c.c c.b.die c.b.core 0x3008 4 = 4 ∧ (sealing 2).vword c.c c.b.die c.b.core 0x3008 4 = 2 := meets (by decide +kernel)
/-- A `suspend` that gives up g8, and one whose region has no page. -/
theorem witness_seal_kills : (∃ c, (sealing 4 0x3000 [8]).cursor = some c ∧ c.p.cond = .suspending 6 0x3000 [] [8] {} ∧ c.g.flights = [] ∧
      (givenUp c.g [8]).gval? 8 = none ∧ (c.g.gval? 8).isSome = true ∧
      ((sealing 4).spanMiss c.c c.b.die c.b.core 0x3000 ((sealing 4).locketOf c.c c.b (givenUp c.g [8]) c.ref c.p 6 [] {}).length .write).1 = none) ∧
    ∃ c, (sealing 4 (2 ^ 40)).cursor = some c ∧ c.p.cond = .suspending 6 (2 ^ 40) [] [] {} ∧ c.g.flights = [] ∧
      ((sealing 4 (2 ^ 40)).spanMiss c.c c.b.die c.b.core (2 ^ 40)
        ((sealing 4).locketOf c.c c.b (givenUp c.g []) c.ref c.p 6 [] {}).length .write).1.isSome = true :=
  ⟨meets (by decide +kernel), meets (by decide +kernel)⟩
theorem witness_locket : locketBytes.length = 416 := by decide +kernel
theorem witness_locket_checked : ((base 0).lkCheck progCtx 0x3000 locketBytes).isRight = true ∧
    ((base 0).lkCheck progCtx 0x3000 (locketBytes.set 0x38 0)).isRight = false := by decide +kernel
/-- The header's checks, each at a locket that it refuses and at one that it lets through. -/
theorem witness_locket_head : fieldAt locketBytes 0 4 = 0x544B4C56 ∧ fieldAt locketBytes 4 2 = 0x0100 ∧ fieldAt locketBytes 0x10 4 = progCtx.num ∧
    fieldAt locketBytes 8 4 = 1 ∧ ((lkS).lkRead progCtx 0 0 allLanes 0x3000 64).1.isRight = true ∧
    (((lkS).spanMiss progCtx 0 0 0x3008 4 .both).1).isNone = true := by decide +kernel
theorem witness_locket_instructions : ∃ c, lkS.cursor = some c ∧ can lkS c none [f89.ga] [f89.ga] f89.maskQ 0 0 ∧
    can lkS c none [f89.ga, f89.gb, gfld f89.d] [f89.ga, f89.gb] f89.maskQ 0 1 ∧ c.g.gval (opReg f89.a) = 0x3000 := meets (by decide +kernel)
theorem witness_claim_refused : ∃ c, (lkS 3).cursor = some c ∧ ((lkS 3).claimLocket c.c c.b.die c.b.core allLanes 0x3000).1.isLeft = true :=
  meets (by decide +kernel)
theorem witness_lkcopy_and_lkdrop : ∃ c, lkS.cursor = some c ∧ (lkS.lkSource c.c c.b.die c.b.core allLanes 0x3000).1.isRight = true ∧
    (lkS.lkDest c.c c.b.die c.b.core allLanes 0x3000 0x3800 locketBytes).1 = none ∧
    (lkS.lkDest c.c c.b.die c.b.core allLanes 0x3000 0x3080 locketBytes).1 ≠ none ∧
    (lkS.spanMiss c.c c.b.die c.b.core 0x3008 4 .both).1 = none ∧ lkHandles locketBytes = [] ∧ (lkS.block? c.ref.blk).isSome = true :=
  meets (by decide +kernel)
theorem witness_lksource_refused : ∃ c, (lkS 4).cursor = some c ∧ ((lkS 4).lkSource c.c c.b.die c.b.core allLanes 0x3001).1.isLeft = true :=
  meets (by decide +kernel)
/-- A queue of four entries of which `n` are used, or one that is off. -/
def rqS (n : Nat) (on : Bool) : State :=
  let s := lkS
  { s with ctxs := s.ctxs.map fun c => { c with rqs := c.rqs.set 0 { base := 0x5000, logCap := 2, en := on, head := 0, tail := n } }
           mem := Memory.writeN s.mem 0x5000 (leBytes 8 0x3000) }
def rqF : V3 := { v3 true with b := 0 }
theorem witness_rqpush : ∃ c, (rqS 1 true).cursor = some c ∧ can (rqS 1 true) c none [rqF.ga] [rqF.ga] rqF.maskQ 0 0 ∧
    (c.c.rqs.getD 0 {}).en = true ∧ (c.c.rqs.getD 0 {}).tail - (c.c.rqs.getD 0 {}).head = 1 ∧ rqF.b.toNat / 8 = 0 ∧
    ((rqS 1 true).spanMiss c.c c.b.die c.b.core 0x5008 8 .write).1 = none := meets (by decide +kernel)
theorem witness_rqpush_refused : (∃ c, (rqS 4 true).cursor = some c ∧ 2 ^ (c.c.rqs.getD 0 {}).logCap ≤ (c.c.rqs.getD 0 {}).tail - (c.c.rqs.getD 0 {}).head) ∧
    ∃ c, (rqS 0 false).cursor = some c ∧ (c.c.rqs.getD 0 {}).en = false := ⟨meets (by decide +kernel), meets (by decide +kernel)⟩
theorem witness_queue_served : ((rqS 1 true).ctx? 0).any (fun c => c.num == 0 && (c.rqs.getD 0 {}).en && (c.rqs.getD 0 {}).head != (c.rqs.getD 0 {}).tail &&
      (List.range 16).all (fun j => j == 0 || !(c.rqs.getD j {}).en) && (c.rqs.getD 0 {}).lrec % 64 == 0 &&
      !(rqS 1 true).recHas c (c.rqs.getD 0 {}).lrec 2) = true := by decide +kernel
theorem witness_queue_refuses : ((rqS 1 true).ctx? 0).any (fun c => ((rqS 1 true).claimLocket c 0 0 allLanes 0x3001).1.isLeft) = true ∧ 1 % 64 ≠ 0 := by
  decide +kernel
/-- A claimed locket that waits for a block, and fits another core. -/
def placedLocket : Item := { progItem (lkS 2) with id := 5, locket := some (0x3000, locketBytes), origin := .locket, spawnCore := none }
def placing : State := { lkS 2 with items := [placedLocket] }
theorem witness_placement : (0, 1) ∈ (budgetS placing).coresFor placedLocket ∧ (budgetS placing).items.find? (·.id = 5) = some placedLocket :=
  ⟨may_place (by decide +kernel), by decide +kernel⟩
theorem witness_placement_slots : placedLocket.locket = some (0x3000, locketBytes) ∧ lkHandles locketBytes = [] ∧
    ((placing.ctx? 0).any fun c => (placing.freeRecord c).isSome) = true ∧ (placing.kernel? 0).any (fun k => !k.roles.contains 1) = true ∧
    (placing.freeBslot 0 1).isSome = true ∧ nextSlot (placing.slotsUsed 0 1) = some 0 := by decide +kernel
/-- The kernel has a role M, whose task ring can be written. -/
theorem witness_placement_ring : (1 ∈ [1, 0]) ∧ (placing.freeRecord progCtx).any (fun n =>
    (placing.vwrite progCtx 0 1 (progCtx.savebase + 0x90000 * n + 0x1000) (List.replicate 4096 0)).1.isSome) = true := by decide +kernel
/-- A block that still awaits one fence: block name 7, copy value 3. -/
def fencing (tl : Nat) (fails : List (Nat × Nat × Nat)) : State :=
  let s := lkS 1 fun g => { g with fences := [(0, 3, 3)] }
  { s with blocks := s.blocks.map fun b => { b with copyTl := tl, failv := fails } }
theorem witness_locket_fences : ((fencing 3 []).block? 0).any (fun b => (fencing 3 []).fenceDue b |>.any fun x => x.2 == 0) = true ∧
    ((fencing 3 []).named 0 0).any (fun b => 3 ≤ b.copyTl && b.failv.isEmpty) = true ∧
    ((fencing 2 []).named 0 0).any (fun b => b.copyTl < 3) = true ∧
    ((fencing 3 [(2, 1, 0x1000)]).named 0 0).any (fun b => b.failv = [(2, 1, 0x1000)]) = true ∧
    ((fencing 3 [(2, 1, 0x1000)]).fenceMet 0 (0, 3, 3)).any (fun x => x.1 = some (2, 1, 0x1000)) = true := by decide +kernel
/-- A locket of a group whose vector register 3 has a dead lane, whose g5 and g9, view 2 and two stack entries are set, and that carries a
buffer. -/
def richGroup (g : Group) : Group :=
  { withViews g with
    v := (List.replicate 64 none).set 3 (some { val := List.replicate 32 7, dead := 2 })
    g := ((List.replicate 64 none).set 5 (some 11)).set 9 (some 13)
    stack := [{ clause := progBase, index := 1, mask := 0xF0 }, { clause := progBase, index := 2, mask := 0xF00 }] }
def richLocket : List Byte := match (lkS 1 richGroup).cursor with
  | some c => (lkS 1 richGroup).locketOf c.c c.b c.g c.ref c.p 6 [65600] {}
  | none => []
/-- What its placement reads, and the buffer that it carries. -/
def richItem : Item := { placedLocket with locket := some (0x3000, richLocket) }
def richPlacing : State := { placing with items := [richItem], bufs := [{ theBuf with st := .carried, holder := 0x3000, holderKind := 0 }] }
theorem witness_rich_placement : (0, 1) ∈ (budgetS richPlacing).coresFor richItem ∧ (budgetS richPlacing).items.find? (·.id = 5) = some richItem :=
  ⟨may_place (by decide +kernel), by decide +kernel⟩
theorem witness_rich_locket : lkHandles richLocket = [65600] ∧ (fieldAt richLocket 0x50 8).testBit 3 = true ∧ (fieldAt richLocket 0x50 8).testBit 4 = false ∧
    (fieldAt richLocket 0x58 8).testBit 5 = true ∧ (fieldAt richLocket 0x58 8).testBit 9 = true ∧ (fieldAt richLocket 0x58 8).testBit 7 = false ∧
    fieldAt richLocket 0x2B 1 = 6 ∧ rankOf (fieldAt richLocket 0x58 8) 9 = 1 ∧ (fieldAt richLocket 0x82 2).testBit 2 = true ∧
    (fieldAt richLocket 0x82 2).testBit 1 = false ∧ (fieldAt richLocket ((lkAt richLocket).vdead) 4).testBit 1 = true ∧
    (fieldAt richLocket ((lkAt richLocket).vdead) 4).testBit 0 = false ∧ fieldAt richLocket 0x7D 1 = 2 := by decide +kernel
theorem witness_carried : Carried richPlacing 0 0 0x3000 65600 { theBuf with st := .carried, holder := 0x3000, holderKind := 0 } ∧
    (richPlacing.freeBslot 0 1).isSome = true ∧ ((richPlacing.ctx? 0).any fun c => (richPlacing.freeRecord c).any fun n =>
      ((richPlacing.vwriteAll c 0 1 [(c.savebase + 0x90000 * n + 0x1000, List.replicate 4096 0),
        (c.savebase + 0x90000 * n + 0x23500, pathBytes progBase 1 0xF0 ++ pathBytes progBase 2 0xF00)]).isSome)) = true := by
  refine ⟨⟨?_, rfl, rfl, rfl⟩, ?_, ?_⟩ <;> decide +kernel
/-- The same locket as an `lkdrop` finds it. -/
def dropS : State := let s := lkS 1; { s with mem := Memory.writeN s.mem 0x3000 richLocket, bufs := richPlacing.bufs }
theorem witness_drop_handles : ∃ c, dropS.cursor = some c ∧ can dropS c none [f89.ga] [f89.ga] f89.maskQ 0 0 ∧
    ((dropS.lkSource c.c c.b.die c.b.core allLanes 0x3000).1.getRight?.any fun bs => lkHandles bs == [65600] && fieldAt bs 0x14 1 == 0) = true ∧
    (dropS.block? c.ref.blk).isSome = true := meets (by decide +kernel)

/-! ## Commands -/

/-- A READY package that the host owns, with host memory `ws` (bus address and bytes), and a command of it. -/
def cmdS (ws : List (Nat × List Nat) := []) (f : State → State := id) : State :=
  let s := base 0
  f { s with owner := some .host, mem := ws.foldl (fun m w => Memory.writeN m w.1 (w.2.map (BitVec.ofNat 8))) s.mem }
def cmd (args : List Nat) (opc : Nat := 0) : Cmd :=
  { master := .host, opc := opc, tag := 9, resv := 0, args := (args ++ List.replicate (7 - args.length) 0).map (BitVec.ofNat 64) }
def served (s : State) (args : List Nat) (used : Nat) : Bool :=
  s.bootstat == 1 && s.owner == some Master.host && ((cmd args).args.drop used).all (· == 0)
theorem served_spec {s : State} {args : List Nat} {used : Nat} (h : served s args used = true) : Served s (cmd args) used := by
  simp only [served, Bool.and_eq_true, beq_iff_eq, List.all_eq_true] at h
  exact ⟨h.1.1, h.1.2, rfl, h.2⟩
def usable (s : State) (n : Nat) : Bool := (s.ctx? n).any fun x => x.st != .faulted && x.st != .free && x.st != .destroying

theorem witness_commands : (cmdS).bootstat = 1 ∧ served cmdS [1, 2, 3] 3 = true ∧ usable cmdS 0 = true ∧
    (cmdS).owner ≠ some .bmc ∧ (cmd [1]).args.drop 0 ≠ List.replicate 7 0 ∧ commandTable.all (fun x => x.1 != 0x05) = true := by
  decide +kernel
/-- An object that is no object, one without sections' kernel, and one that passes FORMAT; its digest is wrong and right. -/
def objectBytes (good : Bool) (digest : List Byte := List.replicate 32 0) : List Byte :=
  let sec := fun (typ off size : Nat) => leBytes 4 typ ++ leBytes 4 0 ++ leBytes 8 off ++ leBytes 8 size ++ leBytes 1 4 ++ leBytes 7 0
  let hdr := leBytes 4 0x4D555753 ++ leBytes 4 0x00010000 ++ leBytes 2 0 ++ leBytes 2 0 ++ leBytes 2 1 ++ leBytes 2 2 ++ leBytes 8 64 ++ leBytes 8 0
  let x := hdr ++ digest ++ sec 1 128 336 ++ sec 2 464 16 ++ leBytes 4 0x4E524B56 ++ List.replicate 332 0 ++ List.replicate 16 0
  if good then x else x.take 8 ++ leBytes 2 7 ++ x.drop 10
theorem witness_object : formatBad (objectBytes true) = false ∧ formatBad (objectBytes false) = false ∧
    fieldAt (objectBytes false) 8 2 ≠ (cmdS).pkg.code ∧ formatBad [] = true := by decide +kernel
theorem witness_load : ((cmdS).vread progCtx 0 0 0x1000 64).1.isSome = true ∧ ((cmdS).vread progCtx 0 0 (2 ^ 40) 64).1 = none ∧
    ((cmdS).loadKernel progCtx [] [] 0).isSome = true ∧
    ((cmdS).kernelRefusal (cmd []) (objectBytes true) (sections (objectBytes true)) 0).isSome = true := by decide +kernel
def goodDigest : List Byte :=
  [96, 123, 55, 249, 242, 9, 61, 49, 136, 239, 216, 175, 130, 35, 203, 110, 130, 253, 224, 117, 97, 113, 89, 81, 137, 194, 71, 156, 59,
   107, 95, 54]
theorem witness_digest : digestOf (objectBytes true goodDigest) = ((objectBytes true goodDigest).drop 32).take 32 := by decide +kernel
theorem witness_wrong_digest : goodDigest ≠ ((objectBytes true).drop 32).take 32 := by decide +kernel
theorem witness_unload : ∀ st ∈ [KState.loaded, .active, .retiring, .retired],
    ((cmdS [] fun s => { s with kernels := s.kernels.map fun k => { k with kobj := 1, st := st } }).kernels.find? fun k =>
      k.kobj = (cmd [0, 1]).arg 1 ∧ k.ctx = 0).map (·.st) = some st := by decide +kernel

/-- A context record: a save area of one record, a tenant, ceiling evt. -/
def recBytes (num tenant : Nat) : List Byte :=
  List.replicate 0x18 0 ++ ([1, 0, tenant, 1, num] : List Nat).map (BitVec.ofNat 8) ++ List.replicate (1024 - 0x1D) 0
def recS : State := cmdS [] fun s => { s with tenants := [{ num := 1, cores := 8, bw := 1, power := 1 }] }
theorem witness_ctx_create : served recS [5, 0] 2 = true ∧ recS.ctx? 5 = none ∧ recS.ctx? 0 ≠ none ∧
    recS.busRead (2 ^ 50) 1024 = none ∧ (recS.busRead 0 1024).isSome = true := by decide +kernel
theorem witness_record_good : recS.recordBad 5 (recBytes 5 1) = none := by decide +kernel
theorem witness_record_bad : recS.recordBad 5 (recBytes 5 2) = some 0x13 := by decide +kernel
theorem witness_ctx_update : usable recS 0 = true ∧ (recS.ctx? 0).map (·.st) = some .running ∧
    ({ recS with ctxs := [{ progCtx with st := .switching }] } : State).ctx? 0 = some { progCtx with st := .switching } := by decide +kernel
/-- A blob with the base point of P-384 as its public key (SEC 2): that it unwraps is up to the private key of the chip. -/
def goodBlob : List Byte :=
  List.replicate 32 0 ++ 4 :: ((leBytes 48 0xAA87CA22BE8B05378EB1C71EF320AD746E1D3B628BA79B9859F741E082542A385502F25DBF55296C3A545E3872760AB7).reverse ++
    (leBytes 48 0x3617DE4A96262C6F5D9E98BF9292DC29F8F41DBD289A147CE9DA3113B5F0B8C00A60B1CE1D7E819D7A431D7C90EA0E5F).reverse ++ List.replicate 127 0)
theorem witness_keys : (({ cmdS with keySlots := [(3, 7, 0)] } : State).keySlots.any fun k => k.1 == 3 && k.2.1 != 0) = true ∧
    (cmdS).keySlots = [] ∧ served cmdS [3, 0, 0] 3 = true ∧ ((cmdS).busRead 0 256).any blobBad = true ∧ (cmdS).busRead (2 ^ 50) 256 = none ∧
    blobBad (List.replicate 32 0 ++ 4 :: List.replicate 223 0) = true ∧ blobBad goodBlob = false := by decide +kernel
theorem witness_tenants : served cmdS [1, 3584, 5, 6] 4 = true ∧ 3584 ≤ (cmdS).pkg.dies * 3584 ∧
    (cmdS).ctxs.any (fun x => x.tenant == 0) = true ∧ (cmdS).ctxs.all (fun x => x.tenant != 1) = true := by decide +kernel
/-- A control block at 0x3000, of a ring of 4 KiB, or with a class that does not exist; a queue 2. -/
def qcbS (cls : Nat) (st : QState := .error) : State :=
  cmdS [(0x3008, [12, 1, cls])] fun s => { s with uqs := [{ num := 2, ctx := 0, qcb := 0x3040, st := st, rbase := 0x6000, logsz := 12, prio := 0, cls := 1 }] }
theorem witness_queues : served (qcbS 1) [0, 1, 0x3000] 3 = true ∧ (qcbS 1).uq? 1 = none ∧ ((qcbS 1).uq? 2).map (·.st) = some .error ∧
    ((qcbS 1 .idle).uq? 2).map (·.st) = some .idle ∧
    (((qcbS 1).vread progCtx 0 0 0x3000 64).1.any fun bs => !qcbBad bs 0 && fieldAt bs 0x14 4 == 0) = true ∧
    (((qcbS 3).vread progCtx 0 0 0x3000 64).1.any fun bs => qcbBad bs 0) = true := by decide +kernel
/-- A window record at 0x3000: an export, an import from this package, or nothing; the host has the feature. -/
def winS (kind : Nat) : State :=
  cmdS [(0x3009, [16]), (0x3014, [kind])] fun s => { s with
    masters := s.masters.map fun m => { m with feat := 0x1F }
    wins := [{ ctx := 0, index := 9, kind := 1, base := 0, size := 4096, peer := 0xFFFF, pexp := 0, cls := 0, exp := 0 }] }
theorem witness_windows : served (winS 1) [0, 5, 0x3000] 3 = true ∧ ((winS 1).master .host).active.getLsbD 2 = true ∧
    ((cmdS).master .host).active.getLsbD 2 = false ∧ (winS 1).win? 0 5 = none ∧ (winS 1).win? 0 9 ≠ none ∧
    (((winS 1).vread progCtx 0 0 0x3000 32).1.any fun bs => !winBad bs && (winOf bs 0 5 0).kind == 1) = true ∧
    (((winS 2).vread progCtx 0 0 0x3000 32).1.any fun bs => !winBad bs && (winOf bs 0 5 0).kind == 2 && (winOf bs 0 5 0).peer == (winS 2).pkgNo &&
      ((winS 2).export? (winOf bs 0 5 0).pexp).isSome) = true ∧
    (((winS 0).vread progCtx 0 0 0x3000 32).1.any winBad) = true ∧ (winS 1).export? 1 = none := by decide +kernel
theorem witness_trust : served cmdS [0, 1] 2 = true ∧ (cmdS).fwsv = 0 ∧ (cmdS).codesv = 0 ∧ (cmdS).fuseFw < fuseRaises ∧
    fuseRaises ≤ ({ cmdS with fuseFw := 63 } : State).fuseFw ∧ ((cmdS).busRead 0 32).isSome = true ∧
    ((cmdS).busWrite 64 (List.replicate 416 0)).isSome = true ∧ 1 ≤ (cmdS).pkg.limit 0 ∧ served cmdS [1] 1 = true := by decide +kernel

/-- A CTX_DESTROY that a switch holds; what comes for the same context waits behind it, for another it is in turn. -/
theorem witness_held_commands : (({ cmdS with heldCmds := [cmd [0] 0x12] } : State).heldCmds.any fun d => ctxNamed d == ctxNamed (cmd [0, 1])) = true ∧
    (∀ x ∈ ({ cmdS with heldCmds := [cmd [0] 0x12] } : State).heldCmds, ctxNamed x ≠ ctxNamed (cmd [1])) ∧ (∀ x ∈ (cmdS).heldCmds, ctxNamed x ≠ ctxNamed (cmd [0])) := by
  decide +kernel
/-- A context that has FAULTED, and a resume queue that an update turns off. -/
theorem witness_ctx_states : (({ cmdS with ctxs := [{ progCtx with st := .faulted }] } : State).ctx? 0).map (·.st) = some .faulted ∧
    (({ base := 0x5000, logCap := 4, en := true, lrec := 0x8000 } : ResumeQ).en = true ∧ ({} : ResumeQ).en = false) := by decide +kernel
theorem witness_reset_command : (({ cmdS with bootstat := 3 } : State).bootstat = 1 ∨ ({ cmdS with bootstat := 3 } : State).bootstat = 3) ∧
    ({ cmdS with bootstat := 3 } : State).owner = some (cmd []).master ∧ (cmd []).resv = 0 ∧ (cmd []).args.all (· == 0) = true := by decide +kernel

/-! ## Queues and packets -/

/-- Queue 2 of the context, at a ring of 4 KiB at 0x6000 that starts with a packet; `f` changes the queue. -/
def packetS (typ flags : Nat) (body : List Nat) (f : UQueue → UQueue := id) (number : Nat := 0) : State :=
  let s := base 0
  { s with
    mem := Memory.writeN s.mem 0x6000 (leBytes 2 number ++ leBytes 1 typ ++ leBytes 1 flags ++ leBytes 2 (body.length + 1) ++
      leBytes 2 0 ++ body.flatMap (leBytes 8))
    uqs := [f { num := 2, ctx := 0, qcb := 0x3040, st := .active, rbase := 0x6000, logsz := 12, prio := 0, cls := 1, slot := some 0,
                tail := body.length + 1 }] }
def takenQ (typ : Nat) (q : UQueue) : UQueue := { q with pkt := some (typ, 0x6000), head := q.tail }
/-- Queue 2 has taken up the packet, and its words can be read. -/
def takenUp (s : State) (typ : Nat) : Bool := (s.uq? 2).any fun q => (s.ctx? q.ctx).any fun c => q.pkt == some (typ, 0x6000) &&
  (s.vread c 0 0 0x6000 8).1.any fun h => (s.pktBytes c q 0x6000 0 (max 1 (fieldAt h 4 2))).isRight

theorem witness_kicks : (packetS 0 0 []).uq? 7 = none ∧ ((packetS 0 0 []).uq? 2).any (fun q => q.ctx == 0 && q.st != .error && q.lseq == 0 &&
    aheadOf q 5 ≤ 2 ^ (q.logsz - 3) && 2 ^ (q.logsz - 3) < aheadOf q 1000) = true := by decide +kernel
theorem witness_reconcile : ({ packetS 0 0 [] with ct := 100000 } : State).lastReconcile + 100000 ≤ 100000 ∧
    (((packetS 0 0 []).uqs.filter fun q => q.st ≠ .destroyed).map (·.num)).Nodup ∧ (packetS 0 0 []).lastPass = 0 := by decide +kernel
theorem witness_mapping : (packetS 0 0 [] fun q => { q with st := .pending, slot := none }).freeQslot = some 0 ∧
    ((packetS 0 0 [] fun q => { q with st := .pending, slot := none }).nextPending []).map (·.num) = some 2 := by decide +kernel
theorem witness_takeup : ((packetS 0 0 []).uq? 2).any (fun q => q.st == .active && q.pkt.isNone && q.head != q.tail && q.ibs.isEmpty &&
      q.nextRead == 0 && standsAt q == 0x6000 && ((packetS 0 0 []).vread progCtx 0 0 0x6000 8).1.any fun bs =>
        fieldAt bs 0 2 == q.pseq && fieldAt bs 2 1 ≤ 7 && fieldAt bs 3 1 == 0 && fieldAt bs 6 2 == 0 && lenAllowed (fieldAt bs 2 1) (fieldAt bs 4 2) &&
          fieldAt bs 4 2 ≤ 2 ^ (q.logsz - 3)) = true ∧
    ((packetS 9 0 []).vread progCtx 0 0 0x6000 8).1.any (fun bs => 7 < fieldAt bs 2 1) = true ∧
    ((packetS 0 0 [] id 5).vread progCtx 0 0 0x6000 8).1.any (fun bs => fieldAt bs 0 2 != 0) = true ∧
    ((packetS 0 0 [] fun q => { q with nextRead := 0 + 1, ibs := [(0x6000, 0x6008)] }).uq? 2).any (fun q => q.nextRead != 0 && !q.ibs.isEmpty) = true := by
  decide +kernel
theorem witness_plain_packets : takenUp (packetS 0 0 [] (takenQ 0)) 0 = true ∧ takenUp (packetS 4 0 [0x7000, 1] (takenQ 4)) 4 = true ∧
    takenUp (packetS 5 0 [9, 1] (takenQ 5)) 5 = true ∧ takenUp (packetS 6 0 [0x8000] (takenQ 6)) 6 = true ∧
    takenUp (packetS 7 0 [0x3000, 15] (takenQ 7)) 7 = true ∧ takenUp (packetS 3 0 [0x3000, 1, 5] (takenQ 3)) 3 = true := by decide +kernel
theorem witness_wait : (State.recordTarget (packetS 6 0 [0x8000] (takenQ 6)) progCtx 0x8000 1).fault 1 = none ∧
    ({ kind := 10, cls := 0, clsL := 0, name := 0 } : Target).fault 1 ≠ none ∧ (packetS 6 0 [0x8000] (takenQ 6)).recHas progCtx 0x8000 2 = false ∧
    ({ packetS 6 0 [] with mem := Memory.writeN (base 0).mem 0x8008 [2] } : State).recHas progCtx 0x8000 2 = true := by decide +kernel
theorem witness_signals : ((packetS 0 0 [] fun q => { q with sigs := [(9, true, [])] }).uq? 2).any (fun q => q.sigs[0]? == some (9, true, [])) = true := by
  decide +kernel
theorem witness_push : ((packetS 7 0 []).pushResume { progCtx with rqs := [{ base := 0x5000, logCap := 4, en := true }] } 0 0 allLanes 0x3000 0
    |>.getRight?).isSome = true ∧ ((packetS 7 0 []).pushResume progCtx 0 0 allLanes 0x3000 0 |>.getLeft?).isSome = true := by decide +kernel
/-- A launch body of kernel 0 with one block. -/
def bodyOf (kobj nblk lrec : Nat) : List Nat := [kobj, 0, lrec, 0, nblk + 255 * 2 ^ 32, 0]
theorem witness_launch : takenUp (packetS 1 0 (bodyOf 0 1 0) (takenQ 1)) 1 = true ∧
    ((base 0).launchCheck progCtx (LBody.ofBytes ((bodyOf 0 1 0).flatMap (leBytes 8)))).isLeft = true ∧
    (base 0).launchCheck progCtx (LBody.ofBytes ((bodyOf 9 1 0).flatMap (leBytes 8))) = .inr 1 ∧
    (base 0).kernels.find? (fun k => k.kobj = 0 ∧ k.ctx = progCtx.num) = some (progKernel 0) ∧ (progKernel 0).st = .active := by decide +kernel
theorem witness_launch_levels : (base 0).anyCancelled progCtx [0x8000] = false ∧
    ({ base 0 with mem := Memory.writeN (base 0).mem 0x8008 [4] } : State).anyCancelled progCtx [0x8000] = true := by decide +kernel
theorem witness_graph : takenUp (packetS 2 0 [0x8000, 1, 0x9000] (takenQ 2)) 2 = true ∧ 0x8000 % 64 = 0 ∧
    ((packetS 2 0 [0x8000, 1, 0x9000] (takenQ 2)).tcbEdges progCtx 0x9000).all (fun x => (x.1.fault x.2).isNone) = true ∧
    (packetS 2 0 [0x8000, 1, 0x9000] (takenQ 2)).recGet progCtx 0x8000 0x10 8 = 0 := by decide +kernel
/-- A task control block at 0x9000 of class opt, with a successor at 0x9100 of class evt. -/
def edgeS : State := twoG 0 0 [(0x9004, [1]), (0x9008, [0x80, 0x90]), (0x9080, [0, 0x91]), (0x9030, [1, 0, 0, 0, 0, 2]), (0x9130, [1]), (0x9134, [255])]
theorem witness_bad_edge : (edgeS.tcbEdges progCtx 0x9000).any (fun x => (x.1.fault x.2).isSome) = true := by decide +kernel
theorem witness_node : (nodeS 40).nodes[0]?.any (fun x => x.desc == 0x3000 && (List.range 1).find? (fun i => !x.busy.any (·.1 == i)) == some 0 && 32 ≤ x.recs.length) = true ∧
    (nodeS 5).nodes[0]?.any (fun x => x.recs != [] && x.recs.length < 32 && (x.recs.headD (0, 0)).2 + 4000 ≤ ({ nodeS 5 with ct := 4000 } : State).ct) = true ∧
    (((nodeS 40).vread progCtx 0 0 0x3000 64).1.any fun bs => (NodeDesc.ofBytes bs).nbuf == 1 && (NodeDesc.ofBytes bs).kobj == 0) = true ∧
    ((nodeS 40).kernelFor 0 0).isLeft = true ∧ (nodeS 40).anyCancelled progCtx ((nodeS 40).levels progCtx 8 0) = false ∧ ((nodeS 40).reach progCtx 0 0 0 128 .write).1.isRight = true := by decide +kernel
theorem witness_retire : ((base 0).ctx? 0).isSome = true ∧ (0x8000 : Nat) ≠ 0 := by decide +kernel
/-- A launch record at 0x8000 that is CLOSED, with COUNT 1 or 2. -/
def recordS (count : Nat) : State := { base 0 with mem := Memory.writeN (Memory.writeN (base 0).mem 0x8000 [BitVec.ofNat 8 count]) 0x8008 [1] }
theorem witness_record : ∀ n ∈ [1, 2],
    let t := (recordS n).vset progCtx 0 0 0x8000 8 ((((recordS n).vword progCtx 0 0 0x8000 8 : Int) - 1) % 2 ^ 64).toNat
    (t.vword progCtx 0 0 0x8000 8 == n - 1 && t.vword progCtx 0 0 0x8008 4 == 1 && t.vword progCtx 0 0 0x8010 8 == 0 && t.tcbs.isEmpty) = true := by
  decide +kernel

/-- The ring lies on a page that is not mapped, or beyond the address space. -/
theorem witness_unread_header : ∀ x ∈ ([(2 ^ 40, 8), (2 ^ 57, 9)] : List (Nat × Nat)),
    ((packetS 0 0 [] fun q => { q with rbase := x.1 }).uq? 2).any (fun q => q.st == .active && q.pkt.isNone && q.fault.isNone && q.head != q.tail &&
      ((packetS 0 0 []).reach progCtx 0 0 (standsAt q) 8 .read).1.getLeft?.any fun m => m.cause == x.2) = true := by decide +kernel
/-- A first signal waits for a record that is not DONE, a second for nothing. -/
theorem witness_second_signal : ((packetS 0 0 [] fun q => { q with sigs := [(9, true, [.record 0x8000]), (8, false, [])] }).uq? 2).any (fun q =>
    q.sigs[1]? == some (8, false, []) && q.sigs[0]? == some (9, true, [.record 0x8000]) &&
      !(packetS 0 0 []).workDone progCtx (.record 0x8000)) = true := by decide +kernel
theorem witness_node_work : ((nodeS 5).node? 0 0x3000).isSome = true ∧ (nodeS 5).workDone progCtx (.node 0x3000 0) = true ∧
    (nodeS 5).workDone progCtx (.node 0x3000 1) = false := by decide +kernel
/-- A RECORD packet of one word for a node whose descriptor is good, and bad. -/
theorem witness_record_packet : (1 ≤ 1 ∧ 3 + (1 + 1) / 2 ≤ 4 ∧ 0x3000 % 64 = 0) ∧
    ((nodeS 0).vread progCtx 0 0 0x3000 64).1.any (fun d => !(NodeDesc.ofBytes d).bad) = true ∧
    ((packetS 3 0 [0x3000, 1, 5] (takenQ 3)).vread progCtx 0 0 0x3000 64).1.any (fun d => (NodeDesc.ofBytes d).bad) = true ∧
    (nodeS 0).nodeHeld 0 0x3000 + 1 ≤ 1024 := by decide +kernel
/-- A record at 0x8000 that is DONE, and whose PARENT is 0x9000. -/
theorem witness_member : ({ base 0 with mem := Memory.writeN (Memory.writeN (base 0).mem 0x8008 [2]) 0x8010 [0, 0x90] } : State).recHas progCtx 0x8000 2 = true ∧
    ({ base 0 with mem := Memory.writeN (Memory.writeN (base 0).mem 0x8008 [2]) 0x8010 [0, 0x90] } : State).recGet progCtx 0x8000 0x10 8 = 0x9000 := by
  decide +kernel
/-- A queue whose packet, a LAUNCH or a GRAPH, is of the phase at 0x9000, whose PREV is the record at 0x8000, DONE or not, with a member
of a class. -/
def phaseS (typ st cls : Nat) (body : List Nat) : State :=
  let s := packetS typ 0 body (takenQ typ)
  { s with mem := Memory.writeN (Memory.writeN (Memory.writeN s.mem 0x8008 [BitVec.ofNat 8 st]) 0x9018 [0, 0x80]) 0xA010 [0, 0x90]
           phases := [{ ctx := 0, record := 0x8000, cls := some cls, prom := false }] }
def ofPhase (typ st cls : Nat) : State := phaseS typ st cls (if typ = 1 then [0, 0, 0, 0x9000, 1 + 255 * 2 ^ 32, 0] else [0xA000, 1, 0xB000])
theorem witness_phase_packets : ∀ typ ∈ [1, 2], ∀ cls ∈ [0, 1], takenUp (ofPhase typ 2 cls) typ = true ∧
    prevOf (ofPhase typ 2 cls) progCtx 0x9000 = 0x8000 ∧ (ofPhase typ 2 cls).recGet progCtx 0xA000 0x10 8 = 0x9000 ∧
    ((ofPhase typ 2 cls).uq? 2).any (fun q => q.hold.isNone && q.cls == 1) = true := by decide +kernel
/-- The phase is open where it has no PREV, or PREV is DONE and the hold passes, or stands; it is barred where the check fails, DONE or
not. -/
theorem witness_phase_open : (∀ q, phaseOpen (base 0) progCtx q 0) ∧
    (∀ q, q.cls = 1 → phaseOpen (ofPhase 1 2 1) progCtx q 0x9000) ∧
    (∀ q, q.hold = some 0x8000 → phaseOpen (ofPhase 1 2 0) progCtx q 0x9000) ∧
    ∀ st ∈ [1, 2], ∀ q, q.hold = none → q.cls = 1 → phaseBarred (ofPhase 1 st 0) progCtx q 0x9000 := by
  have p : ∀ st ∈ [1, 2], ∀ cls ∈ [0, 1], prevOf (ofPhase 1 st cls) progCtx 0x9000 = 0x8000 := by decide +kernel
  have d : ∀ cls ∈ [0, 1], (ofPhase 1 2 cls).recHas progCtx 0x8000 2 = true := by decide +kernel
  have f : ((ofPhase 1 2 1).recordTarget progCtx 0x8000 1).fault 1 = none := by decide +kernel
  have b : ∀ st ∈ [1, 2], ((ofPhase 1 st 0).recordTarget progCtx 0x8000 1).fault 1 ≠ none := by decide +kernel
  refine ⟨fun _ => .inl rfl, fun q hq => ?_, fun q hq => ?_, fun st hs q hh hq => ?_⟩
  · refine .inr ?_
    rw [p 2 (by decide) 1 (by decide)]
    exact ⟨d 1 (by decide), .inr (by unfold mayHold; rw [hq]; exact f)⟩
  · refine .inr ?_
    rw [p 2 (by decide) 0 (by decide)]
    exact ⟨d 0 (by decide), .inl (by rw [hq]; exact Option.some_ne_none _)⟩
  · unfold phaseBarred mayHold
    rw [p st hs 0 (by decide), hq]
    exact ⟨by decide, hh, b st hs⟩

/-! ## Placement, residency and switches -/

/-- A state with an item of one block; `i` changes the item. -/
def roomItem : Item := { progItem (base 0) with id := 5, queued := true }
def roomS (i : Item → Item := id) : State := { base 0 with items := [i roomItem] }
theorem witness_block_placement : (0, 1) ∈ (budgetS roomS).coresFor roomItem ∧ (budgetS roomS).items.find? (·.id = 5) = some roomItem :=
  ⟨may_place (by decide +kernel), by decide +kernel⟩
theorem witness_block_slots : roomItem.locket = none ∧ (roomS.takePart roomItem (0, 1)).1.ctx = 0 ∧
    ((roomS.ctx? 0).any fun c => (roomS.freeRecord c).isSome) = true ∧
    (roomS.kernel? 0).any (fun k => (takeSlots ((roomS.takePart roomItem (0, 1)).1.shape k).1 (roomS.slotsUsed 0 1)).isSome) = true ∧
    (roomS.freeBslot 0 1).isSome = true := by decide +kernel
/-- A range that lies above every core, and one that a sibling's core holds. -/
theorem witness_parts : roomItem.node <+: corePath (0, 1) ∧ roomItem.next < roomItem.stop ∧
    let i : Item := { roomItem with node := corePath (0, 0), nblk := 8, stop := 8 }
    let s := roomS fun _ => i
    ¬ i.node <+: corePath (0, 1) ∧ s.partsIn i.dist (stealNodes i (0, 1)).1 = [] ∧ s.partsIn i.dist (stealNodes i (0, 1)).2 = [i] ∧
      i.next + 2 ≤ i.stop := by decide +kernel
theorem witness_ageing : (roomS (fun i => { i with clsL := 1 })).items.any (fun i => (roomS (fun i => { i with clsL := 1 })).itemClass i == 1 &&
    i.ready + 1000000 * (i.level + 1) ≤ ({ roomS with ct := 1000000 } : State).ct) = true := by decide +kernel
/-- A block whose only group is in a state. -/
def groupS (f : Group → Group) (h : Block → Block := id) : State := let s := base 0 f; { s with blocks := s.blocks.map h }
theorem witness_block_completion : ((groupS fun g => { g with st := .exited }).block? 0).any (fun b =>
    b.groups.all (fun g => g.st == .exited && g.flights.isEmpty) && b.reqs.isEmpty && b.mtx.beads.isEmpty) = true := by decide +kernel
theorem witness_spills : ((groupS fun g => { g with victim := true }).spillable 0 0).isSome = true ∧ ((base 0).spillable 0 0).isNone = true ∧
    64 ≤ ({ base 0 with stewards := [((0, 0), 64)] } : State).stewardCount 0 0 ∧ ((base 0).chooseVictim 0 0).isSome = true ∧
    ((groupS fun g => { g with traps := [lvl] }).chooseVictim 0 0).isNone = true ∧
    (let s := groupS fun g => { g with st := .spilled, slotNo := none }
     (s.block? 0).any fun b => b.groups.any fun g => g.st == .spilled && s.canReturn b g) = true := by decide +kernel
/-- A group whose launch is cancelled, with a path in a condition, and a second path. -/
def cancelS (cond : Cond) (fences : List (Nat × Nat × Nat)) (other : Option Cond) (index : Nat) : Group :=
  let g := Group.start 0 0 0 1 1 0 0 1 progBase allLanes
  { g with cancel := some (0, 0x8000), fences := fences, slot0 := g.slot0.map (fun p => { p with cond := cond, index := index, hdrDone := false }),
           slot1 := other.map fun c => { clause := progBase, index := 0, mask := 1, cond := c } }
theorem witness_cancel_delivery : ∀ x ∈ ([(.wait (.join 0) {}, [], none, 0), (.wait (.join 0) {}, [], some (.wait (.join 0) {}), 0),
      (.ready, [(0, 1, 3)], none, 0), (.ready, [], none, 15)] : List (Cond × List (Nat × Nat × Nat) × Option Cond × Nat)),
    let g := cancelS x.1 x.2.1 x.2.2.1 x.2.2.2
    (g.slot0.any fun p => g.cancelDue p == some { cause := 0x22, sub := 0, faddr := 0x8000 }) = true := by decide +kernel
/-- A reference of class res on block 0, with a budget. -/
def promoS (n : Nat := 0) (queue : Option Nat := none) : State :=
  let s := base 0 fun g => { g with slot0 := g.slot0.map fun p => { p with cond := .wait (.join 0) {} } }
  { s with refs := [{ id := 3, cls := 2, block := some 0, budget := some 0, name := 9, queue := queue,
                      waiter := if queue.isNone then some { blk := 0, grp := 0, slot := 0 } else none }]
           blocks := s.blocks ++ (List.range n).map fun i =>
             let b := progBlock s 0
             { b with id := i + 1, clsL := 0, groups := b.groups.map fun g => { g with v := List.replicate 64 (some { val := [], dead := 0 }) } }
           kernels := if n = 0 then s.kernels else s.kernels.map fun k => { k with vmax := 4096 } }
theorem witness_promotion : (promoS.block? 0).any (fun b => promoS.refClass b == 2 && b.clsL == 1 && !b.resRes && b.st != .saved && promoS.resFits b) = true ∧
    ((promoS 1).block? 0).any (fun b => !(promoS 1).resFits b && !(promoS 1).evicting 0 0 && ((promoS 1).chooseEvict b.die b.core b.id).isSome) = true := by decide +kernel
theorem witness_budget : (promoS.refs.find? (·.id = 3)).any (fun r => r.budget == some 0 && !promoS.refResident r) = true ∧
    (promoS.waiter? { blk := 0, grp := 0, slot := 0 }).isSome = true ∧
    (let s := promoS 0 (some 2)
     ({ s with blocks := s.blocks.map fun b => { b with resRes := true } } : State).refs.any fun r => r.id == 3 && r.waiter.isNone && r.queue == some 2) = true ∧
    (let s : State := { promoS with blocks := promoS.blocks.map fun b => { b with resRes := true } }
     s.refs.any fun r => s.refResident r) = true := by decide +kernel
theorem witness_preemption : ((base 0).block? 0).any (fun b => b.st == .running && (base 0).curClass b != 2 && ((base 0).estimate b).isNone &&
      !(base 0).flushable b && !b.unsavable) = true ∧
    (let s : State := { base 0 with launchMeans := [(0, 1, 5)], kernels := (base 0).kernels.map fun k => { k with idem := true } }
     (s.block? 0).any fun b => ((s.estimate b).any (· < 10000)) && s.flushable b) = true ∧
    ((handlerS 0 [lvl]).block? 0).any (fun b => b.unsavable) = true ∧
    ((groupS id fun b => { b with st := .draining 0 }).block? 0).any (fun b => b.st == .draining 0 && 0 + 10000 ≤ ({ base 0 with ct := 10000 } : State).ct) = true ∧
    ((groupS id fun b => { b with st := .stopping }).block? 0).any (fun b => b.st == .stopping) = true := by decide +kernel
theorem witness_restore : (let s := groupS (fun g => { g with st := .preempted false, slotNo := none }) fun b => { b with st := .saved }
    (s.block? 0).any fun b => s.restorable b 0 1 && (s.freeBslot 0 1).isSome) = true := by decide +kernel
theorem witness_switches : ((base 0).ctx? 0).any (fun c => c.st == .running) = true ∧
    (({ base 0 with ctxs := [{ progCtx with st := .ready }] } : State).ctx? 0).any (fun c => c.st == .ready) = true ∧
    ((base 0).ctxs.filter fun c => c.st = .running ∨ c.st = .switching).length < 64 := by decide +kernel

/-- An ended block with a bead that has HALTED, and a block that is spilled whole. -/
theorem witness_halted_end : ((groupS (fun g => { g with st := .exited })
      fun b => { b with mtx := { b.mtx with beads := [{ num := 1, st := .halted }] } }).block? 0).any (fun b =>
      b.groups.all (fun g => g.st == .exited && g.flights.isEmpty) && b.st != .saved && (b.mtx.beads.find? (·.st = .halted)).isSome) = true ∧
    (((groupS (fun g => { g with victim := true }) fun b => { b with evict := true }).spillable 0 0).any fun x => x.1.evict) = true := by
  decide +kernel
/-- A wait that has ended in this cc, and a path that `rfe` re-entered with a cancellation that was held back. -/
theorem witness_late_cancels :
    ((cancelS (.ended (.join 0) {} none) [] none 3).slot0.any fun p =>
      let q := { p with start := 8 }
      q.start == 7 + 1 && (cancelS (.ended (.join 0) {} none) [] none 3).cancelDue q == some { cause := 0x22, sub := 0, faddr := 0x8000 }) = true ∧
    ((cancelS .ready [] none 3).slot0.any fun p => (cancelS .ready [] none 3).cancelDue { p with owesCancel := true } ==
      some { cause := 0x22, sub := 0, faddr := 0x8000 }) = true ∧ (cancelS .ready [] none 3).suspends = false := by decide +kernel
/-- A saved target that no core can take, since its kernel reserves more registers than a pool has. -/
theorem witness_saved_target : (let s := promoS 1
    let s : State := { s with kernels := s.kernels.map fun k => { k with vfloor := 5000 }
                              blocks := s.blocks.map fun b => if b.id = 0 then { b with st := .saved, groups := b.groups.map fun g => { g with st := .preempted false } } else b }
    (s.block? 0).any fun b => b.st == .saved && s.refClass b == 2 && b.clsL == 1 && !b.resRes && (s.restoreCores b).isEmpty && !s.evicting 0 0 &&
      (s.blocks.all fun y => !y.evict) && ((roomOn s b).findSome? fun k => s.chooseEvict b.die k b.id).isSome) = true := by decide +kernel
/-- A target whose spill has begun. -/
def spillingS : State :=
  let s := promoS
  { s with blocks := s.blocks.map fun b => { b with groups := b.groups.map fun g => { g with victim := true } } }
theorem witness_spill_goes : (spillingS.block? 0).any (fun b => spillingS.refClass b == 2 && b.clsL == 1 && !b.resRes && b.st != .saved &&
      (b.groups.any fun g => g.victim && g.st == .resident) && spillingS.items.all (·.id != 0)) = true ∧
    (promoS.block? 0).any (fun b => b.groups.all fun g => !g.victim) = true := by decide +kernel
/-- A victim of a block in a cancelled level, with a launch record and without. -/
def cancelledSpill (lrec : Nat) : State :=
  let s := groupS (fun g => { g with victim := true }) fun b => { b with lvl := [0x8000], lrec := lrec }
  { s with mem := Memory.writeN s.mem 0x8008 [4] }
theorem witness_cancelled_spill : ∀ lrec ∈ [0, 0x8000], ((cancelledSpill lrec).spillable 0 0).any (fun x =>
    ((cancelledSpill lrec).ctx? x.1.ctx).any fun c => (cancelledSpill lrec).anyCancelled c x.1.lvl) = true := by decide +kernel
/-- A block of a context that has FAULTED, and one that may be flushed, in a level that is not cancelled. -/
theorem witness_faulted_block : (({ base 0 with ctxs := [{ progCtx with st := .faulted }] } : State).block? 0).any (fun b =>
      (({ base 0 with ctxs := [{ progCtx with st := .faulted }] } : State).ctx? b.ctx).any (·.st == .faulted)) = true ∧
    ((base 0).block? 0).any (fun b => !(base 0).blockCancelled b && ((base 0).ctx? b.ctx).any (·.st == .running)) = true := by decide +kernel
/-- A saved opt block of a context that is being switched in, held back by a promotion on the only cores that can take it. -/
def heldOptS : State :=
  let s := base 0
  let b := progBlock s 0
  { s with
    ctxs := [{ progCtx with st := .switching, incoming := true }, { progCtx with num := 1, st := .running }]
    blocks := [{ b with id := 1, ctx := 0, clsL := 0, st := .saved, groups := b.groups.map fun g => { g with st := .preempted false, slotNo := none } },
               { b with id := 2, ctx := 1, clsL := 1, st := .saved, groups := b.groups.map fun g => { g with st := .preempted false, slotNo := none } }]
    refs := [{ id := 3, cls := 2, block := some 2, budget := some 0, name := 9 }] }
theorem witness_held_back_restore : (heldOptS.ctx? 0).any (fun c => c.st == .switching && c.incoming && c.restore.isEmpty) = true ∧
    (heldOptS.block? 1).any (fun b => heldOptS.curClass b == 0 && !(heldOptS.restoreCores b).isEmpty &&
      (heldOptS.restoreCores b).all fun k => heldOptS.effortOn b.die k) = true := by decide +kernel
/-- An item of a launch that a reference of class res names, whose kernel reserves more registers than a pool has; an opt block on
core 0 can make room. -/
def farItem : Item := { progItem (base 0) with id := 50, lvl := [0x8000], clsL := 0, queued := true }
def unplacedS : State :=
  let s := promoS 1
  { s with
    items := [farItem], refs := [{ id := 3, cls := 2, launch := some (0, 0x8000) }]
    kernels := s.kernels.map fun k => { k with vfloor := 5000 } }
theorem witness_unplaced_target : unplacedS.block? 50 = none ∧ unplacedS.items.find? (·.id = 50) = some farItem ∧ unplacedS.itemRefs farItem = 2 ∧
    farItem.own < 2 ∧ (unplacedS.blocks.all fun b => !b.evict) = true ∧
    ((unplacedS.pkg.cores.filter fun y => unplacedS.mayTake farItem y && farItem.hdie.all (· == y.1)).findSome? fun y =>
      unplacedS.chooseEvict y.1 y.2 unplacedS.uid).isSome = true := by decide +kernel
/-- Its context lets it be placed, whatever its tenant's budgets say, and no core can take it. -/
theorem witness_unplaced_cores : (∀ c k, unplacedS.ctx? 0 = some c → unplacedS.kernel? 0 = some k →
      unplacedS.mayPlace farItem c (farItem.shape k).1 = true) ∧ unplacedS.coresFor farItem = [] := by
  constructor
  · intro c k hc hk
    have hf : (match unplacedS.ctx? 0 with
      | some c => farItem.queued && c.st == .running && !(unplacedS.itemClass farItem == 0 && unplacedS.evtAway farItem.ctx) &&
          (unplacedS.freeRecord c).isSome
      | none => false) = true := by decide +kernel
    have hr : (unplacedS.itemRefs farItem == 2) = true := by decide +kernel
    rw [hc] at hf
    simp only [State.mayPlace, hr, Bool.or_true, Bool.and_true]
    exact hf
  · have hn : (match unplacedS.kernel? 0 with
      | some k => unplacedS.pkg.cores.all fun x => !unplacedS.coreFits x.1 x.2 k (farItem.shape k).1 (farItem.own == 2) (farItem.shape k).2
          k.scratch 0 farItem.holds.1 farItem.holds.2
      | none => true) = true := by decide +kernel
    refine List.filter_eq_nil_iff.2 fun x hx h => ?_
    rw [Bool.and_eq_true] at h
    have ha := h.2
    unfold State.admits at ha
    cases hk : unplacedS.kernel? 0 with
    | none => rw [show farItem.kobj = 0 from rfl, hk] at ha; split at ha <;> simp_all
    | some k =>
      rw [hk] at hn
      have hc := (List.all_eq_true.1 hn) x hx
      rw [show farItem.kobj = 0 from rfl, hk] at ha
      split at ha
      · rename_i _ _ _ _ he
        cases he
        simp only [Bool.and_eq_true] at ha
        rw [ha.1.2] at hc
        cases hc
      · cases ha
/-- A budget of a queue, and one whose waiter's context runs. -/
theorem witness_queue_budget : (let s := { promoS 0 (some 2) with uqs := [{ num := 2, ctx := 0, qcb := 0x3040, st := .active, rbase := 0x6000, logsz := 12, prio := 0, cls := 2 }] }
    (s.uqs.find? (·.num = 2)).any (fun u => u.st == .active) && s.refs.all fun r => s.refRuns r && !s.refResident r) = true ∧
    (∀ st ∈ [QState.idle, .pending, .mappedIdle, .saving], let s := { promoS 0 (some 2) with uqs := [{ num := 2, ctx := 0, qcb := 0x3040, st := st, rbase := 0x6000, logsz := 12, prio := 0, cls := 2 }] }
      (s.refs.all fun r => s.refRuns r && !s.refResident r && r.waiter.isNone && r.queue == some 2) = true) ∧
    (promoS.refs.all fun r => promoS.refRuns r) = true := by decide +kernel
/-- A block that has become res while it drained, or waited to be saved. -/
theorem witness_spared : ∀ st ∈ [BState.draining 0, .stopping], ((groupS id fun b => { b with st := st, clsL := 2 }).block? 0).any (fun b =>
    (groupS id fun b => { b with st := st, clsL := 2 }).curClass b == 2 && b.st == st && (base 0).ctxs.any (·.st == .running) &&
      (base 0).bstateKept progCtx b) = true := by decide +kernel
/-- A context that is being switched in, and has nothing left to restore. -/
theorem witness_switched_in : (let s : State := { base 0 with ctxs := [{ progCtx with st := .switching, incoming := true }] }
    (s.ctx? 0).any fun c => c.st == .switching && c.incoming && c.restore.isEmpty && s.blocks.all fun b => (s.restoreCores b).isEmpty) = true := by
  decide +kernel

/-! ## Memory services, the link and the platform -/

/-- A copy and a task that wait for a page; a first-touch window over the address, with a template, or none. -/
def pageS (window : Bool) : State :=
  let s := copyS 10 .faulted
  { s with
    ctxs := s.ctxs.map fun c => if window then { c with ftws := [{ base := 0x3000, len := 4096, template := 0x143 }] } else c
    blocks := s.blocks.map fun b => { b with
      reqs := b.reqs.map fun r => { r with fail := some (6, 2 ^ 40) }
      mtx := { b.mtx with present := true, beads := [{ num := 1, st := .queued, fault := some 0x3000 }] } } }
theorem witness_page_service : ((pageS false).engFault (.copy 0 4)).any (fun x => x.2.2 == 2 ^ 40) = true ∧
    ((pageS false).engFault (.task 0 1)).any (fun x => x.2.2 == 0x3000 && !((pageS false).touchPage x.2.1 x.1 x.2.2).1 &&
      ((pageS true).touchPage { x.2.1 with ftws := [{ base := 0x3000, len := 4096, template := 0x143 }] } x.1 x.2.2).1) = true ∧
    (((pageS false).engFault (.copy 0 4)).any fun x => !((pageS false).touchPage x.2.1 x.1 x.2.2).1 &&
      (((pageS false).touchPage x.2.1 x.1 x.2.2).2.req? 0 4).isSome) = true := by decide +kernel
theorem witness_queue_fault : let s := packetS 1 0 []
    ({ s with uqs := s.uqs.map fun q => { q with fault := some 0x3000 } } : State).engFault (.queue 2) =
      (s.ctx? 0).map (fun c => (0, c, 0x3000)) ∧ (s.uq? 2).isSome = true := by decide +kernel
theorem witness_migration : inMemory State.reset 0x1000 = true ∧ State.reset.controller (0x1000 + 4096 - 1) = State.reset.controller 0x1000 ∧
    (State.reset.migs.filter fun m => State.reset.controller m.base == State.reset.controller 0x1000).length < 64 ∧
    inMemory State.reset (2 ^ 50) = false := by decide +kernel
/-- A context whose first table is at 0x100000 and names in entry 0 the page of frame 0. -/
def leafS : State := { State.reset with ctxs := [{ progCtx with ptroot := 0x100000 }], mem := [(0x100000, 3)] }
theorem witness_migrated_leaves : State.reset.leavesOf 0x1000 4096 = [] ∧ leafS.leavesOf 0 4096 = [0x100000] ∧ leafS.leafIn 0 4096 0x100000 = true ∧
    inMemory leafS 0 = true ∧ leafS.controller (0 + 4096 - 1) = leafS.controller 0 ∧ (0 : Nat) < 12 ∧ 0x1000 % 2 ^ pageLog 0 = 0 := by decide +kernel
theorem witness_open_migrations : (([{ base := 0x1000, size := 4096 }] : List Mig).find? fun m => m.base = 0x1000 ∧ m.newBase = none).map (·.wver) = some 0 ∧
    (([{ base := 0x1000, size := 4096, newBase := some 0x2000, wver := 1 }] : List Mig).find? fun m => m.base = 0x1000 ∧ m.newBase ≠ none).map (·.wver) = some 1 := by
  decide +kernel
/-- A record over a frame that a mapped page names, and one that would move to a frame of another controller, or over another record's. -/
theorem witness_migrated_page : mappedS.pages.any (fun p => inMemory mappedS p.frame && p.frame % 4096 == 0 &&
      (mappedS.ctx? p.ctx).any fun c => mappedS.isMapped c p) = true ∧
    (State.reset.controller (0x2000 + 4096 - 1) = State.reset.controller 0x1000 ∧ inMemory State.reset 0x2000 = true) ∧
    (∀ v ∈ [0, 1], ∀ x ∈ ([{ base := 0x1000, size := 4096, wver := v }] : List Mig), x.newBase ≠ none ∨ x.base = 0x1000 →
      0x2000 + x.size ≤ x.base ∨ x.base + x.size ≤ 0x2000) := by decide +kernel
/-- A frame that has moved once, and one that has moved twice. -/
def movedTwice : State := { State.reset with migs := [{ base := 0x1000, size := 4096, newBase := some 0x8000 }, { base := 0x8000, size := 8192, newBase := some 0x20000 }] }
theorem witness_home : (∀ m ∈ movedTwice.migs, ∀ b, m.newBase = some b → 0x5000 < m.base ∨ m.base + m.size ≤ 0x5000) ∧
    ((movedTwice.migs.map (·.newBase)) = [some 0x8000, some 0x20000] ∧ 0x1000 ≤ 0x1FFF ∧ 0x1FFF < 0x1000 + 4096 ∧ 0x8000 ≤ 0x8000 + (0x1FFF - 0x1000) ∧
      0x8000 + (0x1FFF - 0x1000) < 0x8000 + 8192 ∧ 0x1000 + 4096 ≤ 0x8000 + (0x1FFF - 0x1000)) := by
  refine ⟨?_, by decide +kernel⟩
  intro m hm b _
  simp only [movedTwice, List.mem_cons, List.not_mem_nil, or_false] at hm
  obtain rfl | rfl := hm <;> decide
/-- The dies that count an error of HBM and of the second tier. -/
theorem witness_counting : State.reset.pkg.region 0 = some (.hbm 0) ∧ State.reset.pkg.region (2 ^ 48) = some (.cxl 0) ∧ 0 < State.reset.pkg.dies ∧
    mayCount State.reset 0 0 ∧ mayCount State.reset (2 ^ 48) 1 := by
  have h : State.reset.pkg.region 0 = some (.hbm 0) := by decide +kernel
  have c : State.reset.pkg.region (2 ^ 48) = some (.cxl 0) := by decide +kernel
  refine ⟨h, c, by decide +kernel, ?_, ?_⟩
  · unfold mayCount; rw [h]
  · unfold mayCount; rw [c]; show 1 < State.reset.pkg.dies; decide +kernel
/-- What waits from outside when a fatal error has stopped the dies. -/
theorem witness_fatal_inbox : ∀ i ∈ [Instr.hostMemoryAccess true 0 1 (some [7]), .powerPointSelect 5, .ringConfigWrite .host .cqlog 4, .packageReset []],
    ({ State.reset.fatal 1 with inbox := [i] } : State).inbox = [i] ∧ (State.reset.fatal 1).bootstat = 3 := by decide +kernel
theorem witness_poison : 0x1000 / 64 ∉ State.reset.poison ∧ 0x1000 / 64 ∈ ({ State.reset with poison := [64] } : State).poison ∧
    (({ scratch with bufs := [{ theBuf with poison := [] }] } : State).bufs.find? fun b => b.die = theBuf.die ∧ b.slice = theBuf.slice ∧ b.index = theBuf.index ∧
      b.st ≠ .free).any (fun b => 0 < b.size && b.poison.isEmpty) = true ∧
    ((popS 2).hqs.any fun q => (popS 2).hqs.find? (fun x => x.die = q.die ∧ x.core = q.core ∧ x.num = q.num) == some q && q.poison.isEmpty) = true ∧
    120 * 16 ≤ 1920 ∧ 0 < State.reset.pkg.cxlPorts ∧ (State.reset.fatal 1).inbox = [] := by decide +kernel
theorem witness_host_access : hostReaches State.reset true 0 ∧ hostReaches State.reset true 63 ∧ hostReaches State.reset false (2 ^ 48) ∧
    hostReaches State.reset true (2 ^ 50) := by
  refine ⟨?_, ?_, ?_, ?_⟩
  · have h : State.reset.pkg.region 0 = some (.hbm 0) := by decide +kernel
    simp only [hostReaches, h]
  · have h : State.reset.pkg.region 63 = some (.hbm 0) := by decide +kernel
    simp only [hostReaches, h]
  · have h : State.reset.pkg.region (2 ^ 48) = some (.cxl 0) := by decide +kernel
    simp only [hostReaches, h]
    decide +kernel
  · have h : State.reset.pkg.region (2 ^ 50) = some .host := by decide +kernel
    simp only [hostReaches, h]
/-- A package one of whose ports has a state since ct 0. -/
def portS (st : PState) (ct : Nat := 0) : State := { State.reset with ports := State.reset.ports.set 1 { st := st, lanes := 4 }, ct := ct }
theorem witness_ports : ∀ st ∈ [PState.down, .training, .up, .degraded, .retrain, .failed], PortIn (portS st 100000000) 1 { st := st, lanes := 4 } [st] ∧
    (portS st 100000000).ct ≥ 0 + 100000000 ∧ (portS st 0).pkgNo = 0 := by decide +kernel
/-- The states of a port that leaves UP and of one that becomes active, and the peer that plane 0 has, or has not, reported. -/
theorem witness_port_moves : (∀ x ∈ (portS .up).ports.set 1 { st := .retrain, lanes := 4 }, x.st ∉ [.up, .degraded]) ∧ ((portS .up).ports[1]?).isSome = true ∧
    (portS .training).unsent = [] ∧ ({ st := .training, lanes := 4 } : Port).replay = [] ∧
    64 < (({ st := .up, replays := List.replicate 65 0 } : Port).replays.filter fun t => decide ((portS .up 999999).ct < t + 1000000)).length ∧
    ((portS .training).ports[0]?).bind (·.peer) = none ∧
    (({ portS .training with ports := (portS .training).ports.set 0 { peer := some 5 } } : State).ports[0]?).bind (·.peer) = some 5 ∧ (5 : Nat) ≠ 6 := by decide +kernel
theorem witness_flits : ({ seq := 0, ack := 0, nak := false, kind := 0, cred := 0, dest := 0, src := 0, tag := 0, payload := [], ok := true } : Flit).seq = ({ } : Port).rxSeq ∧
    ({ seq := 5, ack := 0, nak := true, kind := 0, cred := 0, dest := 0, src := 0, tag := 0, payload := [], ok := true } : Flit).seq ≠ ({ } : Port).rxSeq := by decide +kernel
/-- An export of 4 KiB at 0x3000 for any package, and an import with a put. -/
def linkS : State :=
  { base 0 with wins := [{ ctx := 0, index := 1, kind := 1, base := 0x3000, size := 4096, peer := 0xFFFF, pexp := 0, cls := 1, exp := 2 },
                         { ctx := 0, index := 5, kind := 2, base := 0, size := 4096, peer := 1, pexp := 1, cls := 1, exp := 0, puts := 1 }] }
theorem witness_put_delivery : ((linkS.deliver 1 2 0 [(1, false), (2, true)] false) matches .ok _) = true ∧ ((linkS.deliver 1 2 4095 [(1, false), (2, false)] false) matches .refused _) = true ∧
    (linkS.export? 3).isNone = true ∧ (linkS.export? 2).any (fun w => decide (w.size < 4095 + 2)) = true ∧
    (linkS.win? 0 5).any (fun w => w.kind == 2 && 1 ≤ w.puts && w.wtgt < 1 && w.tgtDone.isEmpty) = true := by decide +kernel
theorem witness_untouched : ∀ c ∈ linkS.ctxs, ∀ a, c.touch a = none := by
  intro c hc a
  have h : (linkS.ctxs.all fun c => c.ftws.all (·.len == 0)) = true := by decide +kernel
  have hn : c.ftws.find? (fun w => w.len != 0 && decide (w.base ≤ a) && decide (a < w.base + w.len)) = none :=
    List.find?_eq_none.2 fun w hw => by
      rw [bne, List.all_eq_true.1 (List.all_eq_true.1 h c hc) w hw]
      exact Bool.false_ne_true
  unfold Ctx.touch
  rw [hn]
  rfl
/-- The link has failed for 10 ms; put 1 of the import is block 0's, and a load awaits the answer to request 9. -/
def failedLinkS : State :=
  let s := base 0 fun g => { g with flights := [{ id := 7, slot := 0, due := none, tags := [9] }] }
  { s with wins := linkS.wins.map fun w => { w with owners := [(1, 0, 4, 16)] }, linkDown := some 0, ct := 10000000, unsent := [] }
theorem witness_link_failure : failedLinkS.linkFailed = true ∧ linkS.linkFailed = false ∧
    (failedLinkS.win? 0 5).any (fun w => (w.owners.find? (·.1 = 1)).isSome && 1 ≤ w.puts && decide (w.wtgt < 1) && w.tgtDone.isEmpty) = true ∧
    ({ failedLinkS with wins := failedLinkS.wins.map fun w => { w with wsrc := 1 } } : State).linkFailed = true ∧
    (failedLinkS.blocks.any fun b => b.groups.any fun g => g.flights.any fun f => !f.tags.isEmpty) = true ∧
    (∀ x ∈ [(true, false), (false, true)], ({ failedLinkS with blocks := failedLinkS.blocks.map fun b => { b with
        groups := []
        reqs := if x.1 then [{ id := 4, op := 10, mode := 0, q := [], scope := 9, clasp := none, grp := 0, d := 30, flight := 9, st := .moving, tags := [(9, 0, 0)] }] else []
        mtx := { b.mtx with beads := if x.2 then [{ num := 1, st := .running, tags := [(9, 2 ^ 51, 64)] }] else [] } } } : State).blocks.any fun b =>
          b.reqs.any (fun r => !r.tags.isEmpty) || b.mtx.beads.any fun x => !x.tags.isEmpty) := by decide +kernel
theorem witness_aperture : (linkS.export? 2).any (fun w => w.peer == 0xFFFF && 8 ≤ min w.size (2 ^ 29) && min w.size (2 ^ 29) < 4096 + 8 &&
      (linkS.ctx? w.ctx).any fun c =>
        let r := fun (s : State) (a : Acs) => match s.reach c 0 0 w.base 8 a 9 with | (.inr ps, t) => some (t.readPieces ps).1.2 | _ => none
        let bad : State := { linkS with poison := [s0x3000 linkS c] }
        r linkS .read == some false && r linkS .write == some false && r linkS .both == some false && r bad .read == some true &&
          r bad .both == some true) = true := by decide +kernel
/-- Lanes 0 and 3 of a read of 4 bytes each in one granule, and their bytes as they stand before the answer to request 9. -/
def askedParts : List ApPart :=
  [(0, 0, { pa := 2 ^ 51 + 8, len := 4, key := none }, {}), (3, 0, { pa := 2 ^ 51 + 60, len := 4, key := none }, {})]
def awaiting (d : Option Nat) : Await :=
  { u := false, e := 9, w := 4, d := d, regs := 1, lanes := [(0, 0, false), (3, 0, false)], parts := [(0, 0, 4, 9, 0), (3, 0, 4, 9, 52)], addrs := [] }
/-- Requests of an access: its parts in the domain aperture, with the link up and failed; one part of a store; the answers, with POISON
and without, to an operation that reads and to one that does not. -/
theorem witness_remote : State.reset.linkFailed = false ∧ failedLinkS.linkFailed = true ∧ (∀ p ∈ State.reset.ports, p.st ∉ [.up, .degraded]) ∧
    (∀ x ∈ askedParts, x.2.2.1.pa / 64 = 2 ^ 45 ∧ 0 < x.2.2.1.len ∧ x.2.2.1.pa + x.2.2.1.len ≤ 64 * 2 ^ 45 + 64) ∧ (awaiting none).op = none ∧
    (∀ a ∈ [none, some (awaiting none), some (awaiting (some 16))],
      ({ id := 7, slot := 0, due := none, tags := [9], ask := a } : Flight).tags = [9] ∧ 8 ∉ ({ id := 7, slot := 0, due := none, tags := [9], ask := a } : Flight).tags) ∧
    (∀ bad ∈ [false, true], ((awaiting none).take 9 (List.replicate 56 7) bad).lanes = [(0, 0x07070707, bad), (3, 0x07070707, bad)]) ∧
    (0x01020304 < 2 ^ (8 * 4) ∧ 52 + 4 ≤ (List.replicate 56 (7 : Byte)).length) := by decide +kernel
/-- Engine requests that await one answer, of what they read. -/
theorem witness_engine_answers :
    ({ id := 4, op := 10, mode := 0, q := [], scope := 9, clasp := none, grp := 0, d := 30, flight := 9, st := .moving, tags := [(9, 2 ^ 51, 64)] } : CopyReq).tags =
      [(9, 2 ^ 51, 64)] ∧ ({ num := 1, st := .running, tags := [(9, 2 ^ 51, 64)] } : Bead).tags = [(9, 2 ^ 51, 64)] ∧ 0 < 64 := by decide
/-- A port that becomes active while another holds a flit, and one flit waits. -/
def heldFlits : State :=
  let f : Flit := { seq := 5, ack := 0, nak := false, kind := 1, cred := 0, dest := 1, src := 0, tag := 3, payload := [], ok := true }
  { State.reset with ports := (State.reset.ports.set 0 { st := .retrain, replay := [f, { f with nak := true }] }).set 1 { st := .training, replay := [f] }, unsent := [f] }
theorem witness_held_flits : heldFlits.ports.map (·.replay.length) = [2, 1] ++ (heldFlits.ports.drop 2).map (fun _ => 0) ∧ heldFlits.unsent.length = 1 ∧
    heldFlits.ports.all (fun p => p.st != .up && p.st != .degraded) = true := by decide +kernel
/-- A flash without images, and one whose first image is not signed. -/
theorem witness_boot_fails : ([] : List FwImage).length < 7 ∧ imageSigned { bytes := [], sv := 0, sig := [] } = false := by
  have h : hssValid [] [] [] = false := by decide +kernel
  refine ⟨by decide, ?_⟩
  show (_ && hssValid [] [] []) = false
  rw [h, Bool.and_false]
theorem witness_boot : 7 ≤ (List.replicate 7 ({ bytes := [], sv := 0, sig := [] } : FwImage)).length ∧ State.reset.fwsv ≤ 0 ∧
    0 < ({ State.reset with fwsv := 1 } : State).fwsv ∧ (base 0).bootstat = 1 ∧ (base 0).misses = [] := by decide +kernel
/-- A claim of the management controller with one of the host behind it. -/
theorem witness_two_claims : ({ base 0 with inbox := [.claim .host ⟨true, 7⟩] } : State).inbox.filterMap hostClaim = [⟨true, 7⟩] ∧ (base 0).bootstat = 1 ∧
    (base 0).inbox.filterMap hostClaim = [] ∧ ((7 : W64) ++ ((base 0).master .bmc).low : BitVec 128) ≠ 0 ∧
    ((0 : W64) ++ ((base 0).master .bmc).low : BitVec 128) = 0 ∧ ((7 : W64) ++ ((base 0).master .host).low : BitVec 128) ≠ 0 := by decide +kernel
theorem witness_masters : (base 0).owner = none ∧ (base 0).handover = none ∧ ({ base 0 with owner := some .bmc } : State).owner ≠ none ∧
    ({ base 0 with handover := some (7, 0), ct := 1000000000 } : State).handover = some (7, 0) ∧ (7 : BitVec 128) ≠ 0 ∧
    ((base 0).master .host).cqhead = ((base 0).master .host).cqtail ∧ ((base 0).master .host).owed = 0 ∧
    ((base 0).master .host).written % 2 ^ 32 = ((base 0).master .host).rqcons ∧ 0x50 ∉ [0x10, 0x18, 0x40, 0x48, 0x100, 0x108, 0x110, 0x120, 0x128] := by
  decide +kernel
/-- A host whose ring at 0 holds one entry of a command code. -/
def ringS (opc : Nat) : State :=
  { base 0 with mem := Memory.writeN (base 0).mem (2 ^ 50) [BitVec.ofNat 8 opc]
                masters := (base 0).masters.map fun m => if m.who = .host then { m with cqtail := 1 } else m }
theorem witness_take_up : ∀ opc ∈ [0x63, 0x05], ((ringS opc).master .host).cqhead ≠ ((ringS opc).master .host).cqtail ∧
    ((ringS opc).master .host).room = true ∧ ((ringS opc).busRead ((ringS opc).master .host).cqbase 64).any (fun bs =>
      ((Cmd.ofBytes .host bs).instr.isSome) == (opc == 0x63)) = true := by decide +kernel
theorem witness_power : 105 * 16 < 1681 ∧ 1681 < 120 * 16 ∧ 1519 < 95 * 16 ∧ 95 * 16 ≤ 1520 ∧ 1520 ≤ 105 * 16 ∧ State.reset.coolSince = none ∧
    ({ State.reset with coolSince := some 0, ct := 10000000 } : State).coolSince = some 0 := by decide +kernel

/-! ## The machine -/

/-- The path stands at its instruction, whose words are fetched. -/
theorem witness_at_instruction : ((base 0).block? 0).any (fun b => b.groups[0]?.any fun g => ((base 0).ctx? b.ctx).any fun c => (g.path? 0).any fun p =>
    decide (AtInstruction (base 0) { blk := 0, grp := 0, slot := 0 } b c g p) && (((base 0).fetch c b g p.clause).1.getRight?.any fun hw =>
      (Header.ofWord hw).err.isNone && decide (indexOf p < (Header.ofWord hw).count) &&
        (((base 0).fetchWords c b g p.clause (indexOf p) hw).1.getRight?.any fun w =>
          (decode (clsOf (Header.ofWord w.hdr).cls) w.iw0 none matches .ok _)))) = true := by decide +kernel
/-- A header word that fails, an index beyond its count, an instruction word that is none, and a page without a clause. -/
theorem witness_fetch_faults : (Header.ofWord 0).err.isSome = true ∧ (Header.ofWord 0xA200001F).err = none ∧ (Header.ofWord 0xA200001F).count < 14 ∧
    (decode .alu 0xFFFFFFFF none matches .error _) = true ∧
    ((base 0).block? 0).any (fun b => b.groups[0]?.any fun g => ((base 0).ctx? b.ctx).any fun c =>
      ((base 0).fetch c b g (2 ^ 40)).1.isLeft && ((base 0).fetchWords c b g (2 ^ 40) 1 0xA200001F).1.isLeft) = true := by decide +kernel
/-- A flight that completes, one that writes a system register, and one whose data was poisoned. -/
def flightS (csr : Option (Nat × W64)) (poison : Bool) : State :=
  base 0 fun g => { g with flights := [{ id := 7, slot := 0, due := some 0, csr := csr, poison := if poison then some (1, [0x1000]) else none,
                                         writes := [.g 5 9] }] }
/-- What step does: an event from outside, a package that is not READY, a READY one with nothing to do, one with an event of the
engines, of the others, and a result that is due. -/
theorem witness_step : let s : State := { base 0 with blocks := [], cur := none }
    ({ s with inbox := [.schedulerPass] } : State).inbox = [.schedulerPass] ∧ State.reset.inbox = [] ∧ State.reset.bootstat ≠ 1 ∧
    (s.inbox.isEmpty && s.bootstat == 1 && s.turnsLeft.isEmpty && s.before.isNone && s.turnsOver.after.isNone && s.turnsOver.others.isNone) = true ∧
    (let u : State := { s with handover := some (7, 0), ct := 1000000000 }
     u.before.isNone && u.turnsLeft.isEmpty && u.turnsOver.after.isNone && u.inbox.isEmpty && u.turnsOver.others.isSome) = true ∧
    ((flightS none false).before).isSome = true ∧ (copyS 0 .issued).bootstat = 1 := by decide +kernel
/-- A grant that issues, and one of a path that stands behind the last instruction of its clause, which takes no issue slot. -/
theorem witness_grant : (let s : State := { base 0 with cur := none }
    s.before.isNone && s.turnsLeft.head? == some (0, 0, 0) && ((s.choose exec 0 0 0).any fun x => decide (x.cls ≤ 2) && x.ref.slot == 0) &&
      (s.issueBy exec { blk := 0, grp := 0, slot := 0 }).2 && (match (s.issueBy exec { blk := 0, grp := 0, slot := 0 }).1 with | .next _ => true | _ => false)) = true ∧
    (let s : State := { base 0 (fun g => { g with slot0 := g.slot0.map fun p => { p with index := 15, hdrDone := false } }) with cur := none }
    !(s.issueBy exec { blk := 0, grp := 0, slot := 0 }).2 && (match (s.issueBy exec { blk := 0, grp := 0, slot := 0 }).1 with | .next _ => true | _ => false)) = true := by
  decide +kernel
theorem witness_clock : State.reset.dvfs < 4 ∧ State.reset.ct + 3 < 2 ^ 64 ∧ State.reset.ctFrac < 61200 := by decide +kernel
theorem witness_memory : MemOk State.reset := by decide +kernel
theorem witness_results : ∀ csr ∈ [none, some (0, 1), some (1, 1), some (2, 1), some (3, 1), some (4, 1)], ∀ p ∈ [false, true],
    ((flightS csr p).group? 0 0).any (fun g => (g.flights.find? (·.id = 7)).any fun f => f.id == 7 && f.poison.isSome == p && f.csr == csr) = true := by
  decide +kernel
/-- A result that a path awaits, one that no path is left to await, one of an exited group; poisoned data that is awaited. -/
def awaitedS (st : Bool) (exited poison : Bool) : State :=
  base 0 fun g => { g with
    st := if exited then .exited else g.st
    flights := [{ id := 7, slot := 0, due := some 0, board := true, poison := if poison then some (1, [0x1000]) else none, writes := [.g 5 9] }]
    slot0 := g.slot0.map fun p => { p with board := if st then [7] else [] } }
theorem witness_awaited : ∀ x ∈ [(true, false, false), (false, false, false), (true, true, false), (true, false, true)],
    ((awaitedS x.1 x.2.1 x.2.2).group? 0 0).any (fun g => decide (g.st = .exited) == x.2.1 &&
      (g.flights.find? (·.id = 7)).any fun f => f.poison.isSome == x.2.2 && f.board && ([g.slot0, g.slot1].any fun p => p.any (·.board.contains 7)) == x.1 &&
        g.stack.isEmpty && g.toks.all (·.board.isEmpty) && g.traps.isEmpty) = true := by
  decide +kernel
theorem witness_merge_lengths : (0 : Nat) < (full (merging 0)).v.length ∧ (63 : Nat) < (full (merging 0)).g.length ∧ (full (merging 0)).p.length = 7 ∧
    (full (merging 0)).q.length = 7 := by decide +kernel
/-- A register at the kernel's count, a register without live lanes with STALEEN set and clear, an empty mask. -/
def lackS (en : Bool) : State := base 0 fun g => { g with staleEn := en, v := g.v.set 8 none }
theorem witness_issue_checks : ∃ c, (lackS true).cursor = some c ∧ c.g.staleEn = true ∧ (v3 false).mask c ≠ 0 ∧
    ((v3 false).srcs 1 1 0 ++ [(v3 false).dst 1]).all (fun o => decide (o.num < c.k.vregs)) = true ∧ c.g.absent ((v3 false).srcA 1) ((v3 false).mask c) ≠ 0 ∧
    Room (lackS false) c ((v3 false).mask c) ((v3 false).srcs 1 1 0) 1 0 := meets (by decide +kernel)
/-- A kernel of two registers of each kind, and an instruction whose guard holds for no lane. -/
def smallS : State := let s := base 0; { s with kernels := s.kernels.map fun k => { k with vregs := 2, gregs := 2 } }
theorem witness_register_count : ∃ c, smallS.cursor = some c ∧ ¬ (v3 false).d.toNat < c.k.vregs := meets (by decide +kernel)
theorem witness_empty_mask : ∃ c, (base 0).cursor = some c ∧
    ({ v3 false with ext := some { gp := 0, gi := false, c := 100, pa := 0, pb := 0, rm := 0, sat := false, sub := 0 } } : V3).mask c = 0 :=
  meets (by decide +kernel)
/-- A res block past its max-live, and one that finds no register. -/
def fullS (res : Bool) : State :=
  let s := baseB 0 fun b => { b with clsL := if res then 2 else 1 }
  { s with kernels := s.kernels.map fun k => { k with vmax := 64, vfloor := 16 }
           blocks := s.blocks ++ if res then [] else (List.range 64).map fun i => { progBlock s 0 with
             id := i + 1, groups := [{ Group.start 0 0 0 1 1 0 0 1 progBase allLanes with v := List.replicate 64 (some { val := [], dead := 0 }) }] } }
theorem witness_registers_run_out : (∃ c, (fullS true).cursor = some c ∧ (fullS true).curClass c.b = 2 ∧
      c.k.vmax < (c.g.killAll c.ref.slot ((v3 false).mask c) ((v3 false).srcs 1 1 0)).heldV + 1) ∧
    ∃ c, (fullS false).cursor = some c ∧ (fullS false).curClass c.b < 2 ∧ c.k.vfloor < (c.g.killAll c.ref.slot ((v3 false).mask c) ((v3 false).srcs 1 1 0)).heldV + 1 ∧
      4096 < (fullS false).poolUse c.b.die c.b.core (c.b.id, c.ref.grp) true +
        ((c.g.killAll c.ref.slot ((v3 false).mask c) ((v3 false).srcs 1 1 0)).heldV + 1) := ⟨meets (by decide +kernel), meets (by decide +kernel)⟩
theorem witness_roles : ∃ c, (base 0).cursor = some c ∧ c.g.role ≠ 1 ∧ c.g.role ≠ 2 ∧ (v3 true).ga.num < c.k.gregs ∧ (v3 true).d.toNat < c.k.gregs ∧ (v3 true).gb.num < c.k.gregs ∧
    opReg (cpyW 0).a + 4 ≤ c.k.gregs ∧ opReg (cpyW 0).b < c.k.gregs ∧ (cpyW 0).d.toNat + 2 ≤ c.k.gregs ∧ (mmaW 1).gk.toNat < c.k.gregs := meets (by decide +kernel)
theorem witness_round_trip : (Instr.add { v3 false with ext := none }).WellFormed ∧ (encode (.add { v3 false with ext := none })).isSome = true := by
  decide
theorem witness_frame : ∃ c, (base 0).cursor = some c ∧ c.ref.slot < 2 ∧ ((exec (.mov { v3 false with ext := none }) (base 0)) matches .next _) = true :=
  meets (by decide +kernel)
theorem witness_reads : (0 : Nat) < 64 ∧ (5 : BitVec 9) ≠ 0 ∧ (full (merging 0)).v.length = 64 ∧
    (({ grp := false, num := 8, l := true, field := 1 } : Src).n = 1 ∧ ({ grp := false, num := 8, l := true, field := 1 } : Src).map = []) := by decide +kernel

/-! ## Single steps, with the results that the spec's own cases give -/

/-- The writes of the flight that an instruction adds to the group of the path. -/
def writes (i : Instr) (s : State) : List Wr :=
  match exec i s with
  | .next t => ((t.group? 0 0).bind (·.flights.getLast?)).elim [] (·.writes)
  | _ => []
/-- The predicates that it writes, in its lanes. -/
def predicates (i : Instr) (s : State) : List (Nat × Mask) := (writes i s).filterMap fun w => match w with | .p n m x => some (n, m &&& x) | _ => none
/-- The case after Table ALU-3's `plog p3, p1, p2, 0b0100` (0x22624800): p3 is p1 and not p2. -/
theorem test_plog_step : writes (.plog { s := false, u := false, pd := 3, pa := 1, pb := 2, tt := 4, z := 0, ext := none })
    (base 0 fun g => { g with p := [0, 0xFF00, 0x0FF0, 0, 0, 0, 0] }) = [.p 3 allLanes 0xF000] := by decide +kernel
/-- `movi v3, 0x5678` and then `movhi v3, v3, 0x1234` give 0x12345678 (R146). -/
theorem test_movi_step : writes (.movi { s := false, u := false, d := 3, a := 0, imm := 0, ext := some { gp := 7, gi := false, imm := 0x5678 } }) (base 0) = [.v 3 allLanes (List.replicate 32 0x5678)] := by decide +kernel
theorem test_movhi_step : writes (.movhi { s := false, u := false, d := 3, a := 24, imm := 0, ext := some { gp := 7, gi := false, imm := 0x1234 } })
    (base 0 fun g => { g with v := g.v.set 3 (some { val := List.replicate 32 0x5678, dead := 0 }) }) =
      [.v 3 allLanes (List.replicate 32 0x12345678)] := by decide +kernel
/-- The case of R144: lanes 0 to 15 issue `perm v5, v6, v7` with v7 = 31 - l, and read lanes 31 down to 16. -/
theorem test_perm_step : writes (.perm { s := false, u := false, d := 5, a := 6 * 8, b := 7 * 8, ext := none })
    (base 0 fun g => { g with
      slot0 := g.slot0.map fun p => { p with mask := 0xFFFF },
      v := (g.v.set 6 (some { val := (List.range 32).map (BitVec.ofNat 32), dead := 0 })).set 7
        (some { val := (List.range 32).map fun l => BitVec.ofNat 32 (31 - l), dead := 0 }) }) =
      [.v 5 0xFFFF ((List.range 32).map fun l => if l < 16 then BitVec.ofNat 32 (31 - l) else 0)] := by decide +kernel
/-- Table ALU-4: the first compare, v1 < v2, and the second, v3 = v4 under `.and`, lane by lane. -/
theorem test_compare_steps :
    let v := fun (xs : List Nat) => some ({ val := (xs ++ List.replicate 28 0).map (BitVec.ofNat 32), dead := 0 } : VReg)
    let s := base 0 fun g => { g with
      slot0 := g.slot0.map fun p => { p with mask := 0xF },
      p := [0, 0b0011, 0b1100, 0, 0, 0, 0],
      v := (((g.v.set 1 (v [1, 1, 7, 7])).set 2 (v [5, 5, 5, 5])).set 3 (v [2, 2, 2, 2])).set 4 (v [2, 3, 2, 3]) }
    let f := fun (a b ct cond : Nat) => Instr.cmp { s := false, u := false, pd1 := 1, pd2 := 2, a := BitVec.ofNat 9 (8 * a), b := BitVec.ofNat 9 (8 * b), ext := some { gp := 7, gi := false, ct := BitVec.ofNat 3 ct, cond := BitVec.ofNat 4 cond, typ := 0, pa := 0, pb := 0, z := 0 } }
    predicates (f 1 2 0 2) s = [(1, 0b0011), (2, 0b1100)] ∧ predicates (f 3 4 1 0) s = [(1, 0b0001), (2, 0b1110)] := by
  decide +kernel

end Sys2Proof.Tests
end

section
/-!
PROOFS. The crossbar of Table REG-4, the reads of an operand and the kills of last uses (R113, R120).
-/
namespace Sys2Proof.Proofs
open Sys2Proof.Machine Sys2Proof.Claims Sys2Proof.Laws

/-! ## Masks of lanes -/

theorem testBit_foldl_two_pow (f : Nat → Bool) (n l : Nat) :
    ((List.range n).foldl (fun acc i => if f i then acc + 2 ^ i else acc) 0).testBit l = (decide (l < n) && f l) := by
  induction n generalizing l with
  | zero => simp
  | succ n ih =>
    rw [List.range_succ, List.foldl_append, List.foldl_cons, List.foldl_nil]
    generalize (List.range n).foldl (fun acc i => if f i then acc + 2 ^ i else acc) 0 = acc at ih ⊢
    have hacc : acc < 2 ^ n := Nat.lt_pow_two_of_testBit _ fun i hi => by simp [ih, Nat.not_lt.mpr hi]
    have hbit : (if f n then acc + 2 ^ n else acc).testBit l = (decide (n = l) && f n || acc.testBit l) := by
      cases f n with
      | false => simp
      | true =>
        have hor : acc + 2 ^ n = 2 ^ n ||| acc := by
          simpa [Nat.add_comm] using Nat.two_pow_add_eq_or_of_lt hacc 1
        simp [hor, Nat.testBit_or, Nat.testBit_two_pow]
    rw [hbit, ih]
    by_cases hl : n = l
    · subst hl; simp
    · simp [hl, show l < n + 1 ↔ l < n by omega]

theorem getLsbD_maskOf (f : Nat → Bool) {l : Nat} (hl : l < 32) : (maskOf f).getLsbD l = f l := by
  rw [maskOf, BitVec.getLsbD_ofNat, testBit_foldl_two_pow]
  simp [hl]

theorem getLsbD_allLanes {l : Nat} (hl : l < 32) : allLanes.getLsbD l = true := by
  rw [allLanes, BitVec.getLsbD_allOnes]
  exact decide_eq_true hl

/-! ## The crossbar (Table REG-4) -/

theorem srcLane_eq_sourceLane {x k : Nat} (i : Nat) (hx : x < 4) (h1 : x = 1 → k < 32) (h2 : x = 2 → k < 32) :
    srcLane x k i = sourceLane x k i := by
  match x, hx with
  | 0, _ => rfl
  | 1, _ => exact Nat.mod_eq_of_lt (h1 rfl)
  | 2, _ => simp [srcLane, sourceLane, Nat.mod_eq_of_lt (h2 rfl)]
  | 3, _ => rfl

/-- The block of z lanes around a lane ends within the lanes that z divides. -/
theorem block_end_le {z m i : Nat} (hz : z ∣ m) (hi : i < m) : i - i % z + z ≤ m := by
  obtain ⟨c, rfl⟩ := hz
  have hdiv : i / z + 1 ≤ c := Nat.div_lt_of_lt_mul hi
  have hmul : z * (i / z + 1) ≤ z * c := Nat.mul_le_mul_left z hdiv
  have hsplit := Nat.div_add_mod i z
  rw [Nat.mul_add_one] at hmul
  omega

theorem srcLane_lt {x k i : Nat} (hx : x < 4) (hi : i < 32) (h3 : x = 3 → k < 32 ∨ (32 < k ∧ k < 38)) :
    srcLane x k i < 32 := by
  match x, hx with
  | 0, _ => exact hi
  | 1, _ => exact Nat.mod_lt _ (by decide)
  | 2, _ => exact Nat.mod_lt _ (by decide)
  | 3, _ =>
    by_cases hk : k < 32
    · simpa [srcLane, hk] using Nat.xor_lt_two_pow (n := 5) hi hk
    · have hz : 2 ^ (k % 8) ∣ 32 := Nat.pow_dvd_pow 2 (show k % 8 ≤ 5 by have := h3 rfl; omega)
      have hend := block_end_le hz hi
      have hpos : 0 < 2 ^ (k % 8) := Nat.two_pow_pos _
      have hlane : srcLane 3 k i = i - i % 2 ^ (k % 8) + 2 ^ (k % 8) - 1 - i % 2 ^ (k % 8) := by simp [srcLane, hk]
      omega

/-! ## The fields of an operand (R22) -/

theorem toNat_operandField {n x : Nat} (last : Bool) (hn : n < 64) (hx : x < 4) :
    (BitVec.ofNat 6 n ++ BitVec.ofBool last ++ BitVec.ofNat 2 x).toNat = 8 * n + 4 * last.toNat + x := by
  have hl : last.toNat < 2 := Bool.toNat_lt last
  rw [BitVec.toNat_append, BitVec.toNat_append, BitVec.toNat_ofNat, BitVec.toNat_ofNat, BitVec.toNat_ofBool,
    Nat.mod_eq_of_lt hn, Nat.mod_eq_of_lt hx, ← Nat.shiftLeft_add_eq_or_of_lt hx,
    ← Nat.shiftLeft_add_eq_or_of_lt (i := 1) hl,
    Nat.shiftLeft_eq, Nat.shiftLeft_eq]
  omega

theorem opL_operandField (n x : Nat) (last : Bool) :
    opL (BitVec.ofNat 6 n ++ BitVec.ofBool last ++ BitVec.ofNat 2 x) = last := by
  rw [opL, BitVec.getLsbD_append, BitVec.getLsbD_append]
  simp

/-- An operand of one vector register has the register, the last use, the pattern and the parameter of its field. -/
theorem vsrc_operandField {n x k : Nat} (last : Bool) (hn : n < 64) (hx : x < 4) (hk : k < 64) :
    vsrc (BitVec.ofNat 6 n ++ BitVec.ofBool last ++ BitVec.ofNat 2 x) (BitVec.ofNat 6 k) 1 1 =
      { grp := false, num := n, x := x, par := k, l := last, field := 1 } := by
  have hl : last.toNat < 2 := Bool.toNat_lt last
  rw [vsrc, opL_operandField, opReg, opX, toNat_operandField last hn hx, BitVec.toNat_ofNat, Nat.mod_eq_of_lt hk,
    show (8 * n + 4 * last.toNat + x) / 8 = n by omega, show (8 * n + 4 * last.toNat + x) % 4 = x by omega]

theorem paramShort_eq (x : BitVec 9) : paramShort x = if opX x = 0 ∨ opX x = 1 then 0 else 1 := by
  rw [paramShort]
  congr 1
  exact propext (by omega)

/-! ## Reads -/

theorem read_group (g : Group) {o : Src} (l : Nat) (h : o.grp = true) : g.read o l = (g.gval? o.num).getD 0 := by
  simp [Group.read, Group.gval, h]

/-- A vector read is the number whose digits to the base of a register are the members' lanes, low first. -/
theorem read_vector (g : Group) {o : Src} (l : Nat) (h : o.grp = false) :
    g.read o l = Nat.ofDigits (2 ^ 32) (o.regs.map fun r => (g.lane? r (o.lane l)).getD 0) := by
  simp [Group.read, h, Nat.ofDigits_eq_foldr, List.foldr_map]

theorem regs_one {o : Src} (h : o.n = 1) : o.regs = [o.num] := by simp [Src.regs, h]

theorem read_one (g : Group) {o : Src} (l : Nat) (h : o.grp = false) (hn : o.n = 1) :
    g.read o l = (g.lane? o.num (o.lane l)).getD 0 := by
  simp [read_vector g l h, regs_one hn]

/-- Each member of an operand is read through the same source lane (R120). -/
theorem read_member (g : Group) {o : Src} {j : Nat} (l : Nat) (h : o.grp = false) (hj : j < o.n) :
    g.read o l / 2 ^ (32 * j) % 2 ^ 32 = (g.lane? (o.num + j) (o.lane l)).getD 0 := by
  have hdigits : ∀ d ∈ o.regs.map (fun r => (g.lane? r (o.lane l)).getD 0), d < 2 ^ 32 := by
    intro d hd
    obtain ⟨r, -, rfl⟩ := List.mem_map.mp hd
    exact lane?_getD_lt g r _
  have hlen : j < (o.regs.map fun r => (g.lane? r (o.lane l)).getD 0).length := by simpa [Src.regs] using hj
  rw [read_vector g l h, pow_mul, Nat.ofDigits_div_pow_eq_ofDigits_drop j (by decide) _ hdigits,
    List.drop_eq_getElem_cons hlen, Nat.ofDigits_cons, Nat.add_mul_mod_self_left,
    Nat.mod_eq_of_lt (hdigits _ (List.getElem_mem hlen))]
  simp [Src.regs]

/-! ## Kills -/

/-- The value that a vector register holds in a lane; none where the lane is dead. -/
def laneOf (r : VReg) (l : Nat) : Option Nat := if r.dead.getLsbD l then none else some (r.val.getD l 0).toNat

theorem lane?_eq_bind (g : Group) (n l : Nat) : g.lane? n l = (g.v[n]?).join.bind (laneOf · l) := by
  unfold Group.lane?
  cases (g.v[n]?).join <;> rfl

/-- A kill takes exactly the marked lanes, also where it leaves no live lane and so unmaps the register (R113). -/
theorem laneOf_kill (r : VReg) (m : Mask) {l : Nat} (hl : l < 32) :
    (r.kill m).bind (laneOf · l) = if m.getLsbD l then none else laneOf r l := by
  unfold VReg.kill laneOf
  split
  next hall =>
    have hdead : (r.dead ||| m).getLsbD l = true := by rw [hall, getLsbD_allLanes hl]
    rw [BitVec.getLsbD_or, Bool.or_eq_true] at hdead
    split
    · rfl
    · next hm => simp [hdead.resolve_right hm]
  next => cases hm : m.getLsbD l <;> simp [hm]

/-- The source lanes that an operand reads for the lanes of E. -/
def lanesRead (e : Mask) (o : Src) : Mask := maskOf fun j => (lanesOf e).any fun i => o.lane i == j

theorem getLsbD_lanesRead (e : Mask) {o : Src} {l : Nat} (hmap : o.map = []) (hl : l < 32) :
    (lanesRead e o).getLsbD l = (List.range 32).any fun i => e.getLsbD i && srcLane o.x o.par i == l := by
  rw [lanesRead, getLsbD_maskOf _ hl, lanesOf, List.any_filter]
  simp [Src.lane, hmap]

theorem kill_of_not_last (g : Group) (slot : Nat) (e : Mask) {o : Src} (h : o.l = false) : g.kill slot e o = g := by
  simp [Group.kill, h]

/-- The vector register that stands under a number after a last use of one register. -/
theorem kill_vreg (g : Group) (slot : Nat) (e : Mask) {o : Src} (n : Nat) (hg : o.grp = false) (hl : o.l = true)
    (hn : o.n = 1) (hnum : o.num < g.v.length) :
    ((g.kill slot e o).v[n]?).join =
      if n = o.num then (g.v[n]?).join.bind fun r => r.kill (lanesRead e o &&& ~~~(g.sparedV slot n))
      else (g.v[n]?).join := by
  have hkill : (g.kill slot e o).v = (g.v[o.num]?).join.elim g.v fun r =>
      g.v.set o.num (r.kill (lanesRead e o &&& ~~~(g.sparedV slot o.num))) := by
    simp only [Group.kill, hl, hg, regs_one hn]
    cases hr : (g.v[o.num]?).join <;> simp [hr, lanesRead]
  rw [hkill]
  by_cases h : n = o.num
  · subst h
    cases hr : (g.v[o.num]?).join with
    | none => simpa using hr
    | some r => simp [hnum]
  · cases (g.v[o.num]?).join <;> simp [h, Ne.symm h]

theorem kill_lane (g : Group) (slot : Nat) (e : Mask) {o : Src} (n : Nat) {l : Nat} (hg : o.grp = false) (hn : o.n = 1)
    (hmap : o.map = []) (hnum : o.num < g.v.length) (hlane : l < 32) :
    (g.kill slot e o).lane? n l =
      if o.l = true ∧ n = o.num ∧ ((List.range 32).any fun i => e.getLsbD i && srcLane o.x o.par i == l) = true ∧
          (g.sparedV slot n).getLsbD l = false then none
      else g.lane? n l := by
  cases hl : o.l with
  | false => simp [kill_of_not_last g slot e hl]
  | true =>
    rw [lane?_eq_bind, lane?_eq_bind, kill_vreg g slot e n hg hl hn hnum, ← getLsbD_lanesRead e hmap hlane]
    have hbit : (lanesRead e o &&& ~~~(g.sparedV slot n)).getLsbD l = true ↔
        (lanesRead e o).getLsbD l = true ∧ (g.sparedV slot n).getLsbD l = false := by
      rw [BitVec.getLsbD_and, BitVec.getLsbD_not]
      simp [hlane]
    by_cases h : n = o.num
    · rw [if_pos h]
      cases (g.v[n]?).join with
      | none => simp
      | some r => simp only [Option.bind_some, laneOf_kill _ _ hlane, hbit, eq_true h, true_and]
    · simp [h]

/-- The group register that stands under a number after a last use of one register. -/
theorem kill_greg (g : Group) (slot : Nat) (e : Mask) {o : Src} (n : Nat) (hg : o.grp = true) (hl : o.l = true) (hn : o.n = 1) :
    ((g.kill slot e o).g[n]?).join = if n = o.num ∧ g.sparedG slot n = false then none else (g.g[n]?).join := by
  have hkill : (g.kill slot e o).g = if g.sparedG slot o.num then g.g else g.g.set o.num none := by
    simp only [Group.kill, hl, hg, regs_one hn]
    rfl
  rw [hkill]
  by_cases h : n = o.num
  · subst h
    cases g.sparedG slot o.num with
    | true => simp
    | false => cases hr : g.g[o.num]? <;> simp [List.getElem?_set_self', hr]
  · cases g.sparedG slot o.num <;> simp [h, Ne.symm h]

theorem kill_gval (g : Group) (slot : Nat) (e : Mask) {o : Src} {n : Nat} (hg : o.grp = true) (hn : o.n = 1) (h0 : n ≠ 0) :
    (g.kill slot e o).gval? n = if o.l = true ∧ n = o.num ∧ g.sparedG slot n = false then none else g.gval? n := by
  cases hl : o.l with
  | false => simp [kill_of_not_last g slot e hl]
  | true =>
    rw [Group.gval?, Group.gval?, if_neg h0, if_neg h0, kill_greg g slot e n hg hl hn]
    simp only [true_and, apply_ite (Option.map _), Option.map_none]

/-- Settles O51: the crossbar, the fields, the reads and the kills, each by its lemma. -/
theorem operandReadsAndKills : Obligations.OperandReadsAndKills := by
  refine ⟨?crossbar, ?field, paramShort_eq, ?members, ?group, ?killLane, ?killGroup⟩
  case crossbar =>
    intro x k i hx hi _ h1 h2 h3
    exact ⟨srcLane_eq_sourceLane i hx h1 h2, srcLane_lt hx hi h3⟩
  case field =>
    intro g n x k l last o hn hx hk
    rw [show o = _ from vsrc_operandField last hn hx hk, read_one g l rfl rfl]
    rfl
  case members => exact fun g o j l hg hj => read_member g l hg hj
  case group => exact fun g o l hg => ⟨read_group g l hg, rfl⟩
  case killLane => exact fun g slot e o n l hg hn hmap hnum hl => kill_lane g slot e n hg hn hmap hnum hl
  case killGroup => exact fun g slot e o n hg hn h0 => kill_gval g slot e hg hn h0

end Sys2Proof.Proofs
end

section
/-!
PROOFS. The integer functions of class ALU: the numbers that the model computes are the words that Tables ALU-2 and ALU-3, R139,
R141 and R147 give (R133 to R141, R147).
-/
namespace Sys2Proof.Proofs
open Sys2Proof.Machine Sys2Proof.Num Sys2Proof.Claims

/-! ## Signed readings (R137) -/

theorem ofNat_wrapN (w : Nat) (x : Int) : BitVec.ofNat w (wrapN w x) = BitVec.ofInt w x :=
  BitVec.eq_of_toNat_eq (by
    have hpos : (0 : Int) < 2 ^ w := by positivity
    have hlt : (wrapN w x) < 2 ^ w := by
      rw [wrapN, Int.toNat_lt' (by positivity)]; exact_mod_cast Int.emod_lt_of_pos x hpos
    rw [BitVec.toNat_ofNat, Nat.mod_eq_of_lt hlt, wrapN, BitVec.toNat_ofInt]; push_cast; rfl)

theorem signExt_toNat {w : Nat} (x : BitVec w) : signExt w x.toNat = x.toInt := by
  rw [signExt, Nat.mod_eq_of_lt x.isLt, BitVec.toInt_eq_msb_cond, BitVec.msb_eq_decide]
  simp

/-- Only the low n bits of a number are read. -/
theorem signExt_ofNat (n x : Nat) : signExt n x = (BitVec.ofNat n x).toInt := by
  rw [← signExt_toNat, BitVec.toNat_ofNat, signExt, signExt, Nat.mod_mod]

theorem sx_toNat (s : Bool) {w : Nat} (x : BitVec w) : sx s w x.toNat = readAs s x := by
  rw [sx, readAs, signExt_toNat]

theorem clampInt_eq {lo hi : Int} (h : lo ≤ hi) (x : Int) : clampInt lo hi x = max lo (min x hi) := by
  rw [clampInt]; split_ifs <;> omega

theorem ofNat_satN (s : Bool) (w : Nat) (x : Int) : BitVec.ofNat w (satN s w x) = saturate s w x := by
  have hpos : (0 : Int) < 2 ^ w := by positivity
  have hpos' : (0 : Int) < 2 ^ (w - 1) := by positivity
  rw [satN, ofNat_wrapN, saturate]
  cases s with
  | false => simp [intMin, intMax, clampInt_eq (show (0 : Int) ≤ 2 ^ w - 1 by omega)]
  | true => simp [intMin, intMax, clampInt_eq (show -2 ^ (w - 1) ≤ (2 : Int) ^ (w - 1) - 1 by omega)]

/-! ## Integer arithmetic (Table ALU-2) -/

theorem ofNat_add_toNat {w : Nat} (a b : BitVec w) : BitVec.ofNat w (a.toNat + b.toNat) = a + b := by
  simp [BitVec.ofNat_add]

theorem ofNat_mul_toNat {w : Nat} (a b : BitVec w) : BitVec.ofNat w (a.toNat * b.toNat) = a * b := by
  simp [BitVec.ofNat_mul]

theorem ofNat_sub_toNat {w : Nat} (a b : BitVec w) : BitVec.ofNat w (a.toNat + 2 ^ w - b.toNat) = a - b := by
  have := b.isLt
  rw [BitVec.sub_def]; congr 1; omega

theorem ofNat_mad {w : Nat} (a b c : BitVec w) : BitVec.ofNat w (a.toNat * b.toNat + c.toNat) = a * b + c := by
  rw [BitVec.ofNat_add, ofNat_mul_toNat]; simp

theorem ofNat_mulhi (s : Bool) {w : Nat} (a b : BitVec w) :
    BitVec.ofNat w (wrapN w (sx s w a.toNat * sx s w b.toNat / 2 ^ w)) =
      BitVec.ofInt w (readAs s a * readAs s b / 2 ^ w) := by
  rw [ofNat_wrapN, sx_toNat, sx_toNat]

theorem natAbs_toInt {w : Nat} (a : BitVec w) : a.toInt.natAbs = a.abs.toNat := by
  have := a.isLt
  rw [BitVec.toInt_eq_msb_cond, BitVec.toNat_abs]
  split <;> omega

theorem toNat_abs_eq_iff {w : Nat} (hw : 0 < w) (a : BitVec w) : a.abs.toNat = 2 ^ (w - 1) ↔ a = BitVec.intMin w := by
  have hlt := a.isLt
  have hpow : 2 ^ w = 2 * 2 ^ (w - 1) := by rw [← Nat.pow_succ']; congr 1; omega
  have hmin : (BitVec.intMin w).toNat = 2 ^ (w - 1) := by
    rw [BitVec.toNat_intMin, Nat.mod_eq_of_lt (Nat.pow_lt_pow_right (by decide) (by omega))]
  rw [← BitVec.toNat_inj, hmin, BitVec.toNat_abs, BitVec.msb_eq_decide]
  simp only [decide_eq_true_eq]
  split <;> omega

theorem ofNat_abs (sat : Bool) {w : Nat} (hw : 0 < w) (a : BitVec w) :
    BitVec.ofNat w (let m := (signExt w a.toNat).natAbs; if sat && m == 2 ^ (w - 1) then m - 1 else m) =
      if sat && a == BitVec.intMin w then BitVec.intMax w else if a.msb then -a else a := by
  have habs : (if a.msb then -a else a) = a.abs := rfl
  simp only [signExt_toNat, natAbs_toInt, habs, Bool.and_eq_true, beq_iff_eq, toNat_abs_eq_iff hw]
  split
  next h =>
    refine BitVec.eq_of_toNat_eq ?_
    rw [(toNat_abs_eq_iff hw a).2 h.2, BitVec.toNat_ofNat, BitVec.toNat_intMax,
      Nat.mod_eq_of_lt ((Nat.sub_le _ _).trans_lt (Nat.pow_lt_pow_right (by decide) (by omega)))]
  next => rw [BitVec.ofNat_toNat, BitVec.setWidth_eq]

/-- `min` and `max`: one of two words by the order of a and b as they are read. -/
theorem ofNat_lesser (s : Bool) {w : Nat} (a b x y : BitVec w) :
    BitVec.ofNat w (if sx s w a.toNat ≤ sx s w b.toNat then x.toNat else y.toNat) =
      if readAs s a ≤ readAs s b then x else y := by
  rw [sx_toNat, sx_toNat]; split <;> simp

theorem ofNat_adds (s : Bool) {w : Nat} (a b : BitVec w) :
    BitVec.ofNat w (satN s w (sx s w a.toNat + sx s w b.toNat)) = saturate s w (readAs s a + readAs s b) := by
  rw [ofNat_satN, sx_toNat, sx_toNat]

theorem ofNat_subs (s : Bool) {w : Nat} (a b : BitVec w) :
    BitVec.ofNat w (satN s w (sx s w a.toNat - sx s w b.toNat)) = saturate s w (readAs s a - readAs s b) := by
  rw [ofNat_satN, sx_toNat, sx_toNat]

/-! ## Logic and shifts (Table ALU-3) -/

theorem ofNat_and_toNat {w : Nat} (a b : BitVec w) : BitVec.ofNat w (a.toNat &&& b.toNat) = a &&& b := by
  simp [BitVec.ofNat_and]
theorem ofNat_or_toNat {w : Nat} (a b : BitVec w) : BitVec.ofNat w (a.toNat ||| b.toNat) = a ||| b := by
  simp [BitVec.ofNat_or]
theorem ofNat_xor_toNat {w : Nat} (a b : BitVec w) : BitVec.ofNat w (a.toNat ^^^ b.toNat) = a ^^^ b := by
  simp [BitVec.ofNat_xor]
theorem ofNat_andn {w : Nat} (a b : BitVec w) : BitVec.ofNat w (a.toNat &&& (2 ^ w - 1 - b.toNat)) = a &&& ~~~b := by
  rw [← BitVec.toNat_not, ofNat_and_toNat]
theorem ofNat_orn {w : Nat} (a b : BitVec w) : BitVec.ofNat w (a.toNat ||| (2 ^ w - 1 - b.toNat)) = a ||| ~~~b := by
  rw [← BitVec.toNat_not, ofNat_or_toNat]

theorem ofNat_mul_two_pow {w : Nat} (a : BitVec w) (n : Nat) : BitVec.ofNat w (a.toNat * 2 ^ n) = a <<< n :=
  BitVec.eq_of_toNat_eq (by simp [Nat.shiftLeft_eq])

theorem ofNat_shl {w : Nat} (a b : BitVec w) :
    BitVec.ofNat w (if b.toNat < w then a.toNat * 2 ^ b.toNat else 0) = if b.toNat < w then a <<< b.toNat else 0 := by
  split
  · exact ofNat_mul_two_pow a _
  · rfl

theorem ofNat_shr {w : Nat} (a b : BitVec w) :
    BitVec.ofNat w (if b.toNat < w then a.toNat / 2 ^ b.toNat else 0) = a >>> b.toNat := by
  split
  next => exact BitVec.eq_of_toNat_eq (by
    rw [BitVec.toNat_ofNat, BitVec.toNat_ushiftRight, Nat.shiftRight_eq_div_pow,
      Nat.mod_eq_of_lt ((Nat.div_le_self _ _).trans_lt a.isLt)])
  next h => exact (BitVec.ushiftRight_eq_zero (Nat.le_of_not_lt h)).symm

/-- A shift by the width or more leaves the sign in every bit (R138). -/
theorem ofNat_sar {w : Nat} (a b : BitVec w) :
    BitVec.ofNat w (sarN w a.toNat b.toNat) = a.sshiftRight b.toNat := by
  have hs : a.sshiftRight b.toNat = BitVec.ofInt w (a.toInt / 2 ^ b.toNat) := by
    rw [BitVec.sshiftRight, Int.shiftRight_eq_div_pow]; push_cast; rfl
  rw [hs, sarN, signExt_toNat]
  split
  next => exact ofNat_wrapN ..
  next h =>
    have hpow : (2 : Int) ^ w ≤ 2 ^ b.toNat := pow_le_pow_right₀ (by decide) (Nat.le_of_not_lt h)
    have hhalf : (2 : Int) ^ (w - 1) ≤ 2 ^ w := pow_le_pow_right₀ (by decide) (Nat.sub_le ..)
    have hlo := a.le_toInt
    have hhi := a.toInt_lt
    split
    next hneg =>
      rw [Int.ediv_eq_neg_one_of_neg_of_le hneg (by omega)]
      rw [BitVec.ofInt_neg, BitVec.ofInt_ofNat, BitVec.neg_one_eq_allOnes]
      exact BitVec.eq_of_toNat_eq (by simp)
    next hpos =>
      rw [Int.ediv_eq_zero_of_lt (by omega) (by omega)]
      rfl

theorem ofNat_rotl {w : Nat} (hw : 0 < w) (a b : BitVec w) :
    BitVec.ofNat w (let n := b.toNat % w; a.toNat * 2 ^ n % 2 ^ w + a.toNat / 2 ^ (w - n)) = a.rotateLeft (b.toNat % w) := by
  have hn : b.toNat % w < w := Nat.mod_lt _ hw
  simp only []
  generalize b.toNat % w = n at hn
  have hlow : a.toNat / 2 ^ (w - n) < 2 ^ n := by
    rw [Nat.div_lt_iff_lt_mul (by positivity), ← Nat.pow_add]
    simpa [Nat.add_sub_cancel' hn.le] using a.isLt
  have hhigh : a.toNat * 2 ^ n % 2 ^ w = 2 ^ n * (a.toNat % 2 ^ (w - n)) := by
    rw [Nat.mul_comm, ← Nat.mul_mod_mul_left, ← Nat.pow_add, Nat.add_sub_cancel' hn.le]
  have hrot : (a.rotateLeft n).toNat = a.toNat * 2 ^ n % 2 ^ w + a.toNat / 2 ^ (w - n) := by
    rw [BitVec.toNat_rotateLeft, Nat.mod_eq_of_lt hn, Nat.shiftLeft_eq, Nat.shiftRight_eq_div_pow, hhigh,
      Nat.two_pow_add_eq_or_of_lt hlow]
  rw [← hrot, BitVec.ofNat_toNat, BitVec.setWidth_eq]

/-! ## Bit counts (Table ALU-3) -/

/-- The numbers below w that pass before the first that fails. -/
theorem length_takeWhile_range {p : Nat → Bool} {k w : Nat} (hk : k ≤ w) (hpass : ∀ i < k, p i = true)
    (hfail : k < w → p k = false) : ((List.range w).takeWhile p).length = k := by
  obtain ⟨m, rfl⟩ := Nat.exists_eq_add_of_le hk
  rw [List.range_add, List.takeWhile_append_of_pos fun i hi => hpass i (List.mem_range.1 hi)]
  cases m with
  | zero => simp
  | succ m => simp [List.range_succ_eq_map, hfail (by omega)]

theorem ofNat_clz {w : Nat} (a : BitVec w) :
    BitVec.ofNat w (clzN w a.toNat) =
      BitVec.ofNat w ((List.range w).takeWhile fun i => !a.getLsbD (w - 1 - i)).length := by
  congr 1
  rw [clzN]
  split
  next h =>
    have ha : a = 0 := BitVec.eq_of_toNat_eq (by simpa using h)
    exact (length_takeWhile_range le_rfl (by simp [ha]) (by simp)).symm
  next h =>
    have hlog : a.toNat.log2 < w := (Nat.log2_lt h).2 a.isLt
    refine (length_takeWhile_range (by omega) (fun i hi => ?_) fun _ => ?_).symm
    · have hbit : a.toNat.testBit (w - 1 - i) = false :=
        Nat.testBit_lt_two_pow (Nat.lt_log2_self.trans_le (Nat.pow_le_pow_right (by decide) (by omega)))
      simpa [BitVec.getLsbD] using hbit
    · rw [show w - 1 - (w - 1 - a.toNat.log2) = a.toNat.log2 by omega]
      simpa [BitVec.getLsbD] using Nat.testBit_log2 h

theorem ofNat_ctz {w : Nat} (a : BitVec w) :
    BitVec.ofNat w (((List.range w).find? a.toNat.testBit).getD w) =
      BitVec.ofNat w ((List.range w).takeWhile fun i => !a.getLsbD i).length := by
  congr 1
  cases h : (List.range w).find? a.toNat.testBit with
  | none =>
    rw [List.find?_range_eq_none] at h
    exact (length_takeWhile_range le_rfl h (by simp)).symm
  | some k =>
    obtain ⟨hbit, hk, hbelow⟩ := List.find?_range_eq_some.1 h
    exact (length_takeWhile_range (List.mem_range.1 hk).le hbelow fun _ => by simpa [BitVec.getLsbD] using hbit).symm

theorem ofNat_popc {w : Nat} (a : BitVec w) :
    BitVec.ofNat w ((List.range w).filter a.toNat.testBit).length = BitVec.ofNat w ((List.range w).countP a.getLsbD) := by
  rw [List.countP_eq_length_filter]; rfl

theorem testBit_sum_two_pow (f : Nat → Bool) (n l : Nat) :
    (((List.range n).map fun i => if f i then 2 ^ i else 0).sum).testBit l = (decide (l < n) && f l) := by
  rw [← testBit_foldl_two_pow]
  congr 1
  induction n with
  | zero => rfl
  | succ n ih =>
    rw [List.sum_range_succ, ih, List.range_succ, List.foldl_append, List.foldl_cons, List.foldl_nil]
    split <;> rfl

theorem ofNat_brev {w : Nat} (a : BitVec w) :
    BitVec.ofNat w ((List.range w).map fun i => if a.toNat.testBit i then 2 ^ (w - 1 - i) else 0).sum = a.reverse := by
  have hsum : ((List.range w).map fun i => if a.toNat.testBit i then 2 ^ (w - 1 - i) else 0).sum =
      ((List.range w).map fun i => if a.toNat.testBit (w - 1 - i) then 2 ^ i else 0).sum := by
    refine Eq.trans ?_ (Finset.sum_range_reflect (fun i => if a.toNat.testBit (w - 1 - i) then 2 ^ i else 0) w)
    refine congrArg List.sum (List.map_congr_left fun i hi => ?_)
    rw [show w - 1 - (w - 1 - i) = i by have := List.mem_range.1 hi; omega]
  refine BitVec.eq_of_getLsbD_eq fun i hi => ?_
  rw [BitVec.getLsbD_ofNat, hsum, testBit_sum_two_pow, BitVec.getLsbD_reverse, BitVec.getMsbD_eq_getLsbD]
  simp [hi, BitVec.getLsbD]

theorem ofNat_lea {w : Nat} (a b : BitVec w) (n : Nat) : BitVec.ofNat w (a.toNat + b.toNat * 2 ^ n) = a + (b <<< n) := by
  rw [BitVec.ofNat_add, ofNat_mul_two_pow]; simp

/-! ## Bit fields (R139) -/

theorem toNat_field {w : Nat} (a : BitVec w) (pos len : Nat) :
    ((a >>> pos).setWidth len).toNat = a.toNat / 2 ^ pos % 2 ^ len := by
  simp [Nat.shiftRight_eq_div_pow]

theorem ofNat_field (s : Bool) {w : Nat} (a : BitVec w) (pos len : Nat) :
    BitVec.ofNat w (if len = 0 then 0
        else if s then wrapN w (signExt len (a.toNat / 2 ^ pos % 2 ^ len)) else a.toNat / 2 ^ pos % 2 ^ len) =
      if len = 0 then 0
      else if s then ((a >>> pos).setWidth len).signExtend w else ((a >>> pos).setWidth len).setWidth w := by
  rw [← toNat_field]
  split
  · rfl
  · split
    · rw [ofNat_wrapN, signExt_toNat, BitVec.signExtend]
    · rw [BitVec.ofNat_toNat]

/-- The bits of a field of len bits at pos. -/
theorem toNat_fieldMask (w pos len : Nat) :
    (BitVec.ofNat w (2 ^ len - 1) <<< pos).toNat = (2 ^ len - 1) * 2 ^ pos % 2 ^ w := by
  simp [Nat.shiftLeft_eq]

theorem ofNat_insert {w : Nat} (a b : BitVec w) (pos len : Nat) :
    BitVec.ofNat w ((a.toNat &&& (2 ^ w - 1 - (2 ^ len - 1) * 2 ^ pos % 2 ^ w)) |||
        (b.toNat * 2 ^ pos &&& (2 ^ len - 1) * 2 ^ pos % 2 ^ w)) =
      (a &&& ~~~(BitVec.ofNat w (2 ^ len - 1) <<< pos)) ||| ((b <<< pos) &&& (BitVec.ofNat w (2 ^ len - 1) <<< pos)) := by
  rw [← toNat_fieldMask, BitVec.ofNat_or, ofNat_andn, BitVec.ofNat_and, ofNat_mul_two_pow, BitVec.ofNat_toNat, BitVec.setWidth_eq]

/-! ## Byte permutes (R147) -/

theorem sum_bytes_lt {b : Nat → Nat} (hb : ∀ i, b i < 256) (n : Nat) :
    ((List.range n).map fun i => b i * 2 ^ (8 * i)).sum < 2 ^ (8 * n) := by
  induction n with
  | zero => simp
  | succ n ih =>
    rw [List.sum_range_succ, Nat.mul_succ, Nat.pow_add]
    have := Nat.mul_le_mul_right (2 ^ (8 * n)) (Nat.le_of_lt_succ (hb n))
    omega

/-- Bytes joined one by one, low first, are the number of which they are the digits. -/
theorem ofNat_sum_bytes {w : Nat} (b : Nat → BitVec 8) (n : Nat) :
    BitVec.ofNat w ((List.range n).map fun i => (b i).toNat * 2 ^ (8 * i)).sum =
      (List.range n).foldl (fun acc i => acc ||| ((b i).setWidth w <<< (8 * i))) 0 := by
  induction n with
  | zero => rfl
  | succ n ih =>
    have hor := Nat.two_pow_add_eq_or_of_lt (sum_bytes_lt (fun i => (b i).isLt) n) (b n).toNat
    have hbyte : BitVec.ofNat w (2 ^ (8 * n) * (b n).toNat) = (b n).setWidth w <<< (8 * n) :=
      BitVec.eq_of_toNat_eq (by simp [Nat.shiftLeft_eq, Nat.mul_comm])
    rw [List.sum_range_succ, List.range_succ, List.foldl_append, ← ih, Nat.add_comm, Nat.mul_comm, hor, BitVec.ofNat_or,
      hbyte, BitVec.or_comm]
    rfl

/-- The byte of two words that a selector names: of a, then of b. -/
theorem toNat_poolByte {w n : Nat} (hw : 8 * n = w) (a b : BitVec w) (i : Nat) :
    (if i < n then a.extractLsb' (8 * i) 8 else b.extractLsb' (8 * (i - n)) 8).toNat =
      (a.toNat + b.toNat * 2 ^ w) / 2 ^ (8 * i) % 256 := by
  subst hw
  split
  next h =>
    have hpow : (2 : Nat) ^ (8 * n) = 2 ^ (8 * i) * (256 * 2 ^ (8 * (n - i - 1))) := by
      rw [show (256 : Nat) = 2 ^ 8 from rfl, ← Nat.pow_add, ← Nat.pow_add]; congr 1; omega
    rw [BitVec.extractLsb'_toNat, Nat.shiftRight_eq_div_pow, hpow, Nat.mul_left_comm, Nat.add_mul_div_left _ _ (by positivity),
      Nat.mul_left_comm, Nat.add_mul_mod_self_left]
  next h =>
    have hpow : (2 : Nat) ^ (8 * i) = 2 ^ (8 * n) * 2 ^ (8 * (i - n)) := by rw [← Nat.pow_add]; congr 1; omega
    rw [BitVec.extractLsb'_toNat, Nat.shiftRight_eq_div_pow, hpow, ← Nat.div_div_eq_div_mul,
      Nat.add_mul_div_right _ _ (by positivity), Nat.div_eq_of_lt a.isLt, Nat.zero_add]

/-- Byte i of `prmt` as R147 gives it. -/
def permutedByte {w : Nat} (a b c : BitVec w) (i : Nat) : BitVec 8 :=
  let src := c.toNat / 2 ^ (8 * i) % 16 % (2 * (w / 8))
  let x : BitVec 8 := if src < w / 8 then a.extractLsb' (8 * src) 8 else b.extractLsb' (8 * (src - w / 8)) 8
  if c.getLsbD (8 * i + 4) then 0
  else if c.getLsbD (8 * i + 5) then (if x.msb then BitVec.allOnes 8 else 0) else x

/-- Byte i of `prmt` as the model computes it from the operands' numbers. -/
def permutedByteN (w a b c i : Nat) : Nat :=
  let sl := c / 2 ^ (8 * i) % 256
  let src := (a % 2 ^ w + b * 2 ^ w) / 2 ^ (8 * (sl % (2 * (w / 8)))) % 256
  if sl.testBit 4 then 0 else if sl.testBit 5 then (if src.testBit 7 then 255 else 0) else src

theorem testBit_selector (c i : Nat) {j : Nat} (hj : j < 8) : (c / 2 ^ (8 * i) % 256).testBit j = c.testBit (8 * i + j) := by
  rw [show (256 : Nat) = 2 ^ 8 from rfl, Nat.testBit_mod_two_pow, Nat.testBit_div_two_pow, Nat.add_comm]
  simp [hj]

theorem toNat_permutedByte {w : Nat} (hw : 8 * (w / 8) = w) (hpool : 2 * (w / 8) ∣ 16) (a b c : BitVec w) (i : Nat) :
    (permutedByte a b c i).toNat = permutedByteN w a.toNat b.toNat c.toNat i := by
  have hsel : c.toNat / 2 ^ (8 * i) % 256 % (2 * (w / 8)) = c.toNat / 2 ^ (8 * i) % 16 % (2 * (w / 8)) := by
    rw [Nat.mod_mod_of_dvd _ hpool, Nat.mod_mod_of_dvd _ (hpool.trans (by decide))]
  simp only [permutedByte, permutedByteN, testBit_selector, Nat.reduceLT, hsel, Nat.mod_eq_of_lt a.isLt, ← toNat_poolByte hw,
    BitVec.getLsbD]
  generalize (if _ < w / 8 then _ else _ : BitVec 8) = x
  have hmsb : x.msb = x.toNat.testBit 7 := rfl
  rw [hmsb]
  split
  · rfl
  · split
    · split <;> rfl
    · rfl

theorem ofNat_prmt {w : Nat} (hw : w = 32 ∨ w = 64) (a b c : BitVec w) :
    BitVec.ofNat w ((List.range (w / 8)).map fun i => permutedByteN w a.toNat b.toNat c.toNat i * 2 ^ (8 * i)).sum =
      (List.range (w / 8)).foldl (fun acc i => acc ||| ((permutedByte a b c i).setWidth w <<< (8 * i))) 0 := by
  have h8 : 8 * (w / 8) = w := by omega
  have hpool : 2 * (w / 8) ∣ 16 := by rcases hw with rfl | rfl <;> decide
  simp only [← toNat_permutedByte h8 hpool]
  exact ofNat_sum_bytes _ _

/-! ## Pairs of registers (R137, R141) -/

/-- The low 32 bits of a number as `mulw` and `leaw` read them. -/
theorem ofInt_sx (s : Bool) (x : BitVec 64) :
    BitVec.ofInt 64 (sx s 32 x.toNat) = if s then (x.setWidth 32).signExtend 64 else x := by
  rw [sx]
  split
  · rw [signExt_ofNat, BitVec.ofNat_toNat, BitVec.signExtend]
  · rw [BitVec.ofInt_natCast, BitVec.ofNat_toNat, BitVec.setWidth_eq]

theorem ofNat_mulw (s : Bool) (a b : BitVec 64) :
    BitVec.ofNat 64 (wrapN 64 (sx s 32 a.toNat * sx s 32 b.toNat)) =
      if s then (a.setWidth 32).signExtend 64 * (b.setWidth 32).signExtend 64 else a * b := by
  rw [ofNat_wrapN, BitVec.ofInt_mul, ofInt_sx, ofInt_sx]
  split <;> rfl

theorem ofNat_leaw (s : Bool) (n : Nat) (a b : BitVec 64) :
    BitVec.ofNat 64 (wrapN 64 (a.toNat + sx s 32 b.toNat * 2 ^ n)) =
      a + ((if s then (b.setWidth 32).signExtend 64 else b) <<< n) := by
  have hpow : BitVec.ofInt 64 (2 ^ n) = BitVec.twoPow 64 n := by
    rw [show (2 ^ n : Int) = ((2 ^ n : Nat) : Int) by push_cast; rfl, BitVec.ofInt_natCast]
    exact BitVec.eq_of_toNat_eq (by simp)
  rw [ofNat_wrapN, BitVec.ofInt_add, BitVec.ofInt_mul, ofInt_sx, hpow, ← BitVec.shiftLeft_eq_mul_twoPow, BitVec.ofInt_natCast,
    BitVec.ofNat_toNat, BitVec.setWidth_eq]

end Sys2Proof.Proofs
end

section
/-!
PROOFS. The forms of class ALU: what checks 3 to 8 leave of a V3 word (R38, R54, R134), and the results of an instruction that
computes one register or a pair (R133).
-/
namespace Sys2Proof.Proofs
open Sys2Proof.Machine Sys2Proof.Safety Sys2Proof.Num Sys2Proof.Claims Sys2Proof.Laws

/-! ## Well-formed V3 words -/

theorem first_eq_none_iff (b : Bad) : b.first = none ↔ b = {} := by
  constructor
  · intro h
    unfold Bad.first at h
    split_ifs at h
    cases b
    simp_all
  · rintro rfl; rfl

theorem first_or (x y : Bad) : (x.or y).first = none ↔ x.first = none ∧ y.first = none := by
  simp only [first_eq_none_iff, Bad.or, Bad.mk.injEq, Bool.or_eq_false_iff]
  cases x; cases y
  simp only [Bad.mk.injEq]
  tauto

/-- What the rule of a V3 word that passes says of its form, its B field and its codes. -/
theorem chkV3_passes {f : V3} {r : Rule} (h : (chkV3 f r).first = none) :
    (r.u1 = false → f.u = false) ∧ (r.long = true → f.ext ≠ none) ∧ (r.b = .none → f.b = 0) ∧ r.extra.first = none := by
  simp only [chkV3, first_or] at h
  obtain ⟨hform, -, -, -, hb, -, hextra⟩ := h
  rw [first_eq_none_iff] at hform hb
  refine ⟨fun hu => ?_, fun hl hext => ?_, fun hnone => ?_, hextra⟩
  · have huForm : (if f.u then !r.u1 else !r.u0) = false := congrArg Bad.uForm hform
    cases hfu : f.u with
    | false => rfl
    | true => simp [hu, hfu] at huForm
  · have hlong : (r.long && !f.ext.isSome) = false := congrArg Bad.longOnly hform
    simp [hl, hext] at hlong
  · rw [hnone] at hb
    have hnonzero : (f.b != 0) = false := congrArg Bad.nonzero hb
    simpa using hnonzero

theorem subBelow_passes {n : Nat} {x : V3Ext} (h : (subBelow n x).first = none) : x.sub.toNat < n := by
  rw [first_eq_none_iff] at h
  simpa [subBelow] using congrArg Bad.reserved h

theorem aluX_passes {n : Nat} {f : V3} (h : (aluX n f).first = none) : f.x.sat = false ∧ f.x.sub.toNat < n := by
  simp only [aluX, first_or] at h
  obtain ⟨-, hsat, hsub⟩ := h
  rw [first_eq_none_iff] at hsat
  exact ⟨congrArg Bad.nonzero hsat, subBelow_passes hsub⟩

/-- An ALU word without RM and SAT, whose SUB is below n, by the rule of its form. -/
theorem aluRule_passes {f : V3} {r : Rule} {n : Nat} (h : (chkV3 f r).first = none) (hr : r.extra = aluX n f) :
    f.x.sat = false ∧ f.x.sub.toNat < n := by
  obtain ⟨-, -, -, hextra⟩ := chkV3_passes h
  exact aluX_passes (hr ▸ hextra)

theorem sub_eq_zero {x : V3Ext} (h : x.sub.toNat < 1) : x.sub = 0 := BitVec.eq_of_toNat_eq (by simpa using h)

/-! ## Results of one register -/

/-- An operand's number fits in as many bits as it has. -/
theorem read_usrc_eq_toNat (g : Group) {u : Bool} {n w : Nat} (hw : (if u then 64 else 32 * n) ≤ w) (x : BitVec 9)
    (par : BitVec 6) (field l : Nat) :
    g.read (usrc u x par n field) l = (BitVec.ofNat w (g.read (usrc u x par n field) l)).toNat := by
  have hlt : g.read (usrc u x par n field) l < 2 ^ (if u then 64 else 32 * n) := by
    have hread := read_lt g (usrc u x par n field) l
    cases u <;> simpa [usrc, gsrc, vsrc] using hread
  rw [BitVec.toNat_ofNat, Nat.mod_eq_of_lt (hlt.trans_le (Nat.pow_le_pow_right (by decide) hw))]

/-- An instruction that computes with numbers completes as `Computes` says when its function, on the operands' words, gives the
word of the table at both widths. -/
theorem computes_of_compute {p : IntOp} {fn : V3 → Nat → Nat → Nat → Nat → Nat} (run : V3 → State → Out)
    (hrun : ∀ f s, exec (p.ins f) s = run f s) (hnb : p.nb ≤ 1) (hnc : p.nc ≤ 1)
    (hcompute : ∀ f s, run f s = s.compute f 1 1 p.nb p.nc (latU f.u p.latV p.latG) (fn f))
    (hfn : ∀ f w, w = 32 ∨ w = 64 → ∀ a b c : BitVec w, BitVec.ofNat w (fn f w a.toNat b.toNat c.toNat) = p.fn f w a b c) :
    Computes p := by
  intro s c f srcs e rd res hissues hroom
  have hread : ∀ (n : Nat) (x : BitVec 9) (par : BitVec 6) (field w l : Nat), n ≤ 1 → w = (if f.u then 64 else 32) →
      (if n = 0 then 0 else c.g.read (usrc f.u x par n field) l) = (rd n (usrc f.u x par 1 field) w l).toNat := by
    intro n x par field w l hn hw
    interval_cases n
    · rfl
    · exact read_usrc_eq_toNat c.g hw.ge x par field l
  have hval : ∀ w l, w = (if f.u then 64 else 32) →
      BitVec.ofNat w (fn f w (if 1 = 0 then 0 else c.g.read (f.srcA 1) l)
        (if p.nb = 0 then 0 else c.g.read (f.srcB p.nb) l) (if p.nc = 0 then 0 else c.g.read (f.srcC p.nc) l)) = res w l := by
    intro w l hw
    have hw' : w = 32 ∨ w = 64 := by rw [hw]; cases f.u <;> simp
    rw [V3.srcA, V3.srcB, V3.srcC, hread 1 _ _ _ w l le_rfl hw, hread _ _ _ _ w l hnb hw, hread _ _ _ _ w l hnc hw, hfn f w hw']
    rfl
  rw [hrun, hcompute]
  exact compute_ok hissues hroom (fun hu l => hval 32 l (by simp [hu])) (fun hu => hval 64 0 (by simp [hu]))

theorem computes_of_alu1 {ins : V3 → Instr} {fn : V3 → Nat → Nat → Nat}
    {val : V3 → (w : Nat) → BitVec w → BitVec w → BitVec w → BitVec w} (run : V3 → State → Out)
    (hrun : ∀ f s, exec (ins f) s = run f s) (halu : ∀ f s, run f s = s.alu1 f (fn f))
    (hfn : ∀ f w, w = 32 ∨ w = 64 → ∀ a b c : BitVec w, BitVec.ofNat w (fn f w a.toNat) = val f w a b c) :
    Computes ⟨ins, 4, 2, 0, 0, val⟩ :=
  computes_of_compute run hrun (Nat.zero_le 1) (Nat.zero_le 1) halu hfn

theorem computes_of_alu2 {ins : V3 → Instr} {fn : V3 → Nat → Nat → Nat → Nat}
    {val : V3 → (w : Nat) → BitVec w → BitVec w → BitVec w → BitVec w} (run : V3 → State → Out)
    (hrun : ∀ f s, exec (ins f) s = run f s) (halu : ∀ f s, run f s = s.alu2 f (fn f))
    (hfn : ∀ f w, w = 32 ∨ w = 64 → ∀ a b c : BitVec w, BitVec.ofNat w (fn f w a.toNat b.toNat) = val f w a b c) :
    Computes ⟨ins, 4, 2, 1, 0, val⟩ :=
  computes_of_compute run hrun le_rfl (Nat.zero_le 1) halu hfn

/-! ## Results of a pair of registers -/

theorem wrV_two (d : Nat) (e : Mask) (val : Nat → Nat) : wrV d 2 e val = pairWr d e fun l => BitVec.ofNat 64 (val l) := by
  have hlow (x : Nat) : (BitVec.ofNat 64 x).setWidth 32 = BitVec.ofNat 32 x :=
    BitVec.eq_of_toNat_eq (by simp)
  have hhigh (x : Nat) : (BitVec.ofNat 64 x >>> 32).setWidth 32 = BitVec.ofNat 32 (x / 2 ^ 32) :=
    BitVec.eq_of_toNat_eq (by simp [Nat.shiftRight_eq_div_pow]; omega)
  simp [wrV, pairWr, lanesWr, List.range_succ, hlow, hhigh]

/-- What R133 says of a wide instruction: the function's result is visible in the pair after the latency. -/
def ComputesPair (p : WideOp) : Prop :=
  ∀ (s : State) (c : Cur) (f : V3), f.u = false →
    let srcs := f.srcs p.na p.nb 0
    let e := f.mask c
    Issues s c none (srcs ++ [f.dst 2]) srcs f.mask → Room s c e srcs 2 0 →
    exec (p.ins f) s = .next (inFlight s c e srcs
      (fixedFlight s p.lat 0 (pairWr f.d.toNat e fun l =>
        p.fn f (BitVec.ofNat 64 (c.g.read (f.srcA p.na) l)) (BitVec.ofNat 64 (c.g.read (f.srcB p.nb) l)))) f.s)

/-- A wide instruction that computes with numbers completes as `ComputesPair` says when its function, on the operands' words,
gives the word of the table. -/
theorem computesPair_of_compute {p : WideOp} {fn : V3 → Nat → Nat → Nat → Nat → Nat} (run : V3 → State → Out)
    (hrun : ∀ f s, exec (p.ins f) s = run f s) (hna : p.na ≠ 0 ∧ p.na ≤ 2) (hnb : p.nb ≠ 0 ∧ p.nb ≤ 2)
    (hcompute : ∀ f s, run f s = s.compute f 2 p.na p.nb 0 p.lat (fn f))
    (hfn : ∀ f (a b : BitVec 64), BitVec.ofNat 64 (fn f 32 a.toNat b.toNat 0) = p.fn f a b) : ComputesPair p := by
  intro s c f hu srcs e hissues hroom
  have hread {n : Nat} (hn : n ≤ 2) := read_usrc_eq_toNat c.g (u := f.u) (n := n) (w := 64) (by split <;> omega)
  have hval (l : Nat) : BitVec.ofNat 64 (fn f 32 (c.g.read (f.srcA p.na) l) (c.g.read (f.srcB p.nb) l) 0) =
      p.fn f (BitVec.ofNat 64 (c.g.read (f.srcA p.na) l)) (BitVec.ofNat 64 (c.g.read (f.srcB p.nb) l)) := by
    rw [← hfn, V3.srcA, V3.srcB, ← hread hna.2, ← hread hnb.2]
  rw [hrun, hcompute, State.compute]
  simp only []
  rw [issue_ok hissues]
  simp only [hu, Bool.false_eq_true, if_false, if_neg hna.1, if_neg hnb.1, if_true, wrV_two, hval]
  exact fixed_ok hissues.1 hroom

end Sys2Proof.Proofs
end

section
/-!
PROOFS. Class ALU: integer arithmetic, logic, shifts, bit counts, bit fields and byte permutes (R133 to R141, R147).
-/
namespace Sys2Proof.Proofs
open Sys2Proof.Machine Sys2Proof.Safety Sys2Proof.Num Sys2Proof.Claims Sys2Proof.Laws

/-! ## Values -/

theorem computes_intOps : ∀ p ∈ intOps, Computes p := by
  simp only [intOps, List.forall_mem_cons]
  refine ⟨?mov, ?add, ?sub, ?mul, ?mulhi, ?mad, ?abs, ?min, ?max, ?adds, ?subs, nofun⟩
  case mov => exact computes_of_alu1 execMov (fun _ _ => rfl) (fun _ _ => rfl) fun _ _ _ a _ _ => by simp
  case add => exact computes_of_alu2 execAdd (fun _ _ => rfl) (fun _ _ => rfl) fun _ _ _ a b _ => ofNat_add_toNat a b
  case sub => exact computes_of_alu2 execSub (fun _ _ => rfl) (fun _ _ => rfl) fun _ _ _ a b _ => ofNat_sub_toNat a b
  case mul =>
    exact computes_of_compute execMul (fun _ _ => rfl) le_rfl (Nat.zero_le 1) (fun _ _ => rfl) fun _ _ _ a b _ =>
      ofNat_mul_toNat a b
  case mulhi =>
    exact computes_of_compute execMulhi (fun _ _ => rfl) le_rfl (Nat.zero_le 1) (fun _ _ => rfl) fun f _ _ a b _ =>
      ofNat_mulhi (signed f) a b
  case mad =>
    exact computes_of_compute execMad (fun _ _ => rfl) le_rfl le_rfl (fun _ _ => rfl) fun _ _ _ a b c => ofNat_mad a b c
  case abs =>
    exact computes_of_alu1 execAbs (fun _ _ => rfl) (fun _ _ => rfl) fun f _ hw a _ _ => ofNat_abs f.x.sat (by omega) a
  case min => exact computes_of_alu2 execMin (fun _ _ => rfl) (fun _ _ => rfl) fun f _ _ a b _ => ofNat_lesser (signed f) a b a b
  case max => exact computes_of_alu2 execMax (fun _ _ => rfl) (fun _ _ => rfl) fun f _ _ a b _ => ofNat_lesser (signed f) a b b a
  case adds => exact computes_of_alu2 execAdds (fun _ _ => rfl) (fun _ _ => rfl) fun f _ _ a b _ => ofNat_adds (signed f) a b
  case subs => exact computes_of_alu2 execSubs (fun _ _ => rfl) (fun _ _ => rfl) fun f _ _ a b _ => ofNat_subs (signed f) a b

theorem computes_logicOps : ∀ p ∈ logicOps, Computes p := by
  simp only [logicOps, List.forall_mem_cons]
  refine ⟨?and, ?or, ?xor, ?andn, ?orn, ?shl, ?shr, ?sar, ?rotl, ?clz, ?ctz, ?popc, ?brev, ?lea, nofun⟩
  case and => exact computes_of_alu2 execAnd (fun _ _ => rfl) (fun _ _ => rfl) fun _ _ _ a b _ => ofNat_and_toNat a b
  case or => exact computes_of_alu2 execOr (fun _ _ => rfl) (fun _ _ => rfl) fun _ _ _ a b _ => ofNat_or_toNat a b
  case xor => exact computes_of_alu2 execXor (fun _ _ => rfl) (fun _ _ => rfl) fun _ _ _ a b _ => ofNat_xor_toNat a b
  case andn => exact computes_of_alu2 execAndn (fun _ _ => rfl) (fun _ _ => rfl) fun _ _ _ a b _ => ofNat_andn a b
  case orn => exact computes_of_alu2 execOrn (fun _ _ => rfl) (fun _ _ => rfl) fun _ _ _ a b _ => ofNat_orn a b
  case shl => exact computes_of_alu2 execShl (fun _ _ => rfl) (fun _ _ => rfl) fun _ _ _ a b _ => ofNat_shl a b
  case shr => exact computes_of_alu2 execShr (fun _ _ => rfl) (fun _ _ => rfl) fun _ _ _ a b _ => ofNat_shr a b
  case sar => exact computes_of_alu2 execSar (fun _ _ => rfl) (fun _ _ => rfl) fun _ _ _ a b _ => ofNat_sar a b
  case rotl =>
    exact computes_of_alu2 execRotl (fun _ _ => rfl) (fun _ _ => rfl) fun _ _ hw a b _ => ofNat_rotl (by omega) a b
  case clz => exact computes_of_alu1 execClz (fun _ _ => rfl) (fun _ _ => rfl) fun _ _ _ a _ _ => ofNat_clz a
  case ctz => exact computes_of_alu1 execCtz (fun _ _ => rfl) (fun _ _ => rfl) fun _ _ _ a _ _ => ofNat_ctz a
  case popc => exact computes_of_alu1 execPopc (fun _ _ => rfl) (fun _ _ => rfl) fun _ _ _ a _ _ => ofNat_popc a
  case brev => exact computes_of_alu1 execBrev (fun _ _ => rfl) (fun _ _ => rfl) fun _ _ _ a _ _ => ofNat_brev a
  case lea => exact computes_of_alu2 execLea (fun _ _ => rfl) (fun _ _ => rfl) fun f _ _ a b _ => ofNat_lea a b f.x.sub.toNat

theorem computes_fieldOps : ∀ p ∈ fieldOps, Computes p := by
  simp only [fieldOps, List.forall_mem_cons]
  refine ⟨?bfx, ?bfi, ?prmt, nofun⟩
  case bfx =>
    exact computes_of_compute execBfx (fun _ _ => rfl) (Nat.zero_le 1) le_rfl (fun _ _ => rfl) fun f w _ a _ c =>
      ofNat_field (signed f) a (c.toNat % 64 % w) (min (c.toNat / 256 % 128) w)
  case bfi =>
    exact computes_of_compute execBfi (fun _ _ => rfl) le_rfl le_rfl (fun _ _ => rfl) fun _ w _ a b c =>
      ofNat_insert a b (c.toNat % 64 % w) (min (c.toNat / 256 % 128) w)
  case prmt =>
    exact computes_of_compute execPrmt (fun _ _ => rfl) le_rfl le_rfl (fun _ _ => rfl) fun _ _ hw a b c => ofNat_prmt hw a b c

theorem computesPair_wideOps : ∀ p ∈ wideOps, ComputesPair p := by
  simp only [wideOps, List.forall_mem_cons]
  refine ⟨?addw, ?subw, ?mulw, ?leaw, nofun⟩
  case addw =>
    exact computesPair_of_compute execAddw (fun _ _ => rfl) (by decide) (by decide) (fun _ _ => rfl) fun _ a b =>
      ofNat_add_toNat a b
  case subw =>
    exact computesPair_of_compute execSubw (fun _ _ => rfl) (by decide) (by decide) (fun _ _ => rfl) fun _ a b =>
      ofNat_sub_toNat a b
  case mulw =>
    exact computesPair_of_compute execMulw (fun _ _ => rfl) (by decide) (by decide) (fun _ _ => rfl) fun f a b =>
      ofNat_mulw (signed f) a b
  case leaw =>
    exact computesPair_of_compute execLeaw (fun _ _ => rfl) (by decide) (by decide) (fun _ _ => rfl) fun f a b =>
      ofNat_leaw f.x.sat f.x.sub.toNat a b

/-! ## What is well formed -/

/-- The forms of Table ALU-2: SAT in `abs` alone, the extension word of `mad`, and SUB 1 where the sign matters. -/
def IntForm (i : Instr) (f : V3) : Prop :=
  (f.x.sat = true → i = .abs f) ∧ (i = .mad f → f.ext ≠ none) ∧ f.x.sub.toNat < 2 ∧
    (f.x.sub ≠ 0 → i ∈ [Instr.mulhi f, .min f, .max f, .adds f, .subs f])

theorem intForm_of_sub_zero {i : Instr} {f : V3} (hx : f.x.sat = false ∧ f.x.sub.toNat < 1) (hmad : i = .mad f → f.ext ≠ none) :
    IntForm i f := by
  obtain ⟨hsat, hsub⟩ := hx
  exact ⟨by simp [hsat], hmad, by omega, fun h => absurd (sub_eq_zero hsub) h⟩

theorem intForm_of_signed {i : Instr} {f : V3} (hx : f.x.sat = false ∧ f.x.sub.toNat < 2) (hmad : i ≠ .mad f)
    (hmem : i ∈ [Instr.mulhi f, .min f, .max f, .adds f, .subs f]) : IntForm i f :=
  ⟨by simp [hx.1], fun h => absurd h hmad, hx.2, fun _ => hmem⟩

theorem intForm_of_wellFormed : ∀ p ∈ intOps, ∀ f : V3, (p.ins f).WellFormed → IntForm (p.ins f) f := by
  simp only [intOps, List.forall_mem_cons]
  refine ⟨?mov, ?add, ?sub, ?mul, ?mulhi, ?mad, ?abs, ?min, ?max, ?adds, ?subs, nofun⟩
  case mov => exact fun f h => intForm_of_sub_zero (aluRule_passes h rfl) nofun
  case add => exact fun f h => intForm_of_sub_zero (aluRule_passes h rfl) nofun
  case sub => exact fun f h => intForm_of_sub_zero (aluRule_passes h rfl) nofun
  case mul => exact fun f h => intForm_of_sub_zero (aluRule_passes h rfl) nofun
  case mulhi => exact fun f h => intForm_of_signed (aluRule_passes h rfl) nofun (by simp)
  case mad =>
    intro f h
    obtain ⟨-, hlong, -, -⟩ := chkV3_passes h
    exact intForm_of_sub_zero (aluRule_passes h rfl) fun _ => hlong rfl
  case abs =>
    intro f h
    obtain ⟨-, -, -, hextra⟩ := chkV3_passes h
    have hsub := subBelow_passes ((first_or _ _).1 hextra).2
    exact ⟨fun _ => rfl, nofun, by omega, fun h0 => absurd (sub_eq_zero hsub) h0⟩
  case min => exact fun f h => intForm_of_signed (aluRule_passes h rfl) nofun (by simp)
  case max => exact fun f h => intForm_of_signed (aluRule_passes h rfl) nofun (by simp)
  case adds => exact fun f h => intForm_of_signed (aluRule_passes h rfl) nofun (by simp)
  case subs => exact fun f h => intForm_of_signed (aluRule_passes h rfl) nofun (by simp)

/-- Table ALU-3 and `lea`: no SAT, and SUB in `lea` alone. -/
theorem logicForm_of_wellFormed : ∀ p ∈ logicOps, ∀ f : V3, (p.ins f).WellFormed →
    f.x.sat = false ∧ (f.x.sub = 0 ∨ p.ins f = .lea f) := by
  have hplain {f : V3} {r : Rule} {i : Instr} (h : (chkV3 f r).first = none) (hr : r.extra = aluX 1 f) :
      f.x.sat = false ∧ (f.x.sub = 0 ∨ i = .lea f) := by
    obtain ⟨hsat, hsub⟩ := aluRule_passes h hr
    exact ⟨hsat, .inl (sub_eq_zero hsub)⟩
  simp only [logicOps, List.forall_mem_cons]
  refine ⟨?and, ?or, ?xor, ?andn, ?orn, ?shl, ?shr, ?sar, ?rotl, ?clz, ?ctz, ?popc, ?brev, ?lea, nofun⟩
  case lea => exact fun f h => ⟨(aluRule_passes (n := 8) h rfl).1, .inr trivial⟩
  all_goals exact fun f h => hplain h rfl

/-- R139, R147: the long form; B is unused in `bfx`, and SUB is its sign. -/
theorem fieldForm_of_wellFormed : ∀ p ∈ fieldOps, ∀ f : V3, (p.ins f).WellFormed →
    f.ext ≠ none ∧ ((p.ins f = .bfx f ∧ f.b = 0 ∧ f.x.sub.toNat < 2) ∨ f.x.sub = 0) := by
  simp only [fieldOps, List.forall_mem_cons]
  refine ⟨?bfx, ?bfi, ?prmt, nofun⟩
  case bfx =>
    intro f h
    obtain ⟨-, hlong, hb, -⟩ := chkV3_passes h
    exact ⟨hlong rfl, .inl ⟨trivial, hb rfl, (aluRule_passes (n := 2) h rfl).2⟩⟩
  all_goals
    intro f h
    obtain ⟨-, hlong, -, -⟩ := chkV3_passes h
    exact ⟨hlong rfl, .inr (sub_eq_zero (aluRule_passes h rfl).2)⟩

/-- Wide instructions: U = 0; SAT in `leaw` alone, and SUB 1 in `mulw`. -/
theorem wideForm_of_wellFormed : ∀ p ∈ wideOps, ∀ f : V3, (p.ins f).WellFormed → f.u = false ∧
    (p.ins f = .leaw f ∨ (f.x.sat = false ∧ f.x.sub.toNat < 2 ∧ (f.x.sub ≠ 0 → p.ins f = .mulw f))) := by
  have hplain {f : V3} {r : Rule} {i : Instr} (h : (chkV3 f r).first = none) (hu : r.u1 = false) (hr : r.extra = aluX 1 f) :
      f.u = false ∧ (i = .leaw f ∨ (f.x.sat = false ∧ f.x.sub.toNat < 2 ∧ (f.x.sub ≠ 0 → i = .mulw f))) := by
    obtain ⟨hsat, hsub⟩ := aluRule_passes h hr
    exact ⟨(chkV3_passes h).1 hu, .inr ⟨hsat, by omega, fun h0 => absurd (sub_eq_zero hsub) h0⟩⟩
  simp only [wideOps, List.forall_mem_cons]
  refine ⟨?addw, ?subw, ?mulw, ?leaw, nofun⟩
  case addw => exact fun f h => hplain h rfl rfl
  case subw => exact fun f h => hplain h rfl rfl
  case mulw =>
    intro f h
    obtain ⟨hsat, hsub⟩ := aluRule_passes (n := 2) h rfl
    exact ⟨(chkV3_passes h).1 rfl, .inr ⟨hsat, hsub, fun _ => trivial⟩⟩
  case leaw => exact fun f h => ⟨(chkV3_passes h).1 rfl, .inl trivial⟩

/-- Settles O1: every instruction of Table ALU-3, `lea`, `bfx`, `bfi` and `prmt` computes its value, and their well-formed words
are those of their rules. -/
theorem logicShiftsAndFields : Obligations.LogicShiftsAndFields :=
  ⟨⟨computes_logicOps, logicForm_of_wellFormed⟩, computes_fieldOps, fieldForm_of_wellFormed⟩

/-- Settles O2: the instructions of Table ALU-2 compute their values in one register, and the wide ones and `leaw` in a pair. -/
theorem integerArithmetic : Obligations.IntegerArithmetic :=
  ⟨⟨computes_intOps, intForm_of_wellFormed⟩, wideForm_of_wellFormed, computesPair_wideOps⟩

end Sys2Proof.Proofs
end
